-- ==== Sys2Proof/Word.lean ====
section
/-! DEFINITION. The word types of the DH4 and the sparse map that memories and register files are made of. -/

namespace Sys2Proof

/-- One byte, the smallest addressable unit (R2). -/
abbrev Byte := BitVec 8

/-- One 32-bit register or instruction word (R28, R56). -/
abbrev Word := BitVec 32

/-- One 64-bit pair, address or counter (R37). -/
abbrev DWord := BitVec 64

/-- An operand field of an instruction word (R56). -/
abbrev Fld := BitVec 8

/-- A set of the 96 lanes of a wave, lane 0 in bit 0 (R37). -/
abbrev LaneMask := BitVec 96

/-- A sparse map: keys strictly rising, and no entry that equals what an unlisted key reads as. -/
abbrev SMap (β : Type) := List (Nat × β)

end Sys2Proof
end

