-- ==== Sys2Proof/Syntax.lean ====
section
/-! DEFINITION. The instructions, micro-instructions and events of the DH4: one constructor for each row of spec/opcode_table.json. -/

namespace Sys2Proof

/-- Where a unit sits: die, die-wide core, and unit code as dw_sel.unit (R52). A supervisor thread t of supervisor core s
has core 240 + s and unit t (R427, R428). -/
structure Place where
  die : Nat
  core : Nat
  unit : Nat
  deriving DecidableEq, Repr

/-- A request by physical address from the host or from another package (R295, R298): a read of n bytes, or a write. -/
structure MemReq where
  pa : Nat
  n : Nat
  wr : Option (List Byte)
  deriving DecidableEq, Repr

/-- The firmware image that step 6 of bring-up reads (R425). -/
structure Image where
  slot : Nat
  key : List Byte
  version : Word
  place : Nat
  entry : Nat
  header : List Byte
  body : List Byte
  sig : List Byte
  deriving DecidableEq, Repr

/-- What a bring-up meets (R422, R424): a failing step, if any, with what the report then names; the package number; the image. -/
structure BringUp where
  failStep : Option Nat
  failDie : BitVec 8
  failCode : BitVec 8
  failUnit : BitVec 16
  failDetail : DWord
  pkgNo : BitVec 9
  image : Option Image
  deriving DecidableEq, Repr

/-- What meets an uncorrectable soft error: a unit's instruction, a command, a ray of a batch, or no access of the three (R405, R429). -/
inductive ErrAt where
  | unit (p : Place) (gang : Nat)
  | cmd (id : Nat)
  | ray (batch lane : Nat)
  /-- the decrement of a grid's completion counter (R468) -/
  | decrement (grid : Nat)
  /-- a line that a core's L1, or an L2 slice of the die, holds, by its VA[56:7] -/
  | l1 (core tag : Nat)
  | l2 (tag : Nat)
  | memory
  deriving DecidableEq, Repr

/-- A detected soft error (R405, R429): die, structure code, whether it was corrected, and what met it. -/
structure ErrInfo where
  die : Nat
  kind : BitVec 4
  corrected : Bool
  counted : Bool
  addr : DWord
  met : ErrAt
  deriving DecidableEq, Repr

/-- Every step of the part: the 207 instructions with their operand fields (R56, R59), the 24 micro-instructions of the
intersection unit (R351), and the events that the opcode table lists, each with the data it carries. -/
inductive Instr where
  /-- NOP (R146): Does nothing except advance pc and the retired count. -/
  | nop
  /-- BRA (R133): Branches unconditionally to PC + 4 + 4 × off24. -/
  | bra (off : BitVec 24)
  /-- CALL (R133): Branches to the J-form target and writes PC + 4 to the pair v0:v1. -/
  | call (off : BitVec 24)
  /-- BRT (R133): Branches in lanes where the condition operand is nonzero, dividing slices when needed. -/
  | brt (d : BitVec 8) (i : BitVec 16)
  /-- BRF (R133): Branches in lanes where the condition operand is zero. -/
  | brf (d : BitVec 8) (i : BitVec 16)
  /-- BRI (R134): Branches to a per-lane target held in a pair, splitting a slice by distinct targets. -/
  | bri (a : BitVec 8)
  /-- CALLI (R134): Indirect call to the target in pair a, writing PC + 4 to pair d. -/
  | calli (d : BitVec 8) (a : BitVec 8)
  /-- RET (R134): Returns to the target held in pair a. -/
  | ret (a : BitVec 8)
  /-- JOINAT (R136): Pushes a join entry with the computed join PC onto the slice's reconvergence stack. -/
  | joinat (i : BitVec 16)
  /-- REGANG (R140): Makes the slice wait until every live slice of the wave reaches a REGANG. -/
  | regang
  /-- LOOP (R141): Opens a counted hardware loop, reading the count once and pushing a loop entry or skipping the body. -/
  | loop (d : BitVec 8) (i : BitVec 16)
  /-- LBRK (R143): Pops the innermost loop entry and continues after its end. -/
  | lbrk
  /-- EXIT (R144): Retires every lane active under the guard, freeing resources when the wave or thread ends. -/
  | exit
  /-- LAND (R145): Marks a legal MIGR or SPAWN entry and has no effect when reached otherwise. -/
  | land
  /-- YIELD (R146): Places the issuing gang or thread last among ready candidates for the next selection. -/
  | yield
  /-- MODE (R147): Writes the whole mode register from imm16. -/
  | mode (i : BitVec 16)
  /-- MODET (R147): Writes the mode register's type field. -/
  | modet (t : BitVec 4)
  /-- MODEG (R147): Writes the guard, gneg and gen fields of the mode register. -/
  | modeg (e : BitVec 1) (n : BitVec 1) (g : BitVec 3)
  /-- MODES (R147): Writes the mode register's scope field. -/
  | modes (s : BitVec 3)
  /-- MODER (R147): Writes the mode register's rounding field. -/
  | moder (r : BitVec 2)
  /-- MODEW (R147): Writes the mode register from bits [15:0] of a uniform register. -/
  | modew (a : BitVec 8)
  /-- TRAP (R156): Raises FLT_TRAP and stops the unit when any lane is active. -/
  | trap (i : BitVec 8)
  /-- BKPT (R156): Raises FLT_BKPT and stops the unit when any lane is active. -/
  | bkpt (i : BitVec 8)
  /-- MIGR (R148): Moves each active lane to the other engine kind after the loop, fetch, LAND and template checks. -/
  | migr (off : BitVec 24)
  /-- SPAWN (R152): Places thread records into a spawn bin of the issuing quad. -/
  | spawn (d : BitVec 8) (a : BitVec 8)
  /-- FORK (R153): Suspends the issuing unit and enqueues the launch record named in pair a. -/
  | fork (a : BitVec 8)
  /-- CALLAT (R154): Sends tasks to a core's or MCC's task queue and writes each task's tag. -/
  | callat (d : BitVec 8) (a : BitVec 8) (b : BitVec 8)
  /-- MFS (R157): Reads system register n into d. -/
  | mfs (d : BitVec 8) (i : BitVec 8)
  /-- MTS (R157): Writes a uniform register value to system register n. -/
  | mts (a : BitVec 8) (i : BitVec 8)
  /-- SLEEP (R158): Suspends the gang or thread until an inbox word, a timeout or a supervisor resume. -/
  | sleep (a : BitVec 8)
  /-- HALT (R159): Halts or releases a halt of one unit of the package. -/
  | halt (a : BitVec 8) (b : BitVec 8)
  /-- ADD (R80): Adds a and b under the mode type. -/
  | add (d : BitVec 8) (a : BitVec 8) (b : BitVec 8)
  /-- SUB (R80): Subtracts b from a under the mode type. -/
  | sub (d : BitVec 8) (a : BitVec 8) (b : BitVec 8)
  /-- MUL (R80): Multiplies a by b under the mode type. -/
  | mul (d : BitVec 8) (a : BitVec 8) (b : BitVec 8)
  /-- MAD (R80): Forms a × b + d with a single fit or rounding. -/
  | mad (d : BitVec 8) (a : BitVec 8) (b : BitVec 8)
  /-- MIN (R80): Writes the smaller of a and b. -/
  | min (d : BitVec 8) (a : BitVec 8) (b : BitVec 8)
  /-- MAX (R80): Writes the larger of a and b. -/
  | max (d : BitVec 8) (a : BitVec 8) (b : BitVec 8)
  /-- NEG (R80): Writes the negation of a. -/
  | neg (d : BitVec 8) (a : BitVec 8)
  /-- ABS (R80): Writes the absolute value of a. -/
  | abs (d : BitVec 8) (a : BitVec 8)
  /-- ADDI (R80): Adds a signed 8-bit immediate to a. -/
  | addi (d : BitVec 8) (a : BitVec 8) (i : BitVec 8)
  /-- MULI (R80): Multiplies a by a signed 8-bit immediate. -/
  | muli (d : BitVec 8) (a : BitVec 8) (i : BitVec 8)
  /-- CLAMP (R80): Writes min(max(d, a), b). -/
  | clamp (d : BitVec 8) (a : BitVec 8) (b : BitVec 8)
  /-- MULH (R80): Writes the high half of the exact double-width product. -/
  | mulh (d : BitVec 8) (a : BitVec 8) (b : BitVec 8)
  /-- DIV (R81): Divides a by b with truncation and defined zero-divisor results. -/
  | div (d : BitVec 8) (a : BitVec 8) (b : BitVec 8)
  /-- REM (R81): Writes the remainder of truncating division of a by b. -/
  | rem (d : BitVec 8) (a : BitVec 8) (b : BitVec 8)
  /-- SAD (R82): Adds the element-wise absolute differences of a and b into d. -/
  | sad (d : BitVec 8) (a : BitVec 8) (b : BitVec 8)
  /-- ADDC (R83): Adds a, b and the carry in d+1, writing sum and carry to the pair d. -/
  | addc (d : BitVec 8) (a : BitVec 8) (b : BitVec 8)
  /-- CEQ (R84): Compares a = b per element. -/
  | ceq (d : BitVec 8) (a : BitVec 8) (b : BitVec 8)
  /-- CNE (R84): Compares a ≠ b per element. -/
  | cne (d : BitVec 8) (a : BitVec 8) (b : BitVec 8)
  /-- CLT (R84): Compares a < b per element. -/
  | clt (d : BitVec 8) (a : BitVec 8) (b : BitVec 8)
  /-- CLE (R84): Compares a ≤ b per element. -/
  | cle (d : BitVec 8) (a : BitVec 8) (b : BitVec 8)
  /-- CGT (R84): Compares a > b per element. -/
  | cgt (d : BitVec 8) (a : BitVec 8) (b : BitVec 8)
  /-- CGE (R84): Compares a ≥ b per element. -/
  | cge (d : BitVec 8) (a : BitVec 8) (b : BitVec 8)
  /-- CUN (R117): Tests whether a or b is a NaN. -/
  | cun (d : BitVec 8) (a : BitVec 8) (b : BitVec 8)
  /-- CEQI (R84): Compares a with a sign-extended immediate for equality. -/
  | ceqi (d : BitVec 8) (a : BitVec 8) (i : BitVec 8)
  /-- CLTI (R84): Compares a < sign-extended immediate. -/
  | clti (d : BitVec 8) (a : BitVec 8) (i : BitVec 8)
  /-- PAND (R85): Writes the AND of the truths of a and b. -/
  | pand (d : BitVec 8) (a : BitVec 8) (b : BitVec 8)
  /-- POR (R85): Writes the OR of the truths of a and b. -/
  | por (d : BitVec 8) (a : BitVec 8) (b : BitVec 8)
  /-- PXOR (R85): Writes the XOR of the truths of a and b. -/
  | pxor (d : BitVec 8) (a : BitVec 8) (b : BitVec 8)
  /-- PNOT (R85): Writes the negated truth of a. -/
  | pnot (d : BitVec 8) (a : BitVec 8)
  /-- CLASS (R117): Tests whether the float class of a is selected by the mask in b. -/
  | class (d : BitVec 8) (a : BitVec 8) (b : BitVec 8)
  /-- TSTB (R85): Writes bit n of a. -/
  | tstb (d : BitVec 8) (a : BitVec 8) (i : BitVec 5)
  /-- PMOV (R85): Copies a into d in lanes where b is true. -/
  | pmov (d : BitVec 8) (a : BitVec 8) (b : BitVec 8)
  /-- AND (R86): Bitwise AND of a and b. -/
  | and (d : BitVec 8) (a : BitVec 8) (b : BitVec 8)
  /-- OR (R86): Bitwise OR of a and b. -/
  | or (d : BitVec 8) (a : BitVec 8) (b : BitVec 8)
  /-- XOR (R86): Bitwise XOR of a and b. -/
  | xor (d : BitVec 8) (a : BitVec 8) (b : BitVec 8)
  /-- NOT (R86): Bitwise NOT of a. -/
  | not (d : BitVec 8) (a : BitVec 8)
  /-- ANDN (R86): Bitwise a AND NOT b. -/
  | andn (d : BitVec 8) (a : BitVec 8) (b : BitVec 8)
  /-- SHL (R87): Shifts a left by the count in b. -/
  | shl (d : BitVec 8) (a : BitVec 8) (b : BitVec 8)
  /-- SHR (R87): Shifts a right logically by the count in b. -/
  | shr (d : BitVec 8) (a : BitVec 8) (b : BitVec 8)
  /-- SAR (R87): Shifts a right arithmetically by the count in b. -/
  | sar (d : BitVec 8) (a : BitVec 8) (b : BitVec 8)
  /-- ROL (R87): Rotates a left by the count in b. -/
  | rol (d : BitVec 8) (a : BitVec 8) (b : BitVec 8)
  /-- SHLI (R87): Shifts a left by an immediate count. -/
  | shli (d : BitVec 8) (a : BitVec 8) (i : BitVec 6)
  /-- SHRI (R87): Shifts a right logically by an immediate count. -/
  | shri (d : BitVec 8) (a : BitVec 8) (i : BitVec 6)
  /-- SARI (R87): Shifts a right arithmetically by an immediate count. -/
  | sari (d : BitVec 8) (a : BitVec 8) (i : BitVec 6)
  /-- POPC (R88): Counts the one bits of a. -/
  | popc (d : BitVec 8) (a : BitVec 8)
  /-- CLZ (R88): Counts the leading zero bits of a. -/
  | clz (d : BitVec 8) (a : BitVec 8)
  /-- BREV (R88): Reverses the bit order of a. -/
  | brev (d : BitVec 8) (a : BitVec 8)
  /-- BFE (R89): Extracts a bit field of a selected by b. -/
  | bfe (d : BitVec 8) (a : BitVec 8) (b : BitVec 8)
  /-- MOV (R90): Copies a to d. -/
  | mov (d : BitVec 8) (a : BitVec 8)
  /-- MOVL (R91): Writes a zero-extended 16-bit immediate. -/
  | movl (d : BitVec 8) (i : BitVec 16)
  /-- MOVH (R91): Writes the immediate into the upper half of d, keeping the lower half. -/
  | movh (d : BitVec 8) (i : BitVec 16)
  /-- MOVS (R91): Writes a sign-extended 16-bit immediate. -/
  | movs (d : BitVec 8) (i : BitVec 16)
  /-- BFI (R89): Inserts the low bits of a into a field of d selected by b. -/
  | bfi (d : BitVec 8) (a : BitVec 8) (b : BitVec 8)
  /-- PRMT (R92): Selects bytes from the pair a by selectors in b. -/
  | prmt (d : BitVec 8) (a : BitVec 8) (b : BitVec 8)
  /-- PACK (R93): Narrows two registers into one packed result. -/
  | pack (d : BitVec 8) (a : BitVec 8) (b : BitVec 8)
  /-- ADDA (R94): Adds a sign-extended 32-bit offset to a 64-bit address pair. -/
  | adda (d : BitVec 8) (a : BitVec 8) (b : BitVec 8)
  /-- ADDAI (R94): Adds a signed byte immediate to a 64-bit address pair. -/
  | addai (d : BitVec 8) (a : BitVec 8) (i : BitVec 8)
  /-- LANE (R95): Reads operand a of lane i once the whole strand has arrived. -/
  | lane (d : BitVec 8) (a : BitVec 8) (b : BitVec 8)
  /-- BCAST (R95): Broadcasts a from the lowest active lane of the strand to its active lanes. -/
  | bcast (d : BitVec 8) (a : BitVec 8)
  /-- SUBA (R94): Subtracts two 64-bit address pairs. -/
  | suba (d : BitVec 8) (a : BitVec 8) (b : BitVec 8)
  /-- CLTA (R94): Compares two address pairs as n64 for less-than. -/
  | clta (d : BitVec 8) (a : BitVec 8) (b : BitVec 8)
  /-- CEQA (R94): Compares two address pairs for equality. -/
  | ceqa (d : BitVec 8) (a : BitVec 8) (b : BitVec 8)
  /-- CVT (R118): Converts elements from the source type in b to the mode type. -/
  | cvt (d : BitVec 8) (a : BitVec 8) (b : BitVec 8)
  /-- CVTR (R122): Converts f32 with stochastic rounding using a random word. -/
  | cvtr (d : BitVec 8) (a : BitVec 8) (b : BitVec 8)
  /-- RCP (R123): Writes the correctly rounded reciprocal. -/
  | rcp (d : BitVec 8) (a : BitVec 8)
  /-- RSQ (R123): Writes the correctly rounded reciprocal square root. -/
  | rsq (d : BitVec 8) (a : BitVec 8)
  /-- SQRT (R123): Writes the correctly rounded square root. -/
  | sqrt (d : BitVec 8) (a : BitVec 8)
  /-- EXP2 (R123): Writes the correctly rounded 2^x. -/
  | exp2 (d : BitVec 8) (a : BitVec 8)
  /-- LOG2 (R123): Writes the correctly rounded log2 x. -/
  | log2 (d : BitVec 8) (a : BitVec 8)
  /-- SINP (R123): Writes the correctly rounded sin(πx). -/
  | sinp (d : BitVec 8) (a : BitVec 8)
  /-- COSP (R123): Writes the correctly rounded cos(πx). -/
  | cosp (d : BitVec 8) (a : BitVec 8)
  /-- TANH (R123): Writes the correctly rounded tanh x. -/
  | tanh (d : BitVec 8) (a : BitVec 8)
  /-- FLR (R124): Rounds a to an integral value toward −∞. -/
  | flr (d : BitVec 8) (a : BitVec 8)
  /-- CEIL (R124): Rounds a to an integral value toward +∞. -/
  | ceil (d : BitVec 8) (a : BitVec 8)
  /-- TRNC (R124): Rounds a to an integral value toward zero. -/
  | trnc (d : BitVec 8) (a : BitVec 8)
  /-- RINT (R124): Rounds a to an integral value by mode.round. -/
  | rint (d : BitVec 8) (a : BitVec 8)
  /-- FRAC (R124): Writes a − FLR(a), kept below 1.0. -/
  | frac (d : BitVec 8) (a : BitVec 8)
  /-- TLI (R130): Interpolates linearly in a local-store table described by a k quad. -/
  | tli (d : BitVec 8) (a : BitVec 8) (b : BitVec 8)
  /-- DOT (R126): Accumulates a packed dot product of a and b into d with one rounding. -/
  | dot (d : BitVec 8) (a : BitVec 8) (b : BitVec 8)
  /-- SCALE (R125): Writes a × 2^n with n from b. -/
  | scale (d : BitVec 8) (a : BitVec 8) (b : BitVec 8)
  /-- CPSGN (R125): Writes the magnitude of a with the sign of b. -/
  | cpsgn (d : BitVec 8) (a : BitVec 8) (b : BitVec 8)
  /-- QDEC (R127): Decodes eight QG4 codes to an f32 octet. -/
  | qdec (d : BitVec 8) (a : BitVec 8) (b : BitVec 8)
  /-- QENC (R128): Computes a QG4 scale code or encodes eight f32 elements as QG4 codes. -/
  | qenc (d : BitVec 8) (a : BitVec 8) (b : BitVec 8)
  /-- F4DEC (R129): Decodes eight E2M1 codes with an E8M0 scale into an f32 octet. -/
  | f4dec (d : BitVec 8) (a : BitVec 8) (b : BitVec 8)
  /-- F4ENC (R129): Encodes an f32 octet to E2M1 codes, or computes an E8M0 scale code. -/
  | f4enc (d : BitVec 8) (a : BitVec 8) (b : BitVec 8)
  /-- MXFB (R321): Loads a 32-byte format block into an fb register. -/
  | mxfb (d : BitVec 8) (a : BitVec 8)
  /-- MXWL (R322): Loads a weight tile and its scales into the shadow plane. -/
  | mxwl (d : BitVec 8) (a : BitVec 8) (b : BitVec 8)
  /-- MXSW (R323): Exchanges the active and shadow weight planes. -/
  | mxsw
  /-- MXST (R324): Streams activation rows through the active plane into accumulator slot rows. -/
  | mxst (d : BitVec 8) (a : BitVec 8) (b : BitVec 8)
  /-- MXRD (R326): Drains accumulator slot rows to memory or stream port 15. -/
  | mxrd (d : BitVec 8) (a : BitVec 8) (b : BitVec 8)
  /-- MXREL (R327): Unmaps a logical slot and frees its physical slot. -/
  | mxrel (d : BitVec 8)
  /-- MXZ (R327): Sets every element of a slot to an f32 preset, mapping it if needed. -/
  | mxz (d : BitVec 8) (a : BitVec 8)
  /-- MXQ (R328): Returns matrix engine status chosen by a selector. -/
  | mxq (d : BitVec 8) (a : BitVec 8)
  /-- SHFL (R99): Moves a from a per-lane chosen source lane within the strand. -/
  | shfl (d : BitVec 8) (a : BitVec 8) (b : BitVec 8)
  /-- SHFLX (R99): Moves a from the lane l XOR a uniform mask. -/
  | shflx (d : BitVec 8) (a : BitVec 8) (b : BitVec 8)
  /-- SHFLU (R99): Moves a up by n lanes. -/
  | shflu (d : BitVec 8) (a : BitVec 8) (i : BitVec 8)
  /-- SHFLD (R99): Moves a down by n lanes. -/
  | shfld (d : BitVec 8) (a : BitVec 8) (i : BitVec 8)
  /-- VOTE (R100): Collects the strand's votes into a mask or a count. -/
  | vote (d : BitVec 8) (a : BitVec 8)
  /-- VANY (R100): Writes 1 when any active lane votes true. -/
  | vany (d : BitVec 8) (a : BitVec 8)
  /-- VALL (R100): Writes 1 when every active lane votes true. -/
  | vall (d : BitVec 8) (a : BitVec 8)
  /-- RDX (R101): Reduces a over the strand's active lanes in lane order. -/
  | rdx (d : BitVec 8) (a : BitVec 8) (b : BitVec 8)
  /-- SCAN (R102): Forms inclusive or exclusive prefix results over the strand. -/
  | scan (d : BitVec 8) (a : BitVec 8) (b : BitVec 8)
  /-- TOPK (R451): Ranks the strand's lanes by key and returns the top n indices or their count. -/
  | topk (d : BitVec 8) (a : BitVec 8) (b : BitVec 8)
  /-- MATCH (R103): Writes a mask of active lanes whose a equals a uniform value. -/
  | matchLanes (d : BitVec 8) (a : BitVec 8) (b : BitVec 8)
  /-- ELECT (R104): Elects the lowest active lane whose a is true. -/
  | elect (d : BitVec 8) (a : BitVec 8)
  /-- LDB (R206): Loads one byte, extended by the mode type. -/
  | ldb (d : BitVec 8) (a : BitVec 8) (b : BitVec 8)
  /-- LDH (R206): Loads two bytes, extended by the mode type. -/
  | ldh (d : BitVec 8) (a : BitVec 8) (b : BitVec 8)
  /-- LDW (R206): Loads four bytes with a register offset. -/
  | ldw (d : BitVec 8) (a : BitVec 8) (b : BitVec 8)
  /-- LDD (R206): Loads eight bytes into a pair. -/
  | ldd (d : BitVec 8) (a : BitVec 8) (b : BitVec 8)
  /-- LDQ (R206): Loads sixteen bytes into a quad. -/
  | ldq (d : BitVec 8) (a : BitVec 8) (b : BitVec 8)
  /-- LDO (R206): Loads thirty-two bytes into an octet. -/
  | ldo (d : BitVec 8) (a : BitVec 8) (b : BitVec 8)
  /-- STB (R206): Stores one byte. -/
  | stb (d : BitVec 8) (a : BitVec 8) (b : BitVec 8)
  /-- STH (R206): Stores two bytes. -/
  | sth (d : BitVec 8) (a : BitVec 8) (b : BitVec 8)
  /-- STW (R206): Stores four bytes with a register offset. -/
  | stw (d : BitVec 8) (a : BitVec 8) (b : BitVec 8)
  /-- STD (R206): Stores eight bytes from a pair. -/
  | std (d : BitVec 8) (a : BitVec 8) (b : BitVec 8)
  /-- STQ (R206): Stores sixteen bytes from a quad. -/
  | stq (d : BitVec 8) (a : BitVec 8) (b : BitVec 8)
  /-- STO (R206): Stores thirty-two bytes from an octet. -/
  | sto (d : BitVec 8) (a : BitVec 8) (b : BitVec 8)
  /-- LDA (R208): Acquire load at the mode scope. -/
  | lda (d : BitVec 8) (a : BitVec 8) (b : BitVec 8)
  /-- STL (R208): Release store at the mode scope. -/
  | stl (d : BitVec 8) (a : BitVec 8) (b : BitVec 8)
  /-- STMC (R210): Writes one value to up to eight multicast destinations. -/
  | stmc (d : BitVec 8) (a : BitVec 8) (b : BitVec 8)
  /-- PREF (R209): Requests a line into L1 and its home slice without effect on results. -/
  | pref (a : BitVec 8) (b : BitVec 8)
  /-- LDWI (R206): Loads four bytes with a scaled immediate offset. -/
  | ldwi (d : BitVec 8) (a : BitVec 8) (i : BitVec 8)
  /-- LDDI (R206): Loads eight bytes with a scaled immediate offset. -/
  | lddi (d : BitVec 8) (a : BitVec 8) (i : BitVec 8)
  /-- LDQI (R206): Loads sixteen bytes with a scaled immediate offset. -/
  | ldqi (d : BitVec 8) (a : BitVec 8) (i : BitVec 8)
  /-- STWI (R206): Stores four bytes with a scaled immediate offset. -/
  | stwi (d : BitVec 8) (a : BitVec 8) (i : BitVec 8)
  /-- STDI (R206): Stores eight bytes with a scaled immediate offset. -/
  | stdi (d : BitVec 8) (a : BitVec 8) (i : BitVec 8)
  /-- STQI (R206): Stores sixteen bytes with a scaled immediate offset. -/
  | stqi (d : BitVec 8) (a : BitVec 8) (i : BitVec 8)
  /-- LDBI (R206): Loads one byte with an immediate offset. -/
  | ldbi (d : BitVec 8) (a : BitVec 8) (i : BitVec 8)
  /-- STBI (R206): Stores one byte with an immediate offset. -/
  | stbi (d : BitVec 8) (a : BitVec 8) (i : BitVec 8)
  /-- AADD (R213): Atomically adds b to memory, returning the old value, with the ordering in bits [1:0]. -/
  | aadd (o : BitVec 2) (d : BitVec 8) (a : BitVec 8) (b : BitVec 8)
  /-- AMIN (R213): Atomically stores the minimum of memory and b. -/
  | amin (o : BitVec 2) (d : BitVec 8) (a : BitVec 8) (b : BitVec 8)
  /-- AMAX (R213): Atomically stores the maximum of memory and b. -/
  | amax (o : BitVec 2) (d : BitVec 8) (a : BitVec 8) (b : BitVec 8)
  /-- AAND (R213): Atomically ANDs b into memory. -/
  | aand (o : BitVec 2) (d : BitVec 8) (a : BitVec 8) (b : BitVec 8)
  /-- AOR (R213): Atomically ORs b into memory. -/
  | aor (o : BitVec 2) (d : BitVec 8) (a : BitVec 8) (b : BitVec 8)
  /-- AXOR (R213): Atomically XORs b into memory. -/
  | axor (o : BitVec 2) (d : BitVec 8) (a : BitVec 8) (b : BitVec 8)
  /-- AXCH (R213): Atomically exchanges memory with b. -/
  | axch (o : BitVec 2) (d : BitVec 8) (a : BitVec 8) (b : BitVec 8)
  /-- ACAS (R213): Atomically writes the new value when memory equals the compare value. -/
  | acas (o : BitVec 2) (d : BitVec 8) (a : BitVec 8) (b : BitVec 8)
  /-- WAIT (R214): Compares memory with b and links the lane to the waiter queue when equal. -/
  | wait (d : BitVec 8) (a : BitVec 8) (b : BitVec 8)
  /-- WAKE (R215): Releases the first n waiters of an address in arrival order. -/
  | wake (d : BitVec 8) (a : BitVec 8) (b : BitVec 8)
  /-- BINIT (R218): Initialises a barrier object, releasing any waiters. -/
  | binit (a : BitVec 8) (b : BitVec 8)
  /-- BARV (R218): Adds arrivals to a barrier and completes the phase when enough have arrived. -/
  | barv (d : BitVec 8) (a : BitVec 8) (b : BitVec 8)
  /-- BWAIT (R218): Waits until the barrier's phase differs from the given phase. -/
  | bwait (d : BitVec 8) (a : BitVec 8) (b : BitVec 8)
  /-- BINV (R218): Invalidates a barrier, releasing every waiter. -/
  | binv (a : BitVec 8)
  /-- TXB (R220): Opens a per-lane transaction, irrevocable after eight consecutive aborts. -/
  | txb (i : BitVec 16)
  /-- TXE (R224): Validates and commits each lane's transaction in lane order, writing outcomes and a commit mask. -/
  | txe (d : BitVec 8) (a : BitVec 8)
  /-- TXA (R226): Dooms the lane's transaction with an explicit code. -/
  | txa (i : BitVec 8)
  /-- TXQ (R226): Returns the lane's transaction status and log usage. -/
  | txq (d : BitVec 8)
  /-- LDN (R226): Loads without logging, even inside a transaction. -/
  | ldn (d : BitVec 8) (a : BitVec 8)
  /-- STN (R226): Stores immediately without logging, surviving an abort. -/
  | stn (d : BitVec 8) (a : BitVec 8)
  /-- ACPY (R232): Issues an asynchronous byte copy command. -/
  | acpy (d : BitVec 8) (a : BitVec 8)
  /-- ATEN (R233): Issues an asynchronous tensor copy command. -/
  | aten (d : BitVec 8) (a : BitVec 8)
  /-- AGTH (R234): Issues an asynchronous indexed gather command. -/
  | agth (d : BitVec 8) (a : BitVec 8)
  /-- AGTP (R235): Issues an asynchronous whole-page gather command. -/
  | agtp (d : BitVec 8) (a : BitVec 8)
  /-- ASCT (R234): Issues an asynchronous indexed scatter command. -/
  | asct (d : BitVec 8) (a : BitVec 8)
  /-- ACOL (R237): Issues a member of an asynchronous collective. -/
  | acol (d : BitVec 8) (a : BitVec 8)
  /-- PUB (R239): Flips a handle's live selector and returns the new live base. -/
  | pub (d : BitVec 8) (a : BitVec 8)
  /-- HGET (R239): Reads the live base of a handle with acquire. -/
  | hget (d : BitVec 8) (a : BitVec 8)
  /-- TRACE (R368): Starts a batch of ray programs from ray-state records. -/
  | trace (d : BitVec 8) (a : BitVec 8)
  /-- RAST (R368): Starts a batch of raster programs from raster records. -/
  | rast (d : BitVec 8) (a : BitVec 8)
  /-- TRSM (R369): Resumes suspended or stopped rays from their records. -/
  | trsm (d : BitVec 8) (a : BitVec 8)
  /-- ACAN (R238): Cancels the command or batch whose token register is d. -/
  | acan (d : BitVec 8)
  /-- BLND (R395): Blends one pixel quad per lane in ticket order. -/
  | blnd (d : BitVec 8) (a : BitVec 8) (b : BitVec 8)
  /-- QBIND (R243): Binds or unbinds a queue register to a channel. -/
  | qbind (d : BitVec 8) (a : BitVec 8)
  /-- QTRY (R247): Pops without blocking, reporting success in a predicate. -/
  | qtry (d : BitVec 8) (a : BitVec 8) (b : BitVec 8)
  /-- QCNT (R247): Returns the number of words in a channel. -/
  | qcnt (d : BitVec 8) (a : BitVec 8)
  /-- SEND (R250): Sends messages to inbox addresses. -/
  | send (d : BitVec 8) (a : BitVec 8) (b : BitVec 8)
  /-- QPUT (R247): Pushes without blocking, reporting success in a predicate. -/
  | qput (d : BitVec 8) (a : BitVec 8) (b : BitVec 8)
  /-- RQP (R255): Pushes entries to a Launder. -/
  | rqp (d : BitVec 8) (i : BitVec 4)
  /-- RQG (R255): Pops entries from a Launder. -/
  | rqg (d : BitVec 8) (i : BitVec 4)
  /-- RSVP (R330): Posts a request to a quad's reservation table. -/
  | rsvp (d : BitVec 8) (a : BitVec 8) (b : BitVec 8)
  /-- RSVG (R331): Takes the first posted reservation entry of the thread's ASID. -/
  | rsvg (d : BitVec 8)
  /-- RSVD (R332): Answers a reservation request with a kind-3 message. -/
  | rsvd (d : BitVec 8) (a : BitVec 8)
  /-- SHOOT (R303): Removes translations and cached lines of a VA range across the package. -/
  | shoot (d : BitVec 8) (a : BitVec 8) (b : BitVec 8)
  /-- BIAS (R299): Flips or queries the host/device bias of a physical page. -/
  | bias (d : BitVec 8) (a : BitVec 8) (b : BitVec 8)
  /-- FLUSH (R301): Removes all translations, and optionally all lines, of an ASID. -/
  | flush (d : BitVec 8) (a : BitVec 8)
  /-- MGRT (R300): Moves a 4 KiB page of an ASID to a new physical page. -/
  | mgrt (d : BitVec 8) (a : BitVec 8) (b : BitVec 8)
  /-- NFET (R352): Fetches the current node into the ray's node buffer. -/
  | uNfet
  /-- BOXT (R353): Tests the children's boxes and fills the candidate list. -/
  | uBoxt
  /-- TRIT (R355): Tests the triangle at the cursor and records a pending hit. -/
  | uTrit
  /-- EDGT (R361): Tests the tile against the three edge planes. -/
  | uEdgt
  /-- SPLT (R361): Pushes the 16 sub-tiles of the current tile. -/
  | uSplt
  /-- DEPZ (R361): Tests the tile against hierarchical depth. -/
  | uDepz
  /-- ORDR (R354): Sorts the candidate list by tn, stably. -/
  | uOrdr
  /-- PUSH (R354): Pushes candidates 1 and up onto the ray stack. -/
  | uPush
  /-- POP (R354): Pops the ray stack, refilling from the overflow area when needed. -/
  | uPop
  /-- NEXT (R354): Takes candidate 0 as the current node. -/
  | uNext
  /-- LEAF (R356): Begins a triangle leaf, copying its count to an m register. -/
  | uLeaf (a : BitVec 6)
  /-- INST (R357): Enters an instance, transforming the ray into object space. -/
  | uInst
  /-- IPOP (R357): Leaves the current instance level. -/
  | uIpop
  /-- HIT (R356): Commits the pending hit as the best hit. -/
  | uHit
  /-- TMAX (R356): Lowers tmax to the best hit t. -/
  | uTmax
  /-- ANYH (R356): Commits the pending hit and finishes the ray. -/
  | uAnyh
  /-- EMIT (R362): Depth-tests and writes a 2 × 2 pixel quad and places a shading record with a ticket. -/
  | uEmit
  /-- LDR (R358): Loads, reads from the node buffer or adds into an m register. -/
  | uLdr (a : BitVec 6) (b : BitVec 6) (i : BitVec 14)
  /-- FLG (R358): Writes the flags f and g. -/
  | uFlg (i : BitVec 4)
  /-- BRC (R358): Branches on a flag, optionally negated. -/
  | uBrc (n : BitVec 1) (flag : BitVec 3) (t : BitVec 14)
  /-- JMP (R358): Branches to an absolute micro-PC. -/
  | uJmp (t : BitVec 14)
  /-- YLD (R358): Has no effect but is a boundary. -/
  | uYld
  /-- STAT (R358): Writes the record's user word from an m register and an immediate. -/
  | uStat (a : BitVec 6) (i : BitVec 14)
  /-- DONE (R358): Finishes the ray, writes its record and removes it from its batch. -/
  | uDone
  /-- POWER_ON (R422): Power applied to the package starts bring-up. -/
  | evPowerOn (b : BringUp)
  /-- REPORT_QUERY (R424): A management-path request returns the self-test report. -/
  | evReportQuery
  /-- ATTESTATION_REQUEST (R426): A nonce request is answered with a report signed by the identity key. -/
  | evAttestationRequest (nonce : BitVec 256)
  /-- HOST_REQUEST (R295): A host CXL.mem request by physical address is served by the page's bias. -/
  | evHostRequest (r : MemReq)
  /-- OLUN_REQUEST (R298): A request arriving from an Olun port is served at its home. -/
  | evOlunRequest (port : Nat) (r : MemReq)
  /-- FLIT_FAILURE (R434): A flit failing after retry marks its Olun port down. -/
  | evFlitFailure (port : Nat)
  /-- BIRSP_ARRIVAL (R299): A back-invalidate response from the host arrives during a flip to device bias. -/
  | evBirspArrival (line : Nat) (wb : Option (BitVec 512))
  /-- CXL_LINK_DOWN (R299): The CXL link reports down, ending pending flips in device bias with FLT_ECC. -/
  | evCxlLinkDown
  /-- TIME_CORRECTION (R435): A timestamp exchange with the control node slews device time. -/
  | evTimeCorrection (die : Nat) (ns : Int)
  /-- POWER_MEASUREMENT (R430): Every 10 µs the draw is measured and the clock stepped down or up. -/
  | evPowerMeasurement (draw : BitVec 12)
  /-- CORE_GATING (R431): A core empty for 100 µs is written back and power-gated. -/
  | evCoreGating (die core : Nat)
  /-- CORE_WAKE (R431): A gated core finishes powering up and the waiting action proceeds. -/
  | evCoreWake (die core : Nat)
  /-- SOFT_ERROR (R429): A detected memory or register error is corrected and counted or raises FLT_ECC. -/
  | evSoftError (e : ErrInfo)
  /-- MBOX_PUSH (R248): A write to mbox n pushes a word or drops it and sets ovf. -/
  | evMboxPush (die quad n : Nat) (w : Word)
  /-- LQ_BELL (R268): A doorbell write makes the dispatcher re-examine a launch queue and retry held reads and decrements. -/
  | evLqBell (die : Nat) (w : Word)
  /-- LQ_ERR_READ (R268): A read of lq_err returns and clears the recorded queue error. -/
  | evLqErrRead (die : Nat)
  /-- CTX_PRE (R283): A write of ctx_pre starts pre-emption of a context slot on the die. -/
  | evCtxPre (die : Nat) (w : Word)
  /-- REPLAY (R389): Supervisor action 1 reissues the faulting instruction for the unfinished lanes. -/
  | evReplay (die core : Nat) (unit : BitVec 8)
  /-- RESUME (R389): Supervisor action 2 clears the unfinished mask and lets the unit issue from its pc. -/
  | evResume (die core : Nat) (unit : BitVec 8)
  /-- REDIRECT (R45): Supervisor action 3 saves handler registers and sends the unit to a handler. -/
  | evRedirect (die core : Nat) (unit : BitVec 8)
  /-- RETURN (R389): Supervisor action 4 returns a redirected unit from its handler. -/
  | evReturn (die core : Nat) (unit : BitVec 8)
  /-- RELEASE_WAITER (R389): Supervisor action 5 unlinks a waiting unit's records and returns its WAIT or BWAIT. -/
  | evReleaseWaiter (die core : Nat) (unit : BitVec 8)
  /-- KILL (R390): Supervisor action 6 destroys a unit's grid or a thread. -/
  | evKill (die core : Nat) (unit : BitVec 8)
  /-- DISCARD_TASK (R389): Supervisor action 7 removes a stuck task and sends a refusal. -/
  | evDiscardTask (die core : Nat) (unit : BitVec 8)
  /-- REPLAY_COMMAND (R389): Supervisor action 8 restarts a parked, frozen or held command's block or record write. -/
  | evReplayCommand (die core : Nat) (unit : BitVec 8)
  /-- CANCEL_COMMAND (R389): Supervisor action 9 cancels a command as ACAN does. -/
  | evCancelCommand (die core : Nat) (unit : BitVec 8)
  /-- CHAN_OWNER (R244): A write of chan_owner saves the quad's owned state to the old owner's Flask and loads a valid quad block. -/
  | evChanOwner (die quad : Nat) (w : Word)
  /-- LDR_CFG (R254): A write of a Launder configuration is refused or applied, emptying on disable. -/
  | evLdrCfg (die quad n : Nat) (w : Word)
  /-- RDC_CFG (R182): A write of rdc_cfg invalidates the whole RDC and applies the new size. -/
  | evRdcCfg (die : Nat) (w : Word)
  /-- WAITER_CFG (R259): A write of waiter_cfg is refused while any record is linked. -/
  | evWaiterCfg (die : Nat) (w : Word)
  /-- CTR_DATA_READ (R403): A read of ctr_data returns a counter half, latching the odd half on an even index. -/
  | evCtrDataRead (die core : Nat)
  /-- CTR_DATA_WRITE (R403): A write of ctr_data clears the selected counter. -/
  | evCtrDataWrite (die core : Nat) (w : Word)
  /-- DLY_DATA_WRITE (R410): A write of dly_data empties the selected unit's delay table. -/
  | evDlyDataWrite (die core : Nat) (w : Word)
  /-- MON_CFG_WRITE (R406): Enabling a monitor through cfg resets its count, sum, min, max and bins. -/
  | evMonCfgWrite (die : Nat) (w : Word)
  /-- PORT_FRZ (R391): Clearing a port_frz bit releases a frozen port's held requests. -/
  | evPortFrz (die : Nat) (w : Word)
  /-- NGATE_WRITE (R431): Writing pwr_lim.ngate to 1 wakes every gated core. -/
  | evNgateWrite (die : Nat) (w : Word)
  /-- STOP_REQUEST (R420): Setting dbg_stop.stop blocks new activations on the core. -/
  | evStopRequest (die core : Nat)
  /-- STOP_RELEASE (R420): Clearing dbg_stop.stop clears stopped and delivers held messages. -/
  | evStopRelease (die core : Nat)
  /-- SFSTAT_CLR (R41): A read of sfstat_clr returns fstat and clears it. -/
  | evSfstatClr (d : Fld)
  /-- STIME_LO (R50): A read of stime_lo returns low time bits and latches the high half. -/
  | evStimeLo (d : Fld)
  /-- SRET_LO (R50): A read of sret_lo returns the low retired count and latches the high half. -/
  | evSretLo (d : Fld)
  /-- CYC_LO (R403): A read of cyc_lo returns low core clocks and latches the high half. -/
  | evCycLo (die core : Nat)
  /-- MSG_DROP (R253): A read of msg_drop returns and clears the drop count. -/
  | evMsgDrop (die : Nat)
  /-- SE_CORR (R405): A read of se_corr returns and clears the corrected error count. -/
  | evSeCorr (die : Nat)
  /-- SE_UNC (R405): A read of se_unc returns and clears the uncorrectable error count. -/
  | evSeUnc (die : Nat)
  /-- TRC_LOST (R411): A read of trc_lost returns and clears the lost record count. -/
  | evTrcLost (die : Nat)
  /-- TRC_HEAD (R412): A read of trc_head acts as a die-scope acquire for the records it counts. -/
  | evTrcHead (die : Nat)
  /-- DW_DATA_READ (R53): A debug-window read of dw_data returns the selected item of a stopped unit. -/
  | evDwDataRead (die core : Nat)
  /-- DW_DATA_WRITE (R53): A debug-window write of dw_data stores the selected item or sets err. -/
  | evDwDataWrite (die core : Nat) (w : DWord)
  /-- SYSTEM_REGISTER_WRITE (R49): A write to a system register without a row of its own stores the value. -/
  | evSystemRegisterWrite (die core n : Nat) (w : Word)
  /-- LAUNCH_QUEUE_TAKE (R266): The dispatcher takes the filled entry at a queue's head and reads its record. -/
  | evLaunchQueueTake (die slot prio : Nat)
  /-- DEPENDENCE_NOTIFICATION (R271): A counter decremented to 0 notifies dispatchers, satisfying dependences and releasing FORK units. -/
  | evDependenceNotification (die asid : Nat) (va : DWord)
  /-- CONDITION_READ (R272): After its dependence is satisfied a record's predicate is read once, activating or completing the grid. -/
  | evConditionRead (die slot prio : Nat)
  /-- PLACEMENT (R274): Each clock the dispatcher places one restored unit or new wave on an eligible core. -/
  | evPlacement (die : Nat)
  /-- GRID_COMPLETION (R19): All waves exited and tokens written complete the grid. -/
  | evGridCompletion (grid : Nat)
  /-- SLICE_EXPIRY (R283): A context's time slice expires and the die pre-empts it or restarts the slice. -/
  | evSliceExpiry (die slot : Nat)
  /-- PREEMPTION_COMPLETE (R384): The last item saved clears ctx_pre.busy. -/
  | evPreemptionComplete (die : Nat)
  /-- CAPTURE (R385): A context is pre-empted on every die and its quad and core blocks written. -/
  | evCapture (slot : Nat)
  /-- BIN_LAUNCH (R277): A launching bin takes a core of its quad and starts its wave. -/
  | evBinLaunch (die quad bin : Nat)
  /-- BIN_TIMER_EXPIRY (R277): A bin's timer reaches the template value and the bin becomes launching. -/
  | evBinTimerExpiry (die quad bin : Nat)
  /-- TASK_DISPATCH (R257): A queued task is dispatched to a free thread after its footprint is copied. -/
  | evTaskDispatch (die core : Nat) (mcc : Bool)
  /-- GANG_PROMOTION (R280): A ready gang's wait count reaching 256 promotes it. -/
  | evGangPromotion (p : Place) (gang : Nat)
  /-- REGANG_REJOIN (R140): Once every live slice waits at REGANG the gangs rebuild or FLT_ILLEGAL is raised. -/
  | evRegangRejoin (p : Place)
  /-- HALT_TAKES_EFFECT (R159): A requested halt takes effect at the unit's next boundary. -/
  | evHaltTakesEffect (p : Place)
  /-- FILL_ARRIVAL (R179): A fill arrives and supplies its loads, installed or discarded. -/
  | evFillArrival (die : Nat)
  /-- WRITE_THROUGH_ARRIVAL (R180): Write-through bytes arrive at the home and are merged in arrival order. -/
  | evWriteThroughArrival (die : Nat)
  /-- MESSAGE_DELIVERY (R252): A message arriving at the target core enters an inbox, waits, is saved or is dropped. -/
  | evMessageDelivery (die core : Nat)
  /-- INPUT_BUFFER_DELIVERY (R252): A message waiting in the input buffer is delivered when its inbox has room. -/
  | evInputBufferDelivery (die core : Nat)
  /-- FAULT_PACKET_DELIVERY (R261): A packet waiting in the fault buffer enters a supervisor inbox when room frees. -/
  | evFaultPacketDelivery (die : Nat)
  /-- SLEEP_TIMEOUT (R158): A sleep's time limit passes and the gang or thread resumes. -/
  | evSleepTimeout (p : Place) (gang : Nat)
  /-- RISER_GRANT (R227): An irrevocable attempt receives its die's Riser token in arrival order. -/
  | evRiserGrant (die : Nat)
  /-- COMMAND_BLOCK (R231): An asynchronous command completes a block and advances its progress index. -/
  | evCommandBlock (cmd : Nat)
  /-- TOKEN_WRITE (R230): An asynchronous command completes and writes its token with release. -/
  | evTokenWrite (cmd : Nat)
  /-- MXWL_COMPLETION (R322): The last tile byte arrives and the shadow plane becomes valid. -/
  | evMxwlCompletion (die quad : Nat)
  /-- MXST_ROW (R325): A streamed activation row is summed into its slot row. -/
  | evMxstRow (p : Place)
  /-- MXRD_ROW (R326): An accumulator row is drained when its destination has room. -/
  | evMxrdRow (p : Place)
  /-- STACK_SPILL (R365): When every running ray stalls for pool entries the largest holder spills 8 entries. -/
  | evStackSpill (batch : Nat)
  /-- BATCH_COMPLETION (R370): A traversal batch whose rays have all ended writes its token. -/
  | evBatchCompletion (batch : Nat)
  /-- COMPARATOR_FIRE (R418): A comparator fires at an instruction about to issue, stopping the unit or writing a record. -/
  | evComparatorFire (p : Place) (gang n : Nat)
  /-- SAMPLE_RECORD (R415): Every 2^lsp clocks a core writes a kind-3 trace record. -/
  | evSampleRecord (die core : Nat)
  /-- PRECISE_STOP_REACHED (R420): Running activations reaching 0 sets stopped and writes a kind-5 record. -/
  | evPreciseStopReached (die core : Nat)
  /-- MONITOR_LEVEL_SAMPLE (R407): Every 2^lper clocks a queue-level monitor takes a value. -/
  | evMonitorLevelSample (die mon : Nat)
  /-- UNASSIGNED_OPCODE (R60): Fetching and executing a word whose opcode is one of the 25 unassigned values raises FLT_ILLEGAL on every engine. -/
  | evUnassignedOpcode (w : Word)
  /-- RESERVED_MICRO_OPERATION (R348): A ray or raster program reaching a micro-word with reserved op 0x00 or 0x19–0x3F raises FLT_TRAV for the ray. -/
  | evReservedMicroOperation (w : Word)
  /-- SILENT_PACKAGE (R170): A request to a package that fails to answer completes as an uncorrectable error with FLT_ECC, and a message to it is dropped and counted. -/
  | evSilentPackage (pkg : Nat)
  /-- WRITE_THROUGH_ACKNOWLEDGEMENT (R181): The home's acknowledgement of write-through bytes returns to the storing die, letting waiting package-scope releases complete and ending the merge of those bytes into refills. -/
  | evWriteThroughAcknowledgement (die : Nat)
  deriving DecidableEq, Repr

end Sys2Proof
end

