-- ==== Sys2Proof/Decode.lean ====
section
/-! DEFINITION. Decoding of instruction words (R56 to R63 stages 1 and 4, R351) and the encoder written from the same map (R59).
A word that no row gives is rejected: `none`. -/

namespace Sys2Proof

/-- Bits [lo + n - 1 : lo] of an instruction word. -/
def field (w : Word) (lo n : Nat) : BitVec n := w.extractLsb' lo n

/-- The opcode byte (R56). -/
def opcodeOf (w : Word) : BitVec 8 := field w 24 8

/-- The instruction when every unused bit of the word is 0 (R57). -/
def onlyIf (c : Bool) (i : Instr) : Option Instr := if c then some i else none

/-- Opcodes 0x00 to 0x0F (R59). -/
def decodeRow0 (n : Nat) (w : Word) : Option Instr :=
  match n with
  | 1 => onlyIf (field w 0 24 == 0) .nop
  | 2 => some (.bra (field w 0 24))
  | 3 => some (.call (field w 0 24))
  | 4 => some (.brt (field w 16 8) (field w 0 16))
  | 5 => some (.brf (field w 16 8) (field w 0 16))
  | 6 => onlyIf (field w 0 8 == 0 && field w 16 8 == 0) (.bri (field w 8 8))
  | 7 => onlyIf (field w 0 8 == 0) (.calli (field w 16 8) (field w 8 8))
  | 8 => onlyIf (field w 0 8 == 0 && field w 16 8 == 0) (.ret (field w 8 8))
  | 9 => onlyIf (field w 16 8 == 0) (.joinat (field w 0 16))
  | 10 => onlyIf (field w 0 24 == 0) .regang
  | 11 => some (.loop (field w 16 8) (field w 0 16))
  | 12 => onlyIf (field w 0 24 == 0) .lbrk
  | 13 => onlyIf (field w 0 24 == 0) .exit
  | 14 => onlyIf (field w 0 24 == 0) .land
  | 15 => onlyIf (field w 0 24 == 0) .yield
  | _ => none

/-- Opcodes 0x10 to 0x1F (R59). -/
def decodeRow1 (n : Nat) (w : Word) : Option Instr :=
  match n with
  | 0 => onlyIf (field w 16 8 == 0) (.mode (field w 0 16))
  | 1 => onlyIf (field w 4 20 == 0) (.modet (field w 0 4))
  | 2 => onlyIf (field w 5 19 == 0) (.modeg (field w 4 1) (field w 3 1) (field w 0 3))
  | 3 => onlyIf (field w 3 21 == 0) (.modes (field w 0 3))
  | 4 => onlyIf (field w 2 22 == 0) (.moder (field w 0 2))
  | 5 => onlyIf (field w 0 8 == 0 && field w 16 8 == 0) (.modew (field w 8 8))
  | 6 => onlyIf (field w 8 16 == 0) (.trap (field w 0 8))
  | 7 => onlyIf (field w 8 16 == 0) (.bkpt (field w 0 8))
  | 8 => some (.migr (field w 0 24))
  | 9 => onlyIf (field w 0 8 == 0) (.spawn (field w 16 8) (field w 8 8))
  | 10 => onlyIf (field w 0 8 == 0 && field w 16 8 == 0) (.fork (field w 8 8))
  | 11 => some (.callat (field w 16 8) (field w 8 8) (field w 0 8))
  | 12 => onlyIf (field w 8 8 == 0) (.mfs (field w 16 8) (field w 0 8))
  | 13 => onlyIf (field w 16 8 == 0) (.mts (field w 8 8) (field w 0 8))
  | 14 => onlyIf (field w 0 8 == 0 && field w 16 8 == 0) (.sleep (field w 8 8))
  | 15 => onlyIf (field w 16 8 == 0) (.halt (field w 8 8) (field w 0 8))
  | _ => none

/-- Opcodes 0x20 to 0x2F (R59). -/
def decodeRow2 (n : Nat) (w : Word) : Option Instr :=
  match n with
  | 0 => some (.add (field w 16 8) (field w 8 8) (field w 0 8))
  | 1 => some (.sub (field w 16 8) (field w 8 8) (field w 0 8))
  | 2 => some (.mul (field w 16 8) (field w 8 8) (field w 0 8))
  | 3 => some (.mad (field w 16 8) (field w 8 8) (field w 0 8))
  | 4 => some (.min (field w 16 8) (field w 8 8) (field w 0 8))
  | 5 => some (.max (field w 16 8) (field w 8 8) (field w 0 8))
  | 6 => onlyIf (field w 0 8 == 0) (.neg (field w 16 8) (field w 8 8))
  | 7 => onlyIf (field w 0 8 == 0) (.abs (field w 16 8) (field w 8 8))
  | 8 => some (.addi (field w 16 8) (field w 8 8) (field w 0 8))
  | 9 => some (.muli (field w 16 8) (field w 8 8) (field w 0 8))
  | 10 => some (.clamp (field w 16 8) (field w 8 8) (field w 0 8))
  | 11 => some (.mulh (field w 16 8) (field w 8 8) (field w 0 8))
  | 12 => some (.div (field w 16 8) (field w 8 8) (field w 0 8))
  | 13 => some (.rem (field w 16 8) (field w 8 8) (field w 0 8))
  | 14 => some (.sad (field w 16 8) (field w 8 8) (field w 0 8))
  | 15 => some (.addc (field w 16 8) (field w 8 8) (field w 0 8))
  | _ => none

/-- Opcodes 0x30 to 0x3F (R59). -/
def decodeRow3 (n : Nat) (w : Word) : Option Instr :=
  match n with
  | 0 => some (.ceq (field w 16 8) (field w 8 8) (field w 0 8))
  | 1 => some (.cne (field w 16 8) (field w 8 8) (field w 0 8))
  | 2 => some (.clt (field w 16 8) (field w 8 8) (field w 0 8))
  | 3 => some (.cle (field w 16 8) (field w 8 8) (field w 0 8))
  | 4 => some (.cgt (field w 16 8) (field w 8 8) (field w 0 8))
  | 5 => some (.cge (field w 16 8) (field w 8 8) (field w 0 8))
  | 6 => some (.cun (field w 16 8) (field w 8 8) (field w 0 8))
  | 7 => some (.ceqi (field w 16 8) (field w 8 8) (field w 0 8))
  | 8 => some (.clti (field w 16 8) (field w 8 8) (field w 0 8))
  | 9 => some (.pand (field w 16 8) (field w 8 8) (field w 0 8))
  | 10 => some (.por (field w 16 8) (field w 8 8) (field w 0 8))
  | 11 => some (.pxor (field w 16 8) (field w 8 8) (field w 0 8))
  | 12 => onlyIf (field w 0 8 == 0) (.pnot (field w 16 8) (field w 8 8))
  | 13 => some (.class (field w 16 8) (field w 8 8) (field w 0 8))
  | 14 => onlyIf (field w 5 3 == 0) (.tstb (field w 16 8) (field w 8 8) (field w 0 5))
  | 15 => some (.pmov (field w 16 8) (field w 8 8) (field w 0 8))
  | _ => none

/-- Opcodes 0x40 to 0x4F (R59). -/
def decodeRow4 (n : Nat) (w : Word) : Option Instr :=
  match n with
  | 0 => some (.and (field w 16 8) (field w 8 8) (field w 0 8))
  | 1 => some (.or (field w 16 8) (field w 8 8) (field w 0 8))
  | 2 => some (.xor (field w 16 8) (field w 8 8) (field w 0 8))
  | 3 => onlyIf (field w 0 8 == 0) (.not (field w 16 8) (field w 8 8))
  | 4 => some (.andn (field w 16 8) (field w 8 8) (field w 0 8))
  | 5 => some (.shl (field w 16 8) (field w 8 8) (field w 0 8))
  | 6 => some (.shr (field w 16 8) (field w 8 8) (field w 0 8))
  | 7 => some (.sar (field w 16 8) (field w 8 8) (field w 0 8))
  | 8 => some (.rol (field w 16 8) (field w 8 8) (field w 0 8))
  | 9 => onlyIf (field w 6 2 == 0) (.shli (field w 16 8) (field w 8 8) (field w 0 6))
  | 10 => onlyIf (field w 6 2 == 0) (.shri (field w 16 8) (field w 8 8) (field w 0 6))
  | 11 => onlyIf (field w 6 2 == 0) (.sari (field w 16 8) (field w 8 8) (field w 0 6))
  | 12 => onlyIf (field w 0 8 == 0) (.popc (field w 16 8) (field w 8 8))
  | 13 => onlyIf (field w 0 8 == 0) (.clz (field w 16 8) (field w 8 8))
  | 14 => onlyIf (field w 0 8 == 0) (.brev (field w 16 8) (field w 8 8))
  | 15 => some (.bfe (field w 16 8) (field w 8 8) (field w 0 8))
  | _ => none

/-- Opcodes 0x50 to 0x5F (R59). -/
def decodeRow5 (n : Nat) (w : Word) : Option Instr :=
  match n with
  | 0 => onlyIf (field w 0 8 == 0) (.mov (field w 16 8) (field w 8 8))
  | 1 => some (.movl (field w 16 8) (field w 0 16))
  | 2 => some (.movh (field w 16 8) (field w 0 16))
  | 3 => some (.movs (field w 16 8) (field w 0 16))
  | 4 => some (.bfi (field w 16 8) (field w 8 8) (field w 0 8))
  | 5 => some (.prmt (field w 16 8) (field w 8 8) (field w 0 8))
  | 6 => some (.pack (field w 16 8) (field w 8 8) (field w 0 8))
  | 7 => some (.adda (field w 16 8) (field w 8 8) (field w 0 8))
  | 8 => some (.addai (field w 16 8) (field w 8 8) (field w 0 8))
  | 9 => some (.lane (field w 16 8) (field w 8 8) (field w 0 8))
  | 10 => onlyIf (field w 0 8 == 0) (.bcast (field w 16 8) (field w 8 8))
  | 11 => some (.suba (field w 16 8) (field w 8 8) (field w 0 8))
  | 12 => some (.clta (field w 16 8) (field w 8 8) (field w 0 8))
  | 13 => some (.ceqa (field w 16 8) (field w 8 8) (field w 0 8))
  | _ => none

/-- Opcodes 0x60 to 0x6F (R59). -/
def decodeRow6 (n : Nat) (w : Word) : Option Instr :=
  match n with
  | 0 => some (.cvt (field w 16 8) (field w 8 8) (field w 0 8))
  | 1 => some (.cvtr (field w 16 8) (field w 8 8) (field w 0 8))
  | 2 => onlyIf (field w 0 8 == 0) (.rcp (field w 16 8) (field w 8 8))
  | 3 => onlyIf (field w 0 8 == 0) (.rsq (field w 16 8) (field w 8 8))
  | 4 => onlyIf (field w 0 8 == 0) (.sqrt (field w 16 8) (field w 8 8))
  | 5 => onlyIf (field w 0 8 == 0) (.exp2 (field w 16 8) (field w 8 8))
  | 6 => onlyIf (field w 0 8 == 0) (.log2 (field w 16 8) (field w 8 8))
  | 7 => onlyIf (field w 0 8 == 0) (.sinp (field w 16 8) (field w 8 8))
  | 8 => onlyIf (field w 0 8 == 0) (.cosp (field w 16 8) (field w 8 8))
  | 9 => onlyIf (field w 0 8 == 0) (.tanh (field w 16 8) (field w 8 8))
  | 10 => onlyIf (field w 0 8 == 0) (.flr (field w 16 8) (field w 8 8))
  | 11 => onlyIf (field w 0 8 == 0) (.ceil (field w 16 8) (field w 8 8))
  | 12 => onlyIf (field w 0 8 == 0) (.trnc (field w 16 8) (field w 8 8))
  | 13 => onlyIf (field w 0 8 == 0) (.rint (field w 16 8) (field w 8 8))
  | 14 => onlyIf (field w 0 8 == 0) (.frac (field w 16 8) (field w 8 8))
  | 15 => some (.tli (field w 16 8) (field w 8 8) (field w 0 8))
  | _ => none

/-- Opcodes 0x70 to 0x7F (R59). -/
def decodeRow7 (n : Nat) (w : Word) : Option Instr :=
  match n with
  | 0 => some (.dot (field w 16 8) (field w 8 8) (field w 0 8))
  | 1 => some (.scale (field w 16 8) (field w 8 8) (field w 0 8))
  | 2 => some (.cpsgn (field w 16 8) (field w 8 8) (field w 0 8))
  | 3 => some (.qdec (field w 16 8) (field w 8 8) (field w 0 8))
  | 4 => some (.qenc (field w 16 8) (field w 8 8) (field w 0 8))
  | 5 => some (.f4dec (field w 16 8) (field w 8 8) (field w 0 8))
  | 6 => some (.f4enc (field w 16 8) (field w 8 8) (field w 0 8))
  | 8 => onlyIf (field w 0 8 == 0) (.mxfb (field w 16 8) (field w 8 8))
  | 9 => some (.mxwl (field w 16 8) (field w 8 8) (field w 0 8))
  | 10 => onlyIf (field w 0 24 == 0) .mxsw
  | 11 => some (.mxst (field w 16 8) (field w 8 8) (field w 0 8))
  | 12 => some (.mxrd (field w 16 8) (field w 8 8) (field w 0 8))
  | 13 => onlyIf (field w 0 16 == 0) (.mxrel (field w 16 8))
  | 14 => onlyIf (field w 0 8 == 0) (.mxz (field w 16 8) (field w 8 8))
  | 15 => onlyIf (field w 0 8 == 0) (.mxq (field w 16 8) (field w 8 8))
  | _ => none

/-- Opcodes 0x80 to 0x8F (R59). -/
def decodeRow8 (n : Nat) (w : Word) : Option Instr :=
  match n with
  | 0 => some (.shfl (field w 16 8) (field w 8 8) (field w 0 8))
  | 1 => some (.shflx (field w 16 8) (field w 8 8) (field w 0 8))
  | 2 => some (.shflu (field w 16 8) (field w 8 8) (field w 0 8))
  | 3 => some (.shfld (field w 16 8) (field w 8 8) (field w 0 8))
  | 4 => onlyIf (field w 0 8 == 0) (.vote (field w 16 8) (field w 8 8))
  | 5 => onlyIf (field w 0 8 == 0) (.vany (field w 16 8) (field w 8 8))
  | 6 => onlyIf (field w 0 8 == 0) (.vall (field w 16 8) (field w 8 8))
  | 7 => some (.rdx (field w 16 8) (field w 8 8) (field w 0 8))
  | 8 => some (.scan (field w 16 8) (field w 8 8) (field w 0 8))
  | 9 => some (.topk (field w 16 8) (field w 8 8) (field w 0 8))
  | 10 => some (.matchLanes (field w 16 8) (field w 8 8) (field w 0 8))
  | 11 => onlyIf (field w 0 8 == 0) (.elect (field w 16 8) (field w 8 8))
  | _ => none

/-- Opcodes 0x90 to 0x9F (R59). -/
def decodeRow9 (n : Nat) (w : Word) : Option Instr :=
  match n with
  | 0 => some (.ldb (field w 16 8) (field w 8 8) (field w 0 8))
  | 1 => some (.ldh (field w 16 8) (field w 8 8) (field w 0 8))
  | 2 => some (.ldw (field w 16 8) (field w 8 8) (field w 0 8))
  | 3 => some (.ldd (field w 16 8) (field w 8 8) (field w 0 8))
  | 4 => some (.ldq (field w 16 8) (field w 8 8) (field w 0 8))
  | 5 => some (.ldo (field w 16 8) (field w 8 8) (field w 0 8))
  | 6 => some (.stb (field w 16 8) (field w 8 8) (field w 0 8))
  | 7 => some (.sth (field w 16 8) (field w 8 8) (field w 0 8))
  | 8 => some (.stw (field w 16 8) (field w 8 8) (field w 0 8))
  | 9 => some (.std (field w 16 8) (field w 8 8) (field w 0 8))
  | 10 => some (.stq (field w 16 8) (field w 8 8) (field w 0 8))
  | 11 => some (.sto (field w 16 8) (field w 8 8) (field w 0 8))
  | 12 => some (.lda (field w 16 8) (field w 8 8) (field w 0 8))
  | 13 => some (.stl (field w 16 8) (field w 8 8) (field w 0 8))
  | 14 => some (.stmc (field w 16 8) (field w 8 8) (field w 0 8))
  | 15 => onlyIf (field w 16 8 == 0) (.pref (field w 8 8) (field w 0 8))
  | _ => none

/-- Opcodes 0xA0 to 0xAF (R59). -/
def decodeRowA (n : Nat) (w : Word) : Option Instr :=
  match n with
  | 0 => some (.ldwi (field w 16 8) (field w 8 8) (field w 0 8))
  | 1 => some (.lddi (field w 16 8) (field w 8 8) (field w 0 8))
  | 2 => some (.ldqi (field w 16 8) (field w 8 8) (field w 0 8))
  | 3 => some (.stwi (field w 16 8) (field w 8 8) (field w 0 8))
  | 4 => some (.stdi (field w 16 8) (field w 8 8) (field w 0 8))
  | 5 => some (.stqi (field w 16 8) (field w 8 8) (field w 0 8))
  | 6 => some (.ldbi (field w 16 8) (field w 8 8) (field w 0 8))
  | 7 => some (.stbi (field w 16 8) (field w 8 8) (field w 0 8))
  | _ => none

/-- Opcodes 0xB0 to 0xBF (R59). -/
def decodeRowB (n : Nat) (w : Word) : Option Instr :=
  match n with
  | 0 => some (.aadd 0 (field w 16 8) (field w 8 8) (field w 0 8))
  | 1 => some (.aadd 1 (field w 16 8) (field w 8 8) (field w 0 8))
  | 2 => some (.aadd 2 (field w 16 8) (field w 8 8) (field w 0 8))
  | 3 => some (.aadd 3 (field w 16 8) (field w 8 8) (field w 0 8))
  | 4 => some (.amin 0 (field w 16 8) (field w 8 8) (field w 0 8))
  | 5 => some (.amin 1 (field w 16 8) (field w 8 8) (field w 0 8))
  | 6 => some (.amin 2 (field w 16 8) (field w 8 8) (field w 0 8))
  | 7 => some (.amin 3 (field w 16 8) (field w 8 8) (field w 0 8))
  | 8 => some (.amax 0 (field w 16 8) (field w 8 8) (field w 0 8))
  | 9 => some (.amax 1 (field w 16 8) (field w 8 8) (field w 0 8))
  | 10 => some (.amax 2 (field w 16 8) (field w 8 8) (field w 0 8))
  | 11 => some (.amax 3 (field w 16 8) (field w 8 8) (field w 0 8))
  | 12 => some (.aand 0 (field w 16 8) (field w 8 8) (field w 0 8))
  | 13 => some (.aand 1 (field w 16 8) (field w 8 8) (field w 0 8))
  | 14 => some (.aand 2 (field w 16 8) (field w 8 8) (field w 0 8))
  | 15 => some (.aand 3 (field w 16 8) (field w 8 8) (field w 0 8))
  | _ => none

/-- Opcodes 0xC0 to 0xCF (R59). -/
def decodeRowC (n : Nat) (w : Word) : Option Instr :=
  match n with
  | 0 => some (.aor 0 (field w 16 8) (field w 8 8) (field w 0 8))
  | 1 => some (.aor 1 (field w 16 8) (field w 8 8) (field w 0 8))
  | 2 => some (.aor 2 (field w 16 8) (field w 8 8) (field w 0 8))
  | 3 => some (.aor 3 (field w 16 8) (field w 8 8) (field w 0 8))
  | 4 => some (.axor 0 (field w 16 8) (field w 8 8) (field w 0 8))
  | 5 => some (.axor 1 (field w 16 8) (field w 8 8) (field w 0 8))
  | 6 => some (.axor 2 (field w 16 8) (field w 8 8) (field w 0 8))
  | 7 => some (.axor 3 (field w 16 8) (field w 8 8) (field w 0 8))
  | 8 => some (.axch 0 (field w 16 8) (field w 8 8) (field w 0 8))
  | 9 => some (.axch 1 (field w 16 8) (field w 8 8) (field w 0 8))
  | 10 => some (.axch 2 (field w 16 8) (field w 8 8) (field w 0 8))
  | 11 => some (.axch 3 (field w 16 8) (field w 8 8) (field w 0 8))
  | 12 => some (.acas 0 (field w 16 8) (field w 8 8) (field w 0 8))
  | 13 => some (.acas 1 (field w 16 8) (field w 8 8) (field w 0 8))
  | 14 => some (.acas 2 (field w 16 8) (field w 8 8) (field w 0 8))
  | 15 => some (.acas 3 (field w 16 8) (field w 8 8) (field w 0 8))
  | _ => none

/-- Opcodes 0xD0 to 0xDF (R59). -/
def decodeRowD (n : Nat) (w : Word) : Option Instr :=
  match n with
  | 0 => some (.wait (field w 16 8) (field w 8 8) (field w 0 8))
  | 1 => some (.wake (field w 16 8) (field w 8 8) (field w 0 8))
  | 2 => onlyIf (field w 16 8 == 0) (.binit (field w 8 8) (field w 0 8))
  | 3 => some (.barv (field w 16 8) (field w 8 8) (field w 0 8))
  | 4 => some (.bwait (field w 16 8) (field w 8 8) (field w 0 8))
  | 5 => onlyIf (field w 0 8 == 0 && field w 16 8 == 0) (.binv (field w 8 8))
  | 6 => onlyIf (field w 16 8 == 0) (.txb (field w 0 16))
  | 7 => onlyIf (field w 0 8 == 0) (.txe (field w 16 8) (field w 8 8))
  | 8 => onlyIf (field w 8 16 == 0) (.txa (field w 0 8))
  | 9 => onlyIf (field w 0 16 == 0) (.txq (field w 16 8))
  | 10 => onlyIf (field w 0 8 == 0) (.ldn (field w 16 8) (field w 8 8))
  | 11 => onlyIf (field w 0 8 == 0) (.stn (field w 16 8) (field w 8 8))
  | _ => none

/-- Opcodes 0xE0 to 0xEF (R59). -/
def decodeRowE (n : Nat) (w : Word) : Option Instr :=
  match n with
  | 0 => onlyIf (field w 0 8 == 0) (.acpy (field w 16 8) (field w 8 8))
  | 1 => onlyIf (field w 0 8 == 0) (.aten (field w 16 8) (field w 8 8))
  | 2 => onlyIf (field w 0 8 == 0) (.agth (field w 16 8) (field w 8 8))
  | 3 => onlyIf (field w 0 8 == 0) (.agtp (field w 16 8) (field w 8 8))
  | 4 => onlyIf (field w 0 8 == 0) (.asct (field w 16 8) (field w 8 8))
  | 5 => onlyIf (field w 0 8 == 0) (.acol (field w 16 8) (field w 8 8))
  | 6 => onlyIf (field w 0 8 == 0) (.pub (field w 16 8) (field w 8 8))
  | 7 => onlyIf (field w 0 8 == 0) (.hget (field w 16 8) (field w 8 8))
  | 8 => onlyIf (field w 0 8 == 0) (.trace (field w 16 8) (field w 8 8))
  | 9 => onlyIf (field w 0 8 == 0) (.rast (field w 16 8) (field w 8 8))
  | 10 => onlyIf (field w 0 8 == 0) (.trsm (field w 16 8) (field w 8 8))
  | 11 => onlyIf (field w 0 16 == 0) (.acan (field w 16 8))
  | 12 => some (.blnd (field w 16 8) (field w 8 8) (field w 0 8))
  | _ => none

/-- Opcodes 0xF0 to 0xFF (R59). -/
def decodeRowF (n : Nat) (w : Word) : Option Instr :=
  match n with
  | 0 => onlyIf (field w 0 8 == 0) (.qbind (field w 16 8) (field w 8 8))
  | 1 => some (.qtry (field w 16 8) (field w 8 8) (field w 0 8))
  | 2 => onlyIf (field w 0 8 == 0) (.qcnt (field w 16 8) (field w 8 8))
  | 3 => some (.send (field w 16 8) (field w 8 8) (field w 0 8))
  | 4 => some (.qput (field w 16 8) (field w 8 8) (field w 0 8))
  | 5 => onlyIf (field w 4 12 == 0) (.rqp (field w 16 8) (field w 0 4))
  | 6 => onlyIf (field w 4 12 == 0) (.rqg (field w 16 8) (field w 0 4))
  | 7 => some (.rsvp (field w 16 8) (field w 8 8) (field w 0 8))
  | 8 => onlyIf (field w 0 16 == 0) (.rsvg (field w 16 8))
  | 9 => onlyIf (field w 0 8 == 0) (.rsvd (field w 16 8) (field w 8 8))
  | 10 => some (.shoot (field w 16 8) (field w 8 8) (field w 0 8))
  | 11 => some (.bias (field w 16 8) (field w 8 8) (field w 0 8))
  | 12 => onlyIf (field w 0 8 == 0) (.flush (field w 16 8) (field w 8 8))
  | 13 => some (.mgrt (field w 16 8) (field w 8 8) (field w 0 8))
  | _ => none

/-- The instruction of a word (R59); `none` for an unassigned opcode (R60) or a reserved field that is not 0 (R57). -/
def decode (w : Word) : Option Instr :=
  let n := (field w 24 4).toNat
  match (field w 28 4).toNat with
  | 0 => decodeRow0 n w
  | 1 => decodeRow1 n w
  | 2 => decodeRow2 n w
  | 3 => decodeRow3 n w
  | 4 => decodeRow4 n w
  | 5 => decodeRow5 n w
  | 6 => decodeRow6 n w
  | 7 => decodeRow7 n w
  | 8 => decodeRow8 n w
  | 9 => decodeRow9 n w
  | 10 => decodeRowA n w
  | 11 => decodeRowB n w
  | 12 => decodeRowC n w
  | 13 => decodeRowD n w
  | 14 => decodeRowE n w
  | 15 => decodeRowF n w
  | _ => none

/-- The 25 unassigned opcodes (R60). -/
def unassigned : List Nat :=
  [0x00, 0x5E, 0x5F, 0x77, 0x8C, 0x8D, 0x8E, 0x8F, 0xA8, 0xA9, 0xAA, 0xAB, 0xAC, 0xAD, 0xAE, 0xAF, 0xDC, 0xDD, 0xDE, 0xDF, 0xED, 0xEE, 0xEF, 0xFE, 0xFF]

/-- Whether an opcode is assigned (R59, R60). -/
def opcodeAssigned (op : Nat) : Bool := !unassigned.contains op

/-- The micro-instruction of a micro-word (R348, R351); `none` for a reserved operation or field. -/
def decodeMicro (w : Word) : Option Instr :=
  match (field w 26 6).toNat with
  | 1 => onlyIf (field w 0 26 == 0) .uNfet
  | 2 => onlyIf (field w 0 26 == 0) .uBoxt
  | 3 => onlyIf (field w 0 26 == 0) .uTrit
  | 4 => onlyIf (field w 0 26 == 0) .uEdgt
  | 5 => onlyIf (field w 0 26 == 0) .uSplt
  | 6 => onlyIf (field w 0 26 == 0) .uDepz
  | 7 => onlyIf (field w 0 26 == 0) .uOrdr
  | 8 => onlyIf (field w 0 26 == 0) .uPush
  | 9 => onlyIf (field w 0 26 == 0) .uPop
  | 10 => onlyIf (field w 0 26 == 0) .uNext
  | 11 => onlyIf (field w 0 20 == 0) (.uLeaf (field w 20 6))
  | 12 => onlyIf (field w 0 26 == 0) .uInst
  | 13 => onlyIf (field w 0 26 == 0) .uIpop
  | 14 => onlyIf (field w 0 26 == 0) .uHit
  | 15 => onlyIf (field w 0 26 == 0) .uTmax
  | 16 => onlyIf (field w 0 26 == 0) .uAnyh
  | 17 => onlyIf (field w 0 26 == 0) .uEmit
  | 18 => some (.uLdr (field w 20 6) (field w 14 6) (field w 0 14))
  | 19 => onlyIf (field w 4 22 == 0) (.uFlg (field w 0 4))
  | 20 => onlyIf (field w 14 6 == 0 && field w 23 2 == 0) (.uBrc (field w 25 1) (field w 20 3) (field w 0 14))
  | 21 => onlyIf (field w 14 12 == 0) (.uJmp (field w 0 14))
  | 22 => onlyIf (field w 0 26 == 0) .uYld
  | 23 => onlyIf (field w 14 6 == 0) (.uStat (field w 20 6) (field w 0 14))
  | 24 => onlyIf (field w 0 26 == 0) .uDone
  | _ => none

/-- A word of form A (R56). -/
def wordA (op d a b : BitVec 8) : Word := op ++ d ++ a ++ b

/-- A word of form W (R56). -/
def wordW (op d : BitVec 8) (i : BitVec 16) : Word := op ++ d ++ i

/-- A word of form J (R56). -/
def wordJ (op : BitVec 8) (off : BitVec 24) : Word := op ++ off

/-- A micro-word (R348): its operation and its other 26 bits. -/
def wordM (op : BitVec 6) (x : BitVec 26) : Word := op ++ x

/-- The word of an instruction (R59) or of a micro-instruction (R351); an event has none. -/
def encode (i : Instr) : Option Word :=
  match i with
  | .nop => some (wordA 0x01 0 0 0)
  | .bra off => some (wordJ 0x02 off)
  | .call off => some (wordJ 0x03 off)
  | .brt d i => some (wordW 0x04 d i)
  | .brf d i => some (wordW 0x05 d i)
  | .bri a => some (wordA 0x06 0 a 0)
  | .calli d a => some (wordA 0x07 d a 0)
  | .ret a => some (wordA 0x08 0 a 0)
  | .joinat i => some (wordW 0x09 0 i)
  | .regang => some (wordA 0x0A 0 0 0)
  | .loop d i => some (wordW 0x0B d i)
  | .lbrk => some (wordA 0x0C 0 0 0)
  | .exit => some (wordA 0x0D 0 0 0)
  | .land => some (wordA 0x0E 0 0 0)
  | .yield => some (wordA 0x0F 0 0 0)
  | .mode i => some (wordW 0x10 0 i)
  | .modet t => some (wordA 0x11 0 0 (0#4 ++ t))
  | .modeg e n g => some (wordA 0x12 0 0 (0#3 ++ e ++ n ++ g))
  | .modes s => some (wordA 0x13 0 0 (0#5 ++ s))
  | .moder r => some (wordA 0x14 0 0 (0#6 ++ r))
  | .modew a => some (wordA 0x15 0 a 0)
  | .trap i => some (wordA 0x16 0 0 i)
  | .bkpt i => some (wordA 0x17 0 0 i)
  | .migr off => some (wordJ 0x18 off)
  | .spawn d a => some (wordA 0x19 d a 0)
  | .fork a => some (wordA 0x1A 0 a 0)
  | .callat d a b => some (wordA 0x1B d a b)
  | .mfs d i => some (wordA 0x1C d 0 i)
  | .mts a i => some (wordA 0x1D 0 a i)
  | .sleep a => some (wordA 0x1E 0 a 0)
  | .halt a b => some (wordA 0x1F 0 a b)
  | .add d a b => some (wordA 0x20 d a b)
  | .sub d a b => some (wordA 0x21 d a b)
  | .mul d a b => some (wordA 0x22 d a b)
  | .mad d a b => some (wordA 0x23 d a b)
  | .min d a b => some (wordA 0x24 d a b)
  | .max d a b => some (wordA 0x25 d a b)
  | .neg d a => some (wordA 0x26 d a 0)
  | .abs d a => some (wordA 0x27 d a 0)
  | .addi d a i => some (wordA 0x28 d a i)
  | .muli d a i => some (wordA 0x29 d a i)
  | .clamp d a b => some (wordA 0x2A d a b)
  | .mulh d a b => some (wordA 0x2B d a b)
  | .div d a b => some (wordA 0x2C d a b)
  | .rem d a b => some (wordA 0x2D d a b)
  | .sad d a b => some (wordA 0x2E d a b)
  | .addc d a b => some (wordA 0x2F d a b)
  | .ceq d a b => some (wordA 0x30 d a b)
  | .cne d a b => some (wordA 0x31 d a b)
  | .clt d a b => some (wordA 0x32 d a b)
  | .cle d a b => some (wordA 0x33 d a b)
  | .cgt d a b => some (wordA 0x34 d a b)
  | .cge d a b => some (wordA 0x35 d a b)
  | .cun d a b => some (wordA 0x36 d a b)
  | .ceqi d a i => some (wordA 0x37 d a i)
  | .clti d a i => some (wordA 0x38 d a i)
  | .pand d a b => some (wordA 0x39 d a b)
  | .por d a b => some (wordA 0x3A d a b)
  | .pxor d a b => some (wordA 0x3B d a b)
  | .pnot d a => some (wordA 0x3C d a 0)
  | .class d a b => some (wordA 0x3D d a b)
  | .tstb d a i => some (wordA 0x3E d a (0#3 ++ i))
  | .pmov d a b => some (wordA 0x3F d a b)
  | .and d a b => some (wordA 0x40 d a b)
  | .or d a b => some (wordA 0x41 d a b)
  | .xor d a b => some (wordA 0x42 d a b)
  | .not d a => some (wordA 0x43 d a 0)
  | .andn d a b => some (wordA 0x44 d a b)
  | .shl d a b => some (wordA 0x45 d a b)
  | .shr d a b => some (wordA 0x46 d a b)
  | .sar d a b => some (wordA 0x47 d a b)
  | .rol d a b => some (wordA 0x48 d a b)
  | .shli d a i => some (wordA 0x49 d a (0#2 ++ i))
  | .shri d a i => some (wordA 0x4A d a (0#2 ++ i))
  | .sari d a i => some (wordA 0x4B d a (0#2 ++ i))
  | .popc d a => some (wordA 0x4C d a 0)
  | .clz d a => some (wordA 0x4D d a 0)
  | .brev d a => some (wordA 0x4E d a 0)
  | .bfe d a b => some (wordA 0x4F d a b)
  | .mov d a => some (wordA 0x50 d a 0)
  | .movl d i => some (wordW 0x51 d i)
  | .movh d i => some (wordW 0x52 d i)
  | .movs d i => some (wordW 0x53 d i)
  | .bfi d a b => some (wordA 0x54 d a b)
  | .prmt d a b => some (wordA 0x55 d a b)
  | .pack d a b => some (wordA 0x56 d a b)
  | .adda d a b => some (wordA 0x57 d a b)
  | .addai d a i => some (wordA 0x58 d a i)
  | .lane d a b => some (wordA 0x59 d a b)
  | .bcast d a => some (wordA 0x5A d a 0)
  | .suba d a b => some (wordA 0x5B d a b)
  | .clta d a b => some (wordA 0x5C d a b)
  | .ceqa d a b => some (wordA 0x5D d a b)
  | .cvt d a b => some (wordA 0x60 d a b)
  | .cvtr d a b => some (wordA 0x61 d a b)
  | .rcp d a => some (wordA 0x62 d a 0)
  | .rsq d a => some (wordA 0x63 d a 0)
  | .sqrt d a => some (wordA 0x64 d a 0)
  | .exp2 d a => some (wordA 0x65 d a 0)
  | .log2 d a => some (wordA 0x66 d a 0)
  | .sinp d a => some (wordA 0x67 d a 0)
  | .cosp d a => some (wordA 0x68 d a 0)
  | .tanh d a => some (wordA 0x69 d a 0)
  | .flr d a => some (wordA 0x6A d a 0)
  | .ceil d a => some (wordA 0x6B d a 0)
  | .trnc d a => some (wordA 0x6C d a 0)
  | .rint d a => some (wordA 0x6D d a 0)
  | .frac d a => some (wordA 0x6E d a 0)
  | .tli d a b => some (wordA 0x6F d a b)
  | .dot d a b => some (wordA 0x70 d a b)
  | .scale d a b => some (wordA 0x71 d a b)
  | .cpsgn d a b => some (wordA 0x72 d a b)
  | .qdec d a b => some (wordA 0x73 d a b)
  | .qenc d a b => some (wordA 0x74 d a b)
  | .f4dec d a b => some (wordA 0x75 d a b)
  | .f4enc d a b => some (wordA 0x76 d a b)
  | .mxfb d a => some (wordA 0x78 d a 0)
  | .mxwl d a b => some (wordA 0x79 d a b)
  | .mxsw => some (wordA 0x7A 0 0 0)
  | .mxst d a b => some (wordA 0x7B d a b)
  | .mxrd d a b => some (wordA 0x7C d a b)
  | .mxrel d => some (wordA 0x7D d 0 0)
  | .mxz d a => some (wordA 0x7E d a 0)
  | .mxq d a => some (wordA 0x7F d a 0)
  | .shfl d a b => some (wordA 0x80 d a b)
  | .shflx d a b => some (wordA 0x81 d a b)
  | .shflu d a i => some (wordA 0x82 d a i)
  | .shfld d a i => some (wordA 0x83 d a i)
  | .vote d a => some (wordA 0x84 d a 0)
  | .vany d a => some (wordA 0x85 d a 0)
  | .vall d a => some (wordA 0x86 d a 0)
  | .rdx d a b => some (wordA 0x87 d a b)
  | .scan d a b => some (wordA 0x88 d a b)
  | .topk d a b => some (wordA 0x89 d a b)
  | .matchLanes d a b => some (wordA 0x8A d a b)
  | .elect d a => some (wordA 0x8B d a 0)
  | .ldb d a b => some (wordA 0x90 d a b)
  | .ldh d a b => some (wordA 0x91 d a b)
  | .ldw d a b => some (wordA 0x92 d a b)
  | .ldd d a b => some (wordA 0x93 d a b)
  | .ldq d a b => some (wordA 0x94 d a b)
  | .ldo d a b => some (wordA 0x95 d a b)
  | .stb d a b => some (wordA 0x96 d a b)
  | .sth d a b => some (wordA 0x97 d a b)
  | .stw d a b => some (wordA 0x98 d a b)
  | .std d a b => some (wordA 0x99 d a b)
  | .stq d a b => some (wordA 0x9A d a b)
  | .sto d a b => some (wordA 0x9B d a b)
  | .lda d a b => some (wordA 0x9C d a b)
  | .stl d a b => some (wordA 0x9D d a b)
  | .stmc d a b => some (wordA 0x9E d a b)
  | .pref a b => some (wordA 0x9F 0 a b)
  | .ldwi d a i => some (wordA 0xA0 d a i)
  | .lddi d a i => some (wordA 0xA1 d a i)
  | .ldqi d a i => some (wordA 0xA2 d a i)
  | .stwi d a i => some (wordA 0xA3 d a i)
  | .stdi d a i => some (wordA 0xA4 d a i)
  | .stqi d a i => some (wordA 0xA5 d a i)
  | .ldbi d a i => some (wordA 0xA6 d a i)
  | .stbi d a i => some (wordA 0xA7 d a i)
  | .aadd o d a b => some (wordA (0x2C#6 ++ o) d a b)
  | .amin o d a b => some (wordA (0x2D#6 ++ o) d a b)
  | .amax o d a b => some (wordA (0x2E#6 ++ o) d a b)
  | .aand o d a b => some (wordA (0x2F#6 ++ o) d a b)
  | .aor o d a b => some (wordA (0x30#6 ++ o) d a b)
  | .axor o d a b => some (wordA (0x31#6 ++ o) d a b)
  | .axch o d a b => some (wordA (0x32#6 ++ o) d a b)
  | .acas o d a b => some (wordA (0x33#6 ++ o) d a b)
  | .wait d a b => some (wordA 0xD0 d a b)
  | .wake d a b => some (wordA 0xD1 d a b)
  | .binit a b => some (wordA 0xD2 0 a b)
  | .barv d a b => some (wordA 0xD3 d a b)
  | .bwait d a b => some (wordA 0xD4 d a b)
  | .binv a => some (wordA 0xD5 0 a 0)
  | .txb i => some (wordW 0xD6 0 i)
  | .txe d a => some (wordA 0xD7 d a 0)
  | .txa i => some (wordA 0xD8 0 0 i)
  | .txq d => some (wordA 0xD9 d 0 0)
  | .ldn d a => some (wordA 0xDA d a 0)
  | .stn d a => some (wordA 0xDB d a 0)
  | .acpy d a => some (wordA 0xE0 d a 0)
  | .aten d a => some (wordA 0xE1 d a 0)
  | .agth d a => some (wordA 0xE2 d a 0)
  | .agtp d a => some (wordA 0xE3 d a 0)
  | .asct d a => some (wordA 0xE4 d a 0)
  | .acol d a => some (wordA 0xE5 d a 0)
  | .pub d a => some (wordA 0xE6 d a 0)
  | .hget d a => some (wordA 0xE7 d a 0)
  | .trace d a => some (wordA 0xE8 d a 0)
  | .rast d a => some (wordA 0xE9 d a 0)
  | .trsm d a => some (wordA 0xEA d a 0)
  | .acan d => some (wordA 0xEB d 0 0)
  | .blnd d a b => some (wordA 0xEC d a b)
  | .qbind d a => some (wordA 0xF0 d a 0)
  | .qtry d a b => some (wordA 0xF1 d a b)
  | .qcnt d a => some (wordA 0xF2 d a 0)
  | .send d a b => some (wordA 0xF3 d a b)
  | .qput d a b => some (wordA 0xF4 d a b)
  | .rqp d i => some (wordA 0xF5 d 0 (0#4 ++ i))
  | .rqg d i => some (wordA 0xF6 d 0 (0#4 ++ i))
  | .rsvp d a b => some (wordA 0xF7 d a b)
  | .rsvg d => some (wordA 0xF8 d 0 0)
  | .rsvd d a => some (wordA 0xF9 d a 0)
  | .shoot d a b => some (wordA 0xFA d a b)
  | .bias d a b => some (wordA 0xFB d a b)
  | .flush d a => some (wordA 0xFC d a 0)
  | .mgrt d a b => some (wordA 0xFD d a b)
  | .uNfet => some (wordM 0x01 (0#26))
  | .uBoxt => some (wordM 0x02 (0#26))
  | .uTrit => some (wordM 0x03 (0#26))
  | .uEdgt => some (wordM 0x04 (0#26))
  | .uSplt => some (wordM 0x05 (0#26))
  | .uDepz => some (wordM 0x06 (0#26))
  | .uOrdr => some (wordM 0x07 (0#26))
  | .uPush => some (wordM 0x08 (0#26))
  | .uPop => some (wordM 0x09 (0#26))
  | .uNext => some (wordM 0x0A (0#26))
  | .uLeaf a => some (wordM 0x0B (a ++ 0#20))
  | .uInst => some (wordM 0x0C (0#26))
  | .uIpop => some (wordM 0x0D (0#26))
  | .uHit => some (wordM 0x0E (0#26))
  | .uTmax => some (wordM 0x0F (0#26))
  | .uAnyh => some (wordM 0x10 (0#26))
  | .uEmit => some (wordM 0x11 (0#26))
  | .uLdr a b i => some (wordM 0x12 (a ++ b ++ i))
  | .uFlg i => some (wordM 0x13 (0#22 ++ i))
  | .uBrc n flag t => some (wordM 0x14 (n ++ 0#2 ++ flag ++ 0#6 ++ t))
  | .uJmp t => some (wordM 0x15 (0#12 ++ t))
  | .uYld => some (wordM 0x16 (0#26))
  | .uStat a i => some (wordM 0x17 (a ++ 0#6 ++ i))
  | .uDone => some (wordM 0x18 (0#26))
  | .evPowerOn _ => none
  | .evReportQuery => none
  | .evAttestationRequest _ => none
  | .evHostRequest _ => none
  | .evOlunRequest _ _ => none
  | .evFlitFailure _ => none
  | .evBirspArrival _ _ => none
  | .evCxlLinkDown => none
  | .evTimeCorrection _ _ => none
  | .evPowerMeasurement _ => none
  | .evCoreGating _ _ => none
  | .evCoreWake _ _ => none
  | .evSoftError _ => none
  | .evMboxPush _ _ _ _ => none
  | .evLqBell _ _ => none
  | .evLqErrRead _ => none
  | .evCtxPre _ _ => none
  | .evReplay _ _ _ => none
  | .evResume _ _ _ => none
  | .evRedirect _ _ _ => none
  | .evReturn _ _ _ => none
  | .evReleaseWaiter _ _ _ => none
  | .evKill _ _ _ => none
  | .evDiscardTask _ _ _ => none
  | .evReplayCommand _ _ _ => none
  | .evCancelCommand _ _ _ => none
  | .evChanOwner _ _ _ => none
  | .evLdrCfg _ _ _ _ => none
  | .evRdcCfg _ _ => none
  | .evWaiterCfg _ _ => none
  | .evCtrDataRead _ _ => none
  | .evCtrDataWrite _ _ _ => none
  | .evDlyDataWrite _ _ _ => none
  | .evMonCfgWrite _ _ => none
  | .evPortFrz _ _ => none
  | .evNgateWrite _ _ => none
  | .evStopRequest _ _ => none
  | .evStopRelease _ _ => none
  | .evSfstatClr _ => none
  | .evStimeLo _ => none
  | .evSretLo _ => none
  | .evCycLo _ _ => none
  | .evMsgDrop _ => none
  | .evSeCorr _ => none
  | .evSeUnc _ => none
  | .evTrcLost _ => none
  | .evTrcHead _ => none
  | .evDwDataRead _ _ => none
  | .evDwDataWrite _ _ _ => none
  | .evSystemRegisterWrite _ _ _ _ => none
  | .evLaunchQueueTake _ _ _ => none
  | .evDependenceNotification _ _ _ => none
  | .evConditionRead _ _ _ => none
  | .evPlacement _ => none
  | .evGridCompletion _ => none
  | .evSliceExpiry _ _ => none
  | .evPreemptionComplete _ => none
  | .evCapture _ => none
  | .evBinLaunch _ _ _ => none
  | .evBinTimerExpiry _ _ _ => none
  | .evTaskDispatch _ _ _ => none
  | .evGangPromotion _ _ => none
  | .evRegangRejoin _ => none
  | .evHaltTakesEffect _ => none
  | .evFillArrival _ => none
  | .evWriteThroughArrival _ => none
  | .evMessageDelivery _ _ => none
  | .evInputBufferDelivery _ _ => none
  | .evFaultPacketDelivery _ => none
  | .evSleepTimeout _ _ => none
  | .evRiserGrant _ => none
  | .evCommandBlock _ => none
  | .evTokenWrite _ => none
  | .evMxwlCompletion _ _ => none
  | .evMxstRow _ => none
  | .evMxrdRow _ => none
  | .evStackSpill _ => none
  | .evBatchCompletion _ => none
  | .evComparatorFire _ _ _ => none
  | .evSampleRecord _ _ => none
  | .evPreciseStopReached _ _ => none
  | .evMonitorLevelSample _ _ => none
  | .evUnassignedOpcode _ => none
  | .evReservedMicroOperation _ => none
  | .evSilentPackage _ => none
  | .evWriteThroughAcknowledgement _ => none

/-- The instruction that the decoder reads from the bits w of a table row: the map of R59 first, and a micro-word (R348) only where no
instruction has the word (log entry 12). The table's bit 0 is bit 0 of the one little-endian word (R56). -/
def decodeTableWord (nbits w : Nat) : Option Instr :=
  if nbits ≤ 32 ∧ w < 2 ^ 32 then
    match decode (BitVec.ofNat 32 w) with
    | some i => some i
    | none => decodeMicro (BitVec.ofNat 32 w)
  else none

end Sys2Proof
end

