-- ==== Sys2Proof/Machine/Bits.lean ====
section
/-! DEFINITION. Bit fields, byte order, sign extension and the sparse map's operations. -/

namespace Sys2Proof.Machine

/-- Bits [hi:lo] of x as an unsigned number (R2, R7). -/
def bits {w : Nat} (x : BitVec w) (hi lo : Nat) : Nat := (x.toNat >>> lo) % 2 ^ (hi + 1 - lo)

/-- Bit i of x. -/
def bit {w : Nat} (x : BitVec w) (i : Nat) : Bool := x.getLsbD i

/-- Bits [hi:lo] of a number. -/
def nbits (x hi lo : Nat) : Nat := (x >>> lo) % 2 ^ (hi + 1 - lo)

/-- x with bits [hi:lo] replaced by the low bits of v. -/
def putBits {w : Nat} (x : BitVec w) (hi lo v : Nat) : BitVec w :=
  let n := hi + 1 - lo
  let m : BitVec w := BitVec.ofNat w ((2 ^ n - 1) * 2 ^ lo)
  (x &&& ~~~m) ||| (BitVec.ofNat w ((v % 2 ^ n) * 2 ^ lo))

/-- A register value with the bits outside a mask of writable bits kept (R4: a reserved bit ignores what is written). -/
def maskWrite {w : Nat} (old new : BitVec w) (m : Nat) : BitVec w :=
  (old &&& ~~~(BitVec.ofNat w m)) ||| (new &&& BitVec.ofNat w m)

/-- SExt of R7 for a number read as n bits, to w bits. -/
def sext (n w : Nat) (x : Nat) : BitVec w := (BitVec.ofNat n x).signExtend w

/-- The number that n bits denote in two's complement. -/
def sint (n : Nat) (x : Nat) : Int := (BitVec.ofNat n x).toInt

/-- a :: b of R7 for two words: a holds bits [63:32] (R37). -/
def pairOf (lo hi : Word) : DWord := hi ++ lo

def loWord (x : DWord) : Word := x.extractLsb' 0 32
def hiWord (x : DWord) : Word := x.extractLsb' 32 32

/-- The n bytes of a number, lowest address first (R2). -/
def bytesOf : Nat → Nat → List Byte
  | 0, _ => []
  | n + 1, x => BitVec.ofNat 8 x :: bytesOf n (x / 256)

/-- The number that bytes denote, lowest address first (R2). -/
def ofBytes : List Byte → Nat
  | [] => 0
  | b :: bs => b.toNat + 256 * ofBytes bs

/-- The n words of a number, lowest first. -/
def wordsOf : Nat → Nat → List Word
  | 0, _ => []
  | n + 1, x => BitVec.ofNat 32 x :: wordsOf n (x / 4294967296)

def ofWords : List Word → Nat
  | [] => 0
  | b :: bs => b.toNat + 4294967296 * ofWords bs

/-- The numbers below n for which p holds, in increasing order. -/
def rangeWhere (n : Nat) (p : Nat → Bool) : List Nat := (List.range n).filter p

/-- The mask with exactly the listed lanes. -/
def maskOf : List Nat → LaneMask
  | [] => 0
  | l :: ls => (BitVec.ofNat 96 (2 ^ l)) ||| maskOf ls

/-- The lanes of a mask, in increasing order. -/
def lanesOf (m : LaneMask) : List Nat := rangeWhere 96 (fun l => m.getLsbD l)

/-- Round x up to a multiple of n. -/
def alignUp (x n : Nat) : Nat := ((x + n - 1) / n) * n

/-- The value a sparse map gives a key; d is what an unlisted key reads as. -/
def smGet {β : Type} (d : β) : SMap β → Nat → β
  | [], _ => d
  | (j, v) :: m, k => if k = j then v else smGet d m k

/-- A sparse map with one entry written whatever its value. -/
def smPut {β : Type} : SMap β → Nat → β → SMap β
  | [], k, v => [(k, v)]
  | (j, w) :: m, k, v =>
    if k < j then (k, v) :: (j, w) :: m
    else if k = j then (j, v) :: m
    else (j, w) :: smPut m k v

/-- A sparse map without an entry for a key. -/
def smDel {β : Type} (m : SMap β) (k : Nat) : SMap β := m.filter (fun e => decide (e.1 ≠ k))

/-- A sparse map with one key written; writing d removes the entry, so that equal maps are equal lists. -/
def smSet {β : Type} [DecidableEq β] (d : β) (m : SMap β) (k : Nat) (v : β) : SMap β := if v = d then smDel m k else smPut m k v

/-- Keys strictly rising, all at least lo, and no entry that reads as an unlisted key does. -/
def smWfFrom {β : Type} [DecidableEq β] (d : β) : Nat → SMap β → Bool
  | _, [] => true
  | lo, (j, v) :: m => decide (lo ≤ j) && decide (v ≠ d) && smWfFrom d (j + 1) m

/-- The canonical form of a sparse map. -/
def smWf {β : Type} [DecidableEq β] (d : β) (m : SMap β) : Bool := smWfFrom d 0 m

/-- Replace element i of a list. -/
def setAt {α : Type} : List α → Nat → α → List α
  | [], _, _ => []
  | _ :: xs, 0, y => y :: xs
  | x :: xs, n + 1, y => x :: setAt xs n y

/-- Change element i of a list. -/
def modAt {α : Type} : List α → Nat → (α → α) → List α
  | [], _, _ => []
  | x :: xs, 0, f => f x :: xs
  | x :: xs, n + 1, f => x :: modAt xs n f

/-- Insert in an order given by a comparison; equal elements keep their order. -/
def insertBy {α : Type} (lt : α → α → Bool) (x : α) : List α → List α
  | [] => [x]
  | y :: ys => if lt x y then x :: y :: ys else y :: insertBy lt x ys

/-- A stable insertion sort. -/
def sortBy {α : Type} (lt : α → α → Bool) : List α → List α
  | [] => []
  | x :: xs => (sortBy lt xs |> fun ys => insertByFront lt x ys)
where
  /-- Insert x before every element that is not strictly smaller, so that earlier elements stay first among equals. -/
  insertByFront (lt : α → α → Bool) (x : α) : List α → List α
    | [] => [x]
    | y :: ys => if lt y x then y :: insertByFront lt x ys else x :: y :: ys

/-- Keep the first of equal elements. -/
def dedup {α : Type} [DecidableEq α] : List α → List α
  | [] => []
  | x :: xs => x :: (dedup xs).filter (fun y => decide (y ≠ x))

end Sys2Proof.Machine
end

