-- ==== Sys2Proof/Machine/Flags.lean ====
section
/-! DEFINITION. Number formats, rounding, saturation, flushing and the fstat flags (R107 to R117). -/

namespace Sys2Proof.Machine

/-- The rounding modes, in the coding of mode.round (R39). -/
inductive Rm where
  | rne | rtz | rdn | rup
  deriving DecidableEq, Repr

def Rm.ofCode (n : Nat) : Rm := if n = 0 then .rne else if n = 1 then .rtz else if n = 2 then .rdn else .rup

/-- A float format (R107): total bits, fraction bits, bias, the code of the largest finite magnitude, whether it has infinities. -/
structure Fmt where
  w : Nat
  fb : Nat
  bias : Nat
  maxCode : Nat
  hasInf : Bool
  hasNan : Bool
  nan : Nat
  flush : Bool
  deriving DecidableEq, Repr

def fp32 : Fmt := { w := 32, fb := 23, bias := 127, maxCode := 0x7F7FFFFF, hasInf := true, hasNan := true, nan := 0x7FC00000, flush := true }
def fp16 : Fmt := { w := 16, fb := 10, bias := 15, maxCode := 0x7BFF, hasInf := true, hasNan := true, nan := 0x7E00, flush := true }
def bf16 : Fmt := { w := 16, fb := 7, bias := 127, maxCode := 0x7F7F, hasInf := true, hasNan := true, nan := 0x7FC0, flush := true }
def e4m3 : Fmt := { w := 8, fb := 3, bias := 7, maxCode := 0x7E, hasInf := false, hasNan := true, nan := 0x7F, flush := false }
def e5m2 : Fmt := { w := 8, fb := 2, bias := 15, maxCode := 0x7B, hasInf := true, hasNan := true, nan := 0x7E, flush := false }
def e2m1 : Fmt := { w := 4, fb := 1, bias := 1, maxCode := 0x7, hasInf := false, hasNan := false, nan := 0, flush := false }

/-- The code of +infinity in a format that has one. -/
def Fmt.infCode (f : Fmt) : Nat := f.maxCode + 1

/-- An exact value: NaN, an infinity, or (-1)^neg * n * 2^e; zero keeps its sign. -/
inductive XR where
  | nan
  | inf (neg : Bool)
  | fin (neg : Bool) (n : Nat) (e : Int)
  deriving DecidableEq, Repr

/-- The value of a bit pattern (R107). -/
def Fmt.decode (f : Fmt) (x : Nat) : XR :=
  let neg := x.testBit (f.w - 1)
  let c := x % 2 ^ (f.w - 1)
  if f.hasInf && decide (c = f.infCode) then .inf neg
  else if f.hasNan && decide (f.maxCode < c) then .nan
  else
    let ex := c / 2 ^ f.fb
    let fr := c % 2 ^ f.fb
    if ex = 0 then .fin neg fr (1 - (f.bias : Int) - f.fb)
    else .fin neg (2 ^ f.fb + fr) ((ex : Int) - f.bias - f.fb)

/-- An input under ftz: a subnormal of FP32, FP16 or BF16 reads as a zero of its sign (R113). -/
def Fmt.decodeFtz (f : Fmt) (ftz : Bool) (x : Nat) : XR :=
  let c := x % 2 ^ (f.w - 1)
  if ftz && f.flush && decide (c < 2 ^ f.fb) then .fin (x.testBit (f.w - 1)) 0 0 else f.decode x

/-- fstat bits (R41). -/
def fNv : BitVec 5 := 1
def fDz : BitVec 5 := 2
def fOf : BitVec 5 := 4
def fUf : BitVec 5 := 8
def fNx : BitVec 5 := 16

/-- A result with the flags it raises. -/
structure FR where
  v : Nat
  fl : BitVec 5
  deriving DecidableEq, Repr

def Fmt.signed (f : Fmt) (neg : Bool) (c : Nat) : Nat := if neg then 2 ^ (f.w - 1) + c else c

/-- floor(log2 (n/d)) for n, d > 0. -/
def ilog (n d : Nat) : Int :=
  let e : Int := (Nat.log2 n : Int) - Nat.log2 d
  if e ≥ 0 then (if n < d * 2 ^ e.toNat then e - 1 else e)
  else (if n * 2 ^ (-e).toNat < d then e - 1 else e)

/-- n/d divided by 2^lsb, as quotient and a comparison of the rest with one half: 0 exact, 1 below, 2 equal, 3 above. -/
def quantise (n d : Nat) (lsb : Int) : Nat × Nat :=
  let n' := if lsb < 0 then n * 2 ^ (-lsb).toNat else n
  let d' := if lsb < 0 then d else d * 2 ^ lsb.toNat
  let q := n' / d'
  let r := n' % d'
  (q, if r = 0 then 0 else if 2 * r < d' then 1 else if 2 * r = d' then 2 else 3)

/-- Whether a magnitude with quotient q and rest class c is rounded up in magnitude (R111). -/
def roundsUp (rm : Rm) (neg : Bool) (q c : Nat) : Bool :=
  match rm with
  | .rne => decide (c = 3) || (decide (c = 2) && decide (q % 2 = 1))
  | .rtz => false
  | .rdn => neg && decide (c ≠ 0)
  | .rup => !neg && decide (c ≠ 0)

/-- Whether an overflow goes to infinity rather than to the largest finite value (the table of R111). -/
def overflowsToInf (rm : Rm) (neg : Bool) : Bool :=
  match rm with
  | .rne => true
  | .rtz => false
  | .rdn => neg
  | .rup => !neg

/-- What an infinite result becomes: the largest value under sat (R112); NaN in E4M3 (R111); E2M1 always its largest. -/
def Fmt.infinite (f : Fmt) (sat neg : Bool) : Nat :=
  if sat || !f.hasNan then f.signed neg f.maxCode
  else if f.hasInf then f.signed neg f.infCode else f.nan

/-- Round of R111 to R114 for the exact magnitude n/d with sign neg; a zero keeps the sign. DESIGN CHOICE (log entry 111): "below the smallest normal
after rounding" is decided on the code that the format's own grid gives. -/
def Fmt.roundQ (f : Fmt) (rm : Rm) (sat ftz neg : Bool) (n d : Nat) : FR :=
  if n = 0 then { v := f.signed neg 0, fl := 0 }
  else
    let emin : Int := 1 - (f.bias : Int)
    let e := max (ilog n d) emin
    let (q, c) := quantise n d (e - f.fb)
    let m := if roundsUp rm neg q c then q + 1 else q
    let code := m + (e - emin).toNat * 2 ^ f.fb
    if f.maxCode < code then
      { v := if f.hasNan && overflowsToInf rm neg then f.infinite sat neg else f.signed neg f.maxCode, fl := fOf ||| fNx }
    else
      let tiny := decide (code < 2 ^ f.fb)
      if ftz && f.flush && tiny then { v := f.signed neg 0, fl := fUf ||| fNx }
      else { v := f.signed neg code, fl := (if c ≠ 0 then fNx else 0) ||| (if tiny && decide (c ≠ 0) then fUf else 0) }

/-- Numerator and denominator of n * 2^e. -/
def dyadic (n : Nat) (e : Int) : Nat × Nat := if e ≥ 0 then (n * 2 ^ e.toNat, 1) else (n, 2 ^ (-e).toNat)

/-- Round of an exact value; inv says that the NaN comes from an invalid operation (R111, R114). -/
def Fmt.round (f : Fmt) (rm : Rm) (sat ftz : Bool) (inv : Bool) (x : XR) : FR :=
  match x with
  | .nan => { v := f.nan, fl := if inv then fNv else 0 }
  | .inf neg => { v := f.infinite sat neg, fl := 0 }
  | .fin neg n e => let (a, b) := dyadic n e; f.roundQ rm sat ftz neg a b

def XR.neg? : XR → Bool
  | .nan => false
  | .inf s => s
  | .fin s _ _ => s

def XR.isNan : XR → Bool
  | .nan => true
  | _ => false

def XR.isInf : XR → Bool
  | .inf _ => true
  | _ => false

def XR.isZero : XR → Bool
  | .fin _ n _ => decide (n = 0)
  | _ => false

def XR.negate : XR → XR
  | .nan => .nan
  | .inf s => .inf (!s)
  | .fin s n e => .fin (!s) n e

/-- The exact product; the flag says 0 times infinity (R114). -/
def XR.mul (a b : XR) : XR × Bool :=
  match a, b with
  | .nan, _ => (.nan, false)
  | _, .nan => (.nan, false)
  | .inf s, .inf t => (.inf (s ^^ t), false)
  | .inf s, .fin t n _ => if n = 0 then (.nan, true) else (.inf (s ^^ t), false)
  | .fin t n _, .inf s => if n = 0 then (.nan, true) else (.inf (s ^^ t), false)
  | .fin s n e, .fin t m g => (.fin (s ^^ t) (n * m) (e + g), false)

/-- n * 2^e as a multiple of 2^lo, signed; lo must not exceed e. -/
def scaled (neg : Bool) (n : Nat) (e lo : Int) : Int :=
  let m : Int := (n * 2 ^ (e - lo).toNat : Nat)
  if neg then -m else m

/-- The least exponent among finite terms. -/
def minExp : List XR → Int → Int
  | [], m => m
  | .fin _ n e :: xs, m => minExp xs (if n = 0 then m else min e m)
  | _ :: xs, m => minExp xs m

def sumScaled (lo : Int) : List XR → Int
  | [] => 0
  | .fin s n e :: xs => (if n = 0 then 0 else scaled s n e lo) + sumScaled lo xs
  | _ :: xs => sumScaled lo xs

/-- The exact sum of terms (R111 step 4): the flag says that infinities of both signs met. A zero sum of terms of one sign keeps it;
any other zero is -0 under RDN and +0 otherwise. -/
def XR.sum (rm : Rm) (xs : List XR) : XR × Bool :=
  let p := xs.any (fun x => x.isInf && !x.neg?)
  let q := xs.any (fun x => x.isInf && x.neg?)
  if xs.any XR.isNan then (.nan, p && q)
  else
    if p && q then (.nan, true)
    else if p then (.inf false, false)
    else if q then (.inf true, false)
    else
      let lo := minExp xs 1024
      let t := sumScaled lo xs
      if t = 0 then
        let z := if xs.all (fun x => x.neg?) then true else if xs.all (fun x => !x.neg?) then false else decide (rm = .rdn)
        (.fin z 0 0, false)
      else (.fin (decide (t < 0)) t.natAbs lo, false)

/-- The order of two non-NaN values: negative, zero or positive as a is below, equal to or above b; -0 and +0 are equal. -/
def XR.cmp (a b : XR) : Int :=
  match a, b with
  | .inf s, .inf t => if s = t then 0 else if s then -1 else 1
  | .inf s, _ => if s then -1 else 1
  | _, .inf t => if t then 1 else -1
  | .fin s n e, .fin t m g =>
    let lo := minExp [.fin s n e, .fin t m g] 1024
    (if n = 0 then 0 else scaled s n e lo) - (if m = 0 then 0 else scaled t m g lo)
  | _, _ => 0

/-- Whether a is below b with -0 below +0 (R116). -/
def XR.below (a b : XR) : Bool :=
  let c := a.cmp b
  decide (c < 0) || (decide (c = 0) && a.isZero && b.isZero && a.neg? && !b.neg?)

/-- The exact value written without rounding or flags, flushed under ftz (R116). -/
def Fmt.plain (f : Fmt) (ftz : Bool) (x : XR) : Nat := (f.round .rne false ftz false x).v

/-- MIN and MAX of R116. -/
def Fmt.minmax (f : Fmt) (mx ftz : Bool) (a b : Nat) : Nat :=
  let x := f.decodeFtz ftz a
  let y := f.decodeFtz ftz b
  match x, y with
  | .nan, .nan => f.nan
  | .nan, y => f.plain ftz y
  | x, .nan => f.plain ftz x
  | x, y => if (if mx then y.below x else x.below y) then f.plain ftz x else f.plain ftz y

/-- The exact value scaled by 2^k. -/
def XR.scale (x : XR) (k : Int) : XR :=
  match x with
  | .fin s n e => .fin s n (e + k)
  | y => y

/-- The mode fields an arithmetic instruction reads (R39). -/
structure FMode where
  rm : Rm
  sat : Bool
  ftz : Bool
  deriving DecidableEq, Repr

def Fmt.add (f : Fmt) (m : FMode) (a b : Nat) : FR :=
  let (x, i) := XR.sum m.rm [f.decodeFtz m.ftz a, f.decodeFtz m.ftz b]
  f.round m.rm m.sat m.ftz i x

def Fmt.sub (f : Fmt) (m : FMode) (a b : Nat) : FR :=
  let (x, i) := XR.sum m.rm [f.decodeFtz m.ftz a, (f.decodeFtz m.ftz b).negate]
  f.round m.rm m.sat m.ftz i x

def Fmt.mul (f : Fmt) (m : FMode) (a b : Nat) : FR :=
  let (x, i) := (f.decodeFtz m.ftz a).mul (f.decodeFtz m.ftz b)
  f.round m.rm m.sat m.ftz i x

/-- MAD of R115: one rounding of the exact a * b + d. -/
def Fmt.mad (f : Fmt) (m : FMode) (a b d : Nat) : FR :=
  let (p, i) := (f.decodeFtz m.ftz a).mul (f.decodeFtz m.ftz b)
  if i then { v := f.nan, fl := fNv }
  else
    let (x, j) := XR.sum m.rm [p, f.decodeFtz m.ftz d]
    f.round m.rm m.sat m.ftz j x

/-- The quotient of two values rounded once, with the special cases of R115. -/
def Fmt.divX (f : Fmt) (m : FMode) (x y : XR) : FR :=
  match x, y with
  | .nan, _ => { v := f.nan, fl := 0 }
  | _, .nan => { v := f.nan, fl := 0 }
  | .inf _, .inf _ => { v := f.nan, fl := fNv }
  | .inf s, .fin t _ _ => { v := f.infinite m.sat (s ^^ t), fl := 0 }
  | .fin s _ _, .inf t => { v := f.signed (s ^^ t) 0, fl := 0 }
  | .fin s n e, .fin t k g =>
    if k = 0 then (if n = 0 then { v := f.nan, fl := fNv } else { v := f.infinite m.sat (s ^^ t), fl := fDz })
    else
      let (a, b) := dyadic n (e - g)
      f.roundQ m.rm m.sat m.ftz (s ^^ t) a (b * k)

def Fmt.div (f : Fmt) (m : FMode) (a b : Nat) : FR := f.divX m (f.decodeFtz m.ftz a) (f.decodeFtz m.ftz b)

/-- The class index of a stored value (R117). -/
def Fmt.classOf (f : Fmt) (x : Nat) : Nat :=
  let c := x % 2 ^ (f.w - 1)
  match f.decode x with
  | .nan => 8
  | .inf s => if s then 0 else 7
  | .fin s n _ =>
    if n = 0 then (if s then 3 else 4)
    else if c < 2 ^ f.fb then (if s then 2 else 5)
    else (if s then 1 else 6)

/-- FLR, CEIL, TRNC and RINT of R124: the integral value in the same format, with the sign of a. -/
def Fmt.integral (f : Fmt) (rm : Rm) (ftz : Bool) (a : Nat) : FR :=
  match f.decodeFtz ftz a with
  | .nan => { v := f.nan, fl := 0 }
  | .inf s => { v := f.signed s f.infCode, fl := 0 }
  | .fin s n e =>
    let (p, q) := dyadic n e
    let (i, c) := quantise p q 0
    let k := if roundsUp rm s i c then i + 1 else i
    { v := (f.roundQ .rne false false s k 1).v, fl := 0 }

/-- The floor of an exact finite value. -/
def XR.floor : XR → Int
  | .fin s n e =>
    let (p, q) := dyadic n e
    if s then -((p + q - 1) / q : Nat) else (p / q : Nat)
  | _ => 0

/-- Float to integer of R120: clamped to [lo, hi], with the flags. -/
def toIntegral (rm : Rm) (lo hi : Int) (x : XR) : Int × BitVec 5 :=
  match x with
  | .nan => (0, fNv)
  | .inf s => (if s then lo else hi, fNv)
  | .fin s n e =>
    if n = 0 then (0, 0)
    else if e > 300 then (if s then lo else hi, fNv)
    else
      let (p, q) := dyadic n e
      let (i, c) := quantise p q 0
      let k : Int := (if roundsUp rm s i c then i + 1 else i : Nat)
      let v := if s then -k else k
      if v < lo then (lo, fNv) else if hi < v then (hi, fNv) else (v, if c ≠ 0 then fNx else 0)

/-- An exact integer as a value. -/
def XR.ofInt (i : Int) : XR := .fin (decide (i < 0)) i.natAbs 0

end Sys2Proof.Machine
end

