-- ==== Sys2Proof/Config.lean ====
section
/-! DEFINITION. The values the spec leaves open: opaque constants, of which nothing can be proved. -/

namespace Sys2Proof.Config

/-- A fresh 64-bit value that the spec does not state (log entry 2), drawn with the counter of State. -/
opaque freeDWord : Nat → DWord

/-- The correctly rounded value of a special function where the enclosures of Special.lean do not decide it (log entry 11): a function of the
operation, format, mode and input, which the argument names. -/
opaque specialValue : Nat → Word

/-- FIPS 205 verification of an image (R425): key bytes, message, signature (log entry 9). -/
opaque slhVerify : List Byte → List Byte → List Byte → Bool

/-- The signature that the identity key makes (R426): message bytes to signature bytes (log entry 9). -/
opaque identitySign : List Byte → List Byte

/-- The Calenaum-signed identity certificate (R426) (log entry 9). -/
opaque identityCert : List Byte

/-- The set of an L2 line in its slice, as a number that the count of sets, 512, reduces (R186 names sets and gives no index): from VA[56:7]
(log entry 10). -/
opaque l2Set : Nat → Nat

/-- The set of the remote-data cache that holds a line, as a number that its count of sets reduces (R162 gives 4 ways and no index): from VA[56:7]
(log entry 10). -/
opaque rdcSet : Nat → Nat

/-- The Olun port through which a request to an address of another package is routed, as a number that the count of ports, 16, reduces (R434 names
ports and gives no routing; log entry 115). -/
opaque olunPort : Nat → Nat

/-- The GiB that the remote-data cache of a die of another package takes there, by package and die (R170, R182; log entry 101). -/
opaque otherCarve : Nat → Nat → Nat

end Sys2Proof.Config
end

