-- ==== Sys2Proof/Machine/Types.lean ====
section
/-! DEFINITION. The parts of the machine's state: units, queues, caches, engines, dies, quads and cores. -/

namespace Sys2Proof.Machine

/-- The engines that execute instruction words (R63 stage 2, R427). -/
inductive Engine where
  | wave
  | swarm
  | mcc
  | sup
  deriving DecidableEq, Repr

/-- The 18 faults (R387). -/
inductive Cause where
  | illegal | operand | priv | align | page | prot | bias | migr | loop | divstack | trap | bkpt | acc | txcap | queue | trav | ecc | window
  deriving DecidableEq, Repr

/-- The stall reasons (R282); `none` is rank 0, an issue. -/
inductive Stall where
  | none | parked | halted | frozen | suspended | barrier | queue | token | load | register | structural | notSelected
  deriving DecidableEq, Repr

/-- The state of a unit (R380). -/
inductive RunState where
  | ready | parked | frozen | stopped | suspended
  deriving DecidableEq, Repr

/-- A reconvergence stack entry (R43, R135): a join entry has mask 0. -/
structure REntry where
  pc : DWord
  mask : BitVec 4
  deriving DecidableEq, Repr

/-- A loop stack entry (R44). -/
structure LEntry where
  count : Word
  start : DWord
  last : DWord
  deriving DecidableEq, Repr

/-- The sequencing state of a slice (R42). Stacks hold their top first. -/
structure Slice where
  pc : DWord
  live : BitVec 4
  active : BitVec 4
  gang : Nat
  strand : Nat
  rstack : List REntry
  lstack : List LEntry
  /-- waits at a REGANG (R140) -/
  atRegang : Bool
  /-- how often the slice has passed each pc since its strand began: names a dynamic instance (R31) -/
  passes : SMap Nat
  /-- stack entries at or above the depth, as a debugger left them (R53); oldest entry 0 -/
  rext : SMap REntry
  lext : SMap LEntry
  deriving DecidableEq, Repr

/-- A word of a lane's write log: address, value, byte mask (R221). -/
structure WLog where
  addr : Nat
  val : DWord
  mask : BitVec 8
  deriving DecidableEq, Repr

/-- A word of a lane's read log (R221). -/
structure RLog where
  addr : Nat
  val : DWord
  deriving DecidableEq, Repr

/-- A lane's transaction (R220 to R227). cause is that of R225, meaningful when doomed. -/
structure LaneTx where
  inTx : Bool
  doomed : Bool
  cause : Nat
  code : BitVec 8
  irrev : Bool
  /-- doomed by pre-emption, FORK or capture: TXE does not count the abort (R223) -/
  uncounted : Bool
  txb : DWord
  /-- the TXE that the TXB names, and the lanes of the slice that were active at the TXB (R220, R224) -/
  txe : DWord
  mask : BitVec 4
  aborts : Nat
  reads : List RLog
  writes : List WLog
  /-- lines an irrevocable attempt holds locked (R227), as location / 128 -/
  locks : List Nat
  /-- the dies whose Riser the attempt holds (R227) -/
  risers : List Nat
  /-- the attempt has met a line of another die: it starts again with the Risers of dies 0 to 3 (R227) -/
  multi : Bool
  /-- the core's clocks at the TXB, for monitor source 5 (R407) -/
  since : DWord
  deriving DecidableEq, Repr

/-- A lane outside any transaction. -/
def LaneTx.idle : LaneTx :=
  { inTx := false, doomed := false, cause := 0, code := 0, irrev := false, uncounted := false, txb := 0, txe := 0, mask := 0, aborts := 0, reads := [], writes := [], locks := [], risers := [], multi := false, since := 0 }

/-- A lane asleep at WAIT or BWAIT (R214, R218); res is the value that its release gave. shared: the lane waits for its strand (R31). stall: the
waiter area had no free record, and the lane will compare this address with this value again (R216). -/
structure LaneWait where
  lane : Nat
  bwait : Bool
  /-- the mode scope at its issue (R193) -/
  scope : Nat
  key : Nat
  res : Option Word
  shared : Bool
  stall : Option (Nat × Nat)
  deriving DecidableEq, Repr

/-- A gang or thread asleep in SLEEP (R158); until 0 means no limit. -/
structure Sleep where
  gang : Nat
  pc : DWord
  limit : Bool
  until_ : DWord
  woken : Bool
  deriving DecidableEq, Repr

/-- A dynamic instance of a uniform instruction that a strand has executed, and the value its other gangs take (R31, R141). -/
structure UDone where
  strand : Nat
  pc : Nat
  n : Nat
  val : DWord
  deriving DecidableEq, Repr

/-- A task queue entry (R155, R257). -/
structure Task where
  entry : DWord
  args : List Word
  asid : Nat
  lds : Nat
  tag : Word
  callerPlace : Word
  callerSerial : Word
  /-- the dispatch is parked or frozen with this fault (R258) -/
  held : Option Cause
  heldVa : DWord
  /-- retry only after the supervisor has released it (R258) -/
  frozen : Bool
  fromSup : Bool
  scope : Nat
  /-- it is refused with this cause, and waits for room in its core's output buffer (R241, R258) -/
  refusal : Option Cause
  deriving DecidableEq, Repr

/-- What a CALLAT thread owes its caller (R155). -/
structure Caller where
  place : Word
  serial : Word
  tag : Word
  deriving DecidableEq, Repr

/-- An activation (R20, R414). -/
structure Activation where
  entry : DWord
  tag : Word
  deriving DecidableEq, Repr

/-- The message a unit is running on: what its delay entry takes at run end (R409, R410). -/
structure RunMsg where
  place : Word
  serial : Word
  transit : DWord
  wait : DWord
  dequeued : DWord
  tag : Word
  deriving DecidableEq, Repr

/-- A delay table entry (R410). -/
structure Delay where
  place : Word
  serial : Word
  count : Word
  transit : DWord
  wait : DWord
  run : DWord
  deriving DecidableEq, Repr

/-- An inbox (R241) with the bookkeeping of message delays (R409, R410). -/
structure Inbox where
  words : List Word
  /-- words left of an item popped in part (R252) -/
  left : Nat
  /-- delivery time of each item whose first word is still in the inbox, oldest first -/
  arrivals : List DWord
  runMsg : Option RunMsg
  delays : List Delay
  deriving DecidableEq, Repr

def Inbox.empty : Inbox := { words := [], left := 0, arrivals := [], runMsg := none, delays := [] }

/-- The registers of a unit (R28, R39, R41, R47, R50). v is keyed by 128 * lane + register. -/
structure Regs where
  v : SMap Word
  k : SMap Word
  p : List LaneMask
  q : List Word
  mode : BitVec 16
  fstat : BitVec 5
  timeHi : Word
  retHi : Word
  fb : List (BitVec 256)
  mxpi : Word
  deriving DecidableEq, Repr

/-- What a unit was created as (R249, R269, R280, R380). -/
structure Ident where
  engine : Engine
  asid : Nat
  serial : Word
  /-- the entry of its launch record or bin template, or of its task (R414) -/
  entry : DWord
  regs : Nat
  lds : Nat
  prio : Nat
  cclass : Nat
  kind : Nat
  age : Nat
  grid : Option Nat
  origin : DWord
  recIdx : Option Nat
  caller : Option Caller
  act : Option Activation
  deriving DecidableEq, Repr

/-- The supervisor's and the debugger's view of a unit (R45, R159, R380). -/
structure Control where
  run : RunState
  haltFlag : Bool
  halted : Bool
  redirected : Bool
  redirSave : List Word
  unfinished : LaneMask
  /-- the lanes that have already completed the instruction at their pc, which its reissue leaves out (R149, R207, R389) -/
  done : LaneMask
  cause : BitVec 8
  /-- the pc of the last faulting instruction and the active lanes of its gang then, as a redirect reports them (R45, R46) -/
  fpc : DWord
  factive : LaneMask
  /-- the gangs whose instruction at this pc issues once without evaluating a comparator (R418) -/
  skipBp : List (Nat × DWord)
  /-- an MXST or MXRD is in progress (R334), the one at this pc -/
  mxBusy : Bool
  mxPc : DWord
  deriving DecidableEq, Repr

/-- Who waits at a queue: a unit's gang, as a popper or a pusher (R245). -/
structure QWait where
  place : Place
  gang : Nat
  pop : Bool
  deriving DecidableEq, Repr

/-- The selector words of q0 to q15 as a gang's instruction at a pc issued with them and blocked (R243). -/
structure QHeld where
  gang : Nat
  pc : DWord
  q : List Word
  deriving DecidableEq, Repr

/-- A gang whose uniform instruction at a pc waits for its pair's uniform unit (R281). -/
structure UWait where
  place : Place
  gang : Nat
  pc : DWord
  deriving DecidableEq, Repr

/-- A token that has been written and that these lanes have not read yet, with the scope of the completion (R193). -/
structure TokenDue where
  f : Fld
  lanes : LaneMask
  scope : Nat
  deriving DecidableEq, Repr

/-- Counters, queues and waits of a unit. -/
structure Book where
  calls : Word
  retired : DWord
  stalls : SMap DWord
  inbox : Inbox
  saved : List (List Word)
  waits : List LaneWait
  sleeps : List Sleep
  udone : List UDone
  gwait : SMap Nat
  /-- promoted gangs (R280) -/
  promoted : List Nat
  stall : SMap Nat
  yielded : List Nat
  /-- the gangs that have issued in this clock (R280, R282) -/
  issued : List Nat
  /-- the bindings that the queue registers had when a blocked instruction issued (R243) -/
  held : List QHeld
  /-- the gangs blocked at the unit's own inbox, in the order in which they blocked (R245); a supervisor core has its own -/
  inboxWaits : List QWait
  /-- completed tokens whose first read, an acquire, is still to come (R193) -/
  tokens : List TokenDue
  /-- the clock at which each gang's MODE began to wait for gangs of its strand that are behind it (log entry 22) -/
  modeSince : SMap Nat
  deriving DecidableEq, Repr

/-- A wave or a thread. -/
structure Unit where
  place : Place
  ident : Ident
  regs : Regs
  slices : List Slice
  tx : SMap LaneTx
  tickets : SMap Word
  ctl : Control
  book : Book
  deriving DecidableEq, Repr

/-- A cache line of an L1, an L2 slice or the RDC (R172, R173, R175, R180). bytes holds 128 bytes, byte 0 lowest. -/
structure Line where
  tag : Nat
  asid : Option Nat
  pa : Nat
  r : Bool
  w : Bool
  x : Bool
  user : Bool
  cclass : Nat
  remote : Bool
  gen : Nat
  valid : BitVec 128
  dirty : BitVec 128
  bytes : BitVec 1024
  /-- L2 only: the registrant (R175, R184): a core; 240 + q for quad q's atomic unit, 300 for the own package's Olun port, 301 for the CXL port -/
  owner : Option Nat
  /-- RDC only: the way of its set that holds it -/
  way : Nat
  /-- an uncorrectable error stands in the line (R429) -/
  bad : Bool
  deriving DecidableEq, Repr

/-- A TLB entry (R293). size is the log2 of the page bytes. -/
structure TlbEntry where
  va : Nat
  size : Nat
  asid : Option Nat
  pa : Nat
  r : Bool
  w : Bool
  x : Bool
  user : Bool
  cclass : Nat
  deriving DecidableEq, Repr

/-- An entry of a memory controller's walk cache (R293): the non-leaf entry of this level for the VAs with these bits above its index, and the table
that it names. -/
structure WalkEntry where
  mc : Nat
  asid : Nat
  level : Nat
  va : Nat
  table : Nat
  deriving DecidableEq, Repr

/-- Write-through bytes on their way to a remote home (R180, R181). -/
structure WriteThrough where
  tag : Nat
  asid : Option Nat
  pa : Nat
  mask : BitVec 128
  bytes : BitVec 1024
  arrived : Bool
  deriving DecidableEq, Repr

/-- A fill in flight that a PREF asked for (R179, R209). -/
structure Fill where
  core : Option Nat
  va : Nat
  asid : Nat
  sup : Bool
  cclass : Nat
  gen : Nat
  acq : Nat
  deriving DecidableEq, Repr

/-- A channel (R241, R245). -/
structure Chan where
  words : List Word
  waiters : List QWait
  deriving DecidableEq, Repr

/-- A Launder: its configuration register (R254) and its entries. -/
structure Launder where
  cfg : Word
  entries : List (List Word)
  waiters : List QWait
  deriving DecidableEq, Repr

/-- A thread record in a spawn bin: the lane it becomes (R151, R152, R278, R393). -/
structure ThreadRec where
  v : List Word
  p : BitVec 8
  ticket : Option Word
  mig : Option Nat
  deriving DecidableEq, Repr

/-- A spawn bin's state (R277). -/
inductive BinState where
  | free | filling | launching
  deriving DecidableEq, Repr

/-- A spawn bin with the template it loaded (R276, R277). -/
structure Bin where
  state : BinState
  entry : DWord
  asid : Nat
  recs : List ThreadRec
  elapsed : Nat
  tindex : Nat
  timer : Nat
  mode : BitVec 16
  regs : Nat
  lds : Nat
  cclass : Nat
  prio : Nat
  ks : List Word
  since : Nat
  /-- saved with its context's pre-emption: it takes no records and does not launch before the context returns to the die (R284, R384) -/
  saved : Bool
  deriving DecidableEq, Repr

/-- A plane of weights (R309): the tile, its scales as read, its format and its valid bit. -/
structure Plane where
  valid : Bool
  /-- the 16 control bits of the block the tile was loaded under (R311) -/
  ctl : BitVec 16
  tile : List Byte
  scales : List Byte
  sups : List Word
  deriving DecidableEq, Repr

/-- What an MCC thread's engine work does: MXWL, MXST or MXRD. -/
inductive MxKind where
  | load | stream | drain
  deriving DecidableEq, Repr

/-- An MXWL, MXST or MXRD in progress, with its operands as issued (R322, R325, R326). back: what it popped, by the selector of the queue register, to be
returned where it does not complete. -/
structure MxJob where
  place : Place
  kind : MxKind
  acc : Word
  va : DWord
  queue : Bool
  ctl : Word
  fb : BitVec 256
  back : List (Word × Word)
  deriving DecidableEq, Repr

/-- A slot map tag (R309, R317). -/
structure SlotTag where
  asid : Nat
  slot : Nat
  deriving DecidableEq, Repr

/-- A posted matrix request (R330). -/
structure Resv where
  asid : Nat
  place : Word
  serial : Word
  prio : Nat
  payload : List Word
  order : Nat
  tag : Word
  deriving DecidableEq, Repr

/-- How a command stands (R231, R372, R381). -/
inductive CmdState where
  | running
  | parked (c : Cause)
  | frozen (c : Cause)
  /-- all blocks done or refused: the token with this code is still to be written -/
  | done (code : Nat)
  deriving DecidableEq, Repr

/-- A collective's contribution: rank, resolved source, and the member as a master (R237). -/
structure Contrib where
  rank : Nat
  base : Nat
  die : Nat
  quad : Nat
  issuer : Place
  sup : Bool
  cclass : Nat
  deriving DecidableEq, Repr

/-- An asynchronous command in flight (R228, R229). img is its record as read before its first block, none until then, and tdesc an ATEN's
descriptor; src and dst are the resolved addresses, with the halves that handle references bind them to (R236). -/
structure Cmd where
  id : Nat
  die : Nat
  quad : Nat
  issuer : Place
  serial : Word
  sup : Bool
  asid : Nat
  cclass : Nat
  grid : Option Nat
  token : Fld
  lanes : LaneMask
  scope : Nat
  op : Nat
  recVa : DWord
  state : CmdState
  img : Option Nat
  tdesc : Nat
  next : Nat
  src : Nat
  dst : Nat
  srcHalf : Option (Nat × Nat)
  dstHalf : Option (Nat × Nat)
  contribs : List Contrib
  entry : Option Nat
  deriving DecidableEq, Repr

/-- A candidate child of BOXT (R353). -/
structure Cand where
  va : DWord
  leaf : Bool
  inst : Bool
  count : Nat
  tn : Word
  deriving DecidableEq, Repr

/-- A pending hit of TRIT (R355). -/
structure Hit where
  t : Word
  prim : Word
  u : Word
  v : Word
  deriving DecidableEq, Repr

/-- How a ray stands in its batch (R346, R370 to R373). -/
inductive RayState where
  | waiting
  | running
  /-- the unit's own access to the record is held with this fault (R372) -/
  | held (c : Cause)
  /-- DONE, ANYH or a stop whose record is still to be written, with the status to write -/
  | closing (status : Nat)
  | done
  /-- written with status 3 (R373) -/
  | stopped
  | refused
  | faulted
  | eccEnded
  deriving DecidableEq, Repr

/-- A layout entry that a run has read (R339, R340). -/
structure LayoutRead where
  id : Nat
  entry : BitVec 256
  deriving DecidableEq, Repr

/-- A ray or raster program in flight (R335, R345). img is the 256-byte record; pool holds its stack entries, oldest first. -/
structure Ray where
  lane : Nat
  recVa : DWord
  state : RayState
  img : BitVec 2048
  pool : List DWord
  code : List Word
  kind : Nat
  layouts : List LayoutRead
  node : Option (List Byte)
  nodeVa : DWord
  /-- the layout entry that the node buffer was read under (R352, R353) -/
  nodeLay : BitVec 256
  cands : List Cand
  pend : Option Hit
  sinceBoundary : Nat
  /-- 0 not stalled; 1 for a pool entry (R365), 2 for the order of EMITs (R363), 3 for a bin (R362) -/
  stalled : Nat
  /-- the pool entries that the ray stalled by 1 needs at once: one for a push, eight for a refill, all its inline ones for a start (R365 to R367) -/
  need : Nat
  /-- the entries that the push in progress has taken -/
  taken : Nat
  /-- the start RMW has been made -/
  armed : Bool
  /-- what a held ray goes back to when it is replayed -/
  back : RayState
  /-- it starts as TRSM does: issued so, or issued again after a save (R346, R373) -/
  resume : Bool
  deriving DecidableEq, Repr

/-- A batch of rays (R335). -/
structure Batch where
  id : Nat
  die : Nat
  quad : Nat
  issuer : Place
  serial : Word
  pc : DWord
  asid : Nat
  grid : Option Nat
  token : Fld
  lanes : LaneMask
  scope : Nat
  raster : Bool
  rays : List Ray
  cancelled : Bool
  /-- pre-emption stops every ray at its next boundary (R373) -/
  stopping : Bool
  cclass : Nat
  entry : Option Nat
  deriving DecidableEq, Repr

/-- A message or fault packet: the words of an item, its target, and whether its sender's core still holds it (R249, R251, R260). -/
structure Item where
  die : Nat
  pkg : Nat
  core : Nat
  unit : Nat
  serial : Word
  asid : Nat
  words : List Word
  deriving DecidableEq, Repr

/-- A comparator (R416). -/
structure Comparator where
  pcLo : Word
  pcHi : Word
  ctl : Word
  imm : Word
  deriving DecidableEq, Repr

/-- A core (R10, R171, R403, R410, R415, R416, R419, R388, R256, R52). -/
structure Core where
  owner : Option Nat
  split : Nat
  lsUsed : Bool
  l1 : List Line
  acqs : Nat
  chans : List Chan
  tasks : List Task
  inbuf : List Item
  outbuf : List Item
  gated : Bool
  /-- the device time at which a gated core began to power up (R431) -/
  waking : Option DWord
  emptySince : DWord
  fpCfg : Word
  tgtLo : Word
  tgtHi : Word
  refused : Bool
  /-- the main clocks in which the core had no power (R400) -/
  cycOff : DWord
  cycHi : Word
  ctrSel : Word
  ctrOdd : Option Word
  dlySel : Word
  stop : Bool
  stopped : Bool
  smpCfg : Word
  smpNext : Nat
  smpCount : Nat
  bps : List Comparator
  dwSel : DWord
  dwErr : Bool
  /-- the thread that each swarm core serves next (R22) -/
  rr : SMap Nat
  /-- the 32-lane units (0 to 3) and swarm cores (4 up) that have issued in this clock (R280) -/
  issued : List Nat
  /-- those that have tried to issue in this clock and found every candidate waiting (R21, R22) -/
  tried : List Nat
  /-- of the lower core of a pair: its uniform unit has executed in this clock, and the gangs that wait for it in the order of their issues (R281) -/
  uniUsed : Bool
  uniQ : List UWait
  deriving DecidableEq, Repr

/-- A quad's shared engines and queues (R10, R169, R244, R248, R396). -/
structure Quad where
  vaultOwner : Word
  chanOwner : Word
  mboxOvf : BitVec 8
  blndLo : Word
  blndHi : Word
  blndCap : Word
  chans : List Chan
  mboxes : List Chan
  launders : List Launder
  bins : List Bin
  slots : List (Option SlotTag)
  active : Plane
  shadow : Plane
  /-- what the matrix engine does for MCC threads, and the thread whose MXSW waits for a stream's row boundary (R322 to R326) -/
  jobs : List MxJob
  swapReq : Option Place
  resv : List (Option Resv)
  posts : Nat
  resvWait : List Place
  tasks : List Task
  /-- tickets of lanes that have gone, whose release the blender still owes, with the ASID (R394) -/
  owed : List (Nat × Word)
  deriving DecidableEq, Repr

/-- A waiter record (R259), keyed by location. -/
structure Waiter where
  idx : Nat
  key : Nat
  va : DWord
  asid : Nat
  bwait : Bool
  place : Place
  serial : Word
  lane : Nat
  saved : Bool
  /-- released while its unit is saved: no longer linked; the value that the lane returns when restored (R216) -/
  res : Option Word
  deriving DecidableEq, Repr

/-- A context header and Flask header as the dispatcher last read them (R264, R377). -/
structure CtxHdr where
  slot : Nat
  asid : Nat
  state : Nat
  slice : Nat
  flask : DWord
  bintab : DWord
  nbin : Nat
  nmig : Nat
  mig : DWord
  ucap : Nat
  ccap : Nat
  units : DWord
  cmds : DWord
  quads : DWord
  slots : DWord
  cores : DWord
  dies : BitVec 8
  valid : Bool
  /-- the context's Flask has not been searched yet for saved units and tasks of this die (R386) -/
  fresh : Bool
  deriving DecidableEq, Repr

/-- A launch record (R269). -/
structure LRec where
  entry : DWord
  karg : DWord
  dep : DWord
  done : DWord
  cond : DWord
  footprint : DWord
  waves : Nat
  kstride : Nat
  asid : Nat
  regs : Nat
  lds : Nat
  cclass : Nat
  prio : Nat
  kind : Nat
  deriving DecidableEq, Repr

/-- A record at the head of a launch queue that waits for its dependence (R271, R272). -/
structure Head where
  slot : Nat
  prio : Nat
  recVa : DWord
  rec_ : LRec
  asid : Nat
  ready : Bool
  since : Nat
  /-- its reads met a fault and wait for a doorbell (R270) -/
  held : Bool
  deriving DecidableEq, Repr

/-- A unit that waits to be placed again (R153, R274, R279, R286). -/
structure Saved where
  asid : Nat
  slot : Nat
  recIdx : Nat
  place : Place
  serial : Word
  engine : Engine
  kind : Nat
  prio : Nat
  regs : Nat
  lds : Nat
  /-- FORK: still waits for this counter (R271) -/
  fork : Option DWord
  /-- notifications of that counter that were already queued at the FORK: they do not resume the unit (R153) -/
  stale : Nat
  /-- FORK suspended it (R274, R279) -/
  forked : Bool
  /-- it has been captured: it is restored after its context's header is read again (R385, R386) -/
  captured : Bool
  grid : Option Nat
  since : Nat
  /-- what the device keeps beside the record, where R380 and R381 have no field for it (log entry 15) -/
  unit : Option Unit
  cmds : List Cmd
  batches : List Batch
  /-- tokens written to its record, whose first read is still to come (R193) -/
  tokens : List TokenDue
  deriving DecidableEq, Repr

/-- A slice timer of a context on a die (R283). -/
structure SliceTimer where
  slot : Nat
  started : DWord
  deriving DecidableEq, Repr

/-- A monitor (R406): its words 0 to 23, sparse. -/
abbrev Monitor := SMap Word

/-- A supervisor core (R241, R427). -/
structure SupCore where
  inbox : Inbox
  inbuf : List Item
  outbuf : List Item
  tasks : List Task
  waiters : List QWait
  deriving DecidableEq, Repr

/-- A die's dispatcher (R262 to R283). -/
structure Dispatcher where
  hdrs : List CtxHdr
  heads : List Head
  saved : List Saved
  slices : List SliceTimer
  /-- queues due for examination, as slot and prio (R266) -/
  bells : List (Nat × Nat)
  /-- counters that a decrement has taken from 1 to 0, as ASID and VA (R271) -/
  notes : List (Nat × DWord)
  /-- the context slot that a pre-emption in progress saves (R283, R284): busy of ctx_pre -/
  pre : Option Nat
  /-- contexts whose slice expired: they stand behind the others for their next placement (R283) -/
  behind : List Nat
  /-- a unit has been placed in this clock (R274) -/
  placed : Bool
  deriving DecidableEq, Repr

/-- Device registers of a die that hold what was written (R187, R183, R253, R259, R262, R268, R283, R287, R336, R391, R405, R411, R427). -/
structure DieRegs where
  l2Quota : Word
  l2Order : Word
  rdcCfg : Word
  gen : Nat
  msgDrop : Word
  waiterCfg : Word
  ctxTabLo : Word
  ctxTabHi : Word
  ctxCount : Word
  lqErr : Word
  ctxPreSlot : Nat
  asidTab : Word
  travTab : Word
  portFrz : Word
  seCorr : Word
  seUnc : Word
  monSel : Word
  trcLo : Word
  trcHi : Word
  trcCfg : Word
  trcHead : Word
  trcLost : Word
  supAsid : Word
  deriving DecidableEq, Repr

/-- A die. -/
structure Die where
  time : DWord
  tfrac : Nat
  /-- the correction still to be slewed, in ns, and the ns elapsed towards its next step (R402, R435) -/
  slew : Int
  slewAcc : Nat
  regs : DieRegs
  l2 : List Line
  rdc : List Line
  tlbs : List (List TlbEntry)
  walks : List WalkEntry
  wts : List WriteThrough
  /-- the addresses of write-throughs that found no home which answers, still to be reported (R170) -/
  wtErrs : List Nat
  fills : List Fill
  waiters : List Waiter
  /-- the lanes that wait for a free waiter record, in arrival order (R216) -/
  waitStalls : List (Place × Nat)
  riser : Option (Place × Nat)
  riserQ : List (Place × Nat)
  faultBuf : List Item
  /-- packets that masters keep while the fault buffer is full, in the order in which they were raised (R261) -/
  faultKept : List Item
  /-- trace records whose write waits, with their kinds, in the order of their events (R298, R412) -/
  trcWait : List (Nat × Nat)
  /-- register writes whose effect needs a Flask or a table and waits for a flip, as core, register number and value (R298) -/
  regWaits : List (Nat × Nat × Word)
  disp : Dispatcher
  mons : SMap Monitor
  monCount : SMap Nat
  sups : List SupCore
  deriving DecidableEq, Repr

/-- A grid (R19, R269, R273). -/
structure Grid where
  id : Nat
  die : Nat
  slot : Nat
  qprio : Nat
  asid : Nat
  recVa : DWord
  entry : DWord
  karg : DWord
  kstride : Nat
  done : DWord
  footprint : DWord
  waves : Nat
  next : Nat
  regs : Nat
  lds : Nat
  cclass : Nat
  prio : Nat
  kind : Nat
  since : Nat
  /-- the dies on which the grid ran (R19), and the one on which a wave of it exited last (R468) -/
  ran : List Nat
  last : Nat
  /-- the cores, as die and number, that have copied its footprint (R275) -/
  fpDone : List (Nat × Nat)
  /-- the placement or the decrement met this fault and waits (R270, R468) -/
  held : Option Cause
  deriving DecidableEq, Repr

/-- A flip of a page to device bias that collects back-invalidate responses (R299). -/
structure Flip where
  page : Nat
  left : List Nat
  place : Place
  linkFail : Bool
  deriving DecidableEq, Repr

/-- A unit that resumed elsewhere keeps its old placement for messages (R252). -/
structure Forward where
  asid : Nat
  place : Place
  serial : Word
  deriving DecidableEq, Repr

/-- An answer that the package gave to the outside (R295, R424, R426, R433). -/
inductive Reply where
  | data (bytes : List Byte)
  | poison
  | done
  /-- an Olun request that met host bias: its requester parks in its own package (R298) -/
  | parked
  | report (bytes : List Byte)
  | attest (bytes : List Byte)
  | reg (v : DWord)
  | message (pkg : Nat) (words : List Word)
  | bisnp (pa : Nat)
  | silent
  deriving DecidableEq, Repr

/-- The self-test report (R424). -/
structure Report where
  state : BitVec 8
  step : BitVec 8
  die : BitVec 8
  code : BitVec 8
  unit : BitVec 16
  detail : DWord
  fwhash : BitVec 256
  deriving DecidableEq, Repr

/-- Bring-up, hold or running (R422, R423). -/
inductive Phase where
  | bringUp | hold | running
  deriving DecidableEq, Repr

/-- A key slot (R425). -/
structure KeySlot where
  hash : BitVec 256
  enrolled : Bool
  revoked : Bool
  deriving DecidableEq, Repr

/-- What waits for a flipping page, or a request that waits for its frozen port: a host (none) or Olun port request, or the access of a gang, a command,
a ray or an MCC thread's matrix work (R295, R298, R391). -/
inductive PageWait where
  | req (src : Option Nat) (r : MemReq)
  | dev (p : Place) (gang : Nat)
  | cmd (id : Nat)
  | ray (batch lane : Nat)
  | job (p : Place)
  deriving DecidableEq, Repr

/-- Bring-up, identity, power and links of the package (R422 to R436). -/
structure Pkg where
  /-- main clocks since reset -/
  clocks : DWord
  phase : Phase
  /-- the bring-up in progress (R422) -/
  booting : Option BringUp
  report : Report
  keys : List KeySlot
  minVersion : Word
  imgSlot : Nat
  imgVersion : Word
  pkgNo : BitVec 9
  clk : Nat
  draw : BitVec 12
  calm : Nat
  pwrLim : Word
  cxlUp : Bool
  portsDown : List Nat
  pod : List Nat
  silent : List Nat
  hostTop : Nat
  /-- in arrival order (R295, R299, R391) -/
  heldReqs : List PageWait
  /-- messages that the network holds, oldest first (R252) -/
  net : List Item
  deriving DecidableEq, Repr

/-- What the step runs (the model's own): nothing, a unit's gang, or a ray of a batch. -/
inductive Agent where
  | none
  | unit (p : Place) (gang : Nat)
  | ray (batch lane : Nat)
  deriving DecidableEq, Repr

/-- One entry of the schedule (the model's own): a clock passes; the unit of a core issues by R280; a thread issues; a swarm core
serves its next thread (R22); a named gang issues; a ray runs one micro-instruction; an event happens. -/
inductive Action where
  | tick
  | lane32 (die core unit : Nat)
  | swarmCore (die core sc : Nat)
  | gang (p : Place) (gang : Nat)
  | ray (batch lane : Nat)
  | event (e : Instr)
  /-- the host reads or writes four bytes at an offset of BAR0 (R433) -/
  | bar (off : Nat) (wr : Option Word)
  /-- a CXL configuration-space read (R423) -/
  | config (off : Nat)
  /-- the sample of a core or of a level monitor that is due (R406, R415) -/
  | sample (die core : Nat)
  | level (die mon : Nat)
  deriving DecidableEq, Repr

end Sys2Proof.Machine
end

