-- ==== Sys2Proof/Machine/State.lean ====
section
/-! DEFINITION. The state of one DH4-512 package, the reasons a step stops, and the state right after reset. -/

namespace Sys2Proof.Machine

/-- What stops the machine. A fault of the DH4 (R387) is not one of these: it is a next state, its unit parked, frozen or stopped. -/
inductive Fault where
  /-- Raised by the meaning of an instruction word when cur names no such unit and gang, or of a micro-instruction when cur names no running
  ray: no agent is there to execute it. Safe: the device issues nothing then. -/
  | noAgent
  deriving DecidableEq, Repr

/-- Why an instruction has no meaning. -/
inductive Refusal where
  /-- Answered by exec for a row that has no meaning yet. Safe: nothing can be proved of it. -/
  | notModelled (mnemonic : String)
  deriving DecidableEq, Repr

/-- One DH4-512 package and what it shares with the outside (R8, R162, R241, R400). cur, agenda, freeCount and seq are the model's own. -/
structure State where
  cur : Agent
  agenda : List Action
  freeCount : Nat
  seq : Nat
  pkg : Pkg
  /-- every byte of every addressed memory, keyed by location (R162): see locOf in Ops -/
  mem : SMap Byte
  dies : List Die
  cores : SMap Core
  quads : SMap Quad
  units : List Unit
  cmds : List Cmd
  batches : List Batch
  grids : List Grid
  flips : List Flip
  /-- the next serial of each ASID (R249) -/
  serials : SMap Word
  forwards : List Forward
  /-- the answers that the outside has been given (R295, R424, R426, R433), oldest first -/
  replies : List Reply
  deriving DecidableEq, Repr

def DieRegs.reset : DieRegs :=
  { l2Quota := 0x10101010, l2Order := 0xE4, rdcCfg := 0, gen := 0, msgDrop := 0, waiterCfg := 0, ctxTabLo := 0, ctxTabHi := 0, ctxCount := 0,
    lqErr := 0, ctxPreSlot := 0, asidTab := 0, travTab := 0, portFrz := 0, seCorr := 0, seUnc := 0, monSel := 0,
    trcLo := 0, trcHi := 0, trcCfg := 0, trcHead := 0, trcLost := 0, supAsid := 0 }

def SupCore.reset : SupCore :=
  { inbox := Inbox.empty, inbuf := [], outbuf := [], tasks := [], waiters := [] }

def Die.reset : Die :=
  { time := 0, tfrac := 0, slew := 0, slewAcc := 0, regs := DieRegs.reset, l2 := [], rdc := [], tlbs := List.replicate 16 [], walks := [], wts := [], wtErrs := [], fills := [],
    waiters := [], waitStalls := [], riser := none, riserQ := [], faultBuf := [], faultKept := [], trcWait := [], regWaits := [],
    disp := { hdrs := [], heads := [], saved := [], slices := [], bells := [], notes := [], pre := none, behind := [], placed := false }, mons := [], monCount := [], sups := List.replicate 4 SupCore.reset }

def Chan.empty : Chan := { words := [], waiters := [] }

/-- A core after reset (R163, R242 and the Reset columns of its registers). -/
def Core.reset : Core :=
  { owner := none, split := 0, lsUsed := false, l1 := [], acqs := 0, chans := List.replicate 16 Chan.empty, tasks := [], inbuf := [], outbuf := [],
    gated := false, waking := none, emptySince := 0, fpCfg := 0, tgtLo := 0, tgtHi := 0, refused := false, cycOff := 0, cycHi := 0, ctrSel := 0, ctrOdd := none,
    dlySel := 0, stop := false, stopped := false, smpCfg := 0, smpNext := 0, smpCount := 0,
    bps := List.replicate 8 { pcLo := 0, pcHi := 0, ctl := 0, imm := 0 }, dwSel := 0, dwErr := false, rr := [], issued := [], tried := [], uniUsed := false, uniQ := [] }

def Bin.reset : Bin :=
  { state := .free, entry := 0, asid := 0, recs := [], elapsed := 0, tindex := 0, timer := 0, mode := 0, regs := 0, lds := 0, cclass := 0, prio := 0,
    ks := [], since := 0, saved := false }

def Plane.invalid : Plane := { valid := false, ctl := 0, tile := [], scales := [], sups := [] }

/-- The number of accumulator slots of a quad (R308). -/
def slotCount (quad : Nat) : Nat := if quad < 40 then 64 else 16

/-- A quad after reset (R163, R242, R309 and the Reset columns of its registers). -/
def Quad.reset (quad : Nat) : Quad :=
  { vaultOwner := 0, chanOwner := 0, mboxOvf := 0, blndLo := 0, blndHi := 0, blndCap := 0, chans := List.replicate 16 Chan.empty,
    mboxes := List.replicate 8 Chan.empty, launders := List.replicate 16 { cfg := 0, entries := [], waiters := [] },
    bins := List.replicate 32 Bin.reset, slots := List.replicate (slotCount quad) none, active := Plane.invalid, shadow := Plane.invalid,
    jobs := [], swapReq := none, resv := List.replicate 64 none, posts := 0, resvWait := [], tasks := [], owed := [] }

/-- The package before bring-up has begun (R422, R424, R430; log entries 3 to 6). -/
def Pkg.reset : Pkg :=
  { clocks := 0, phase := .bringUp, booting := none, report := { state := 2, step := 0, die := 0xFF, code := 0, unit := 0xFFFF, detail := 0, fwhash := 0 },
    keys := { hash := 0, enrolled := true, revoked := false } :: List.replicate 3 { hash := 0, enrolled := false, revoked := false },
    minVersion := 0, imgSlot := 0, imgVersion := 0, pkgNo := 0, clk := 1050, draw := 0, calm := 0, pwrLim := 2600, cxlUp := true, portsDown := [],
    pod := [], silent := [], hostTop := 2 ^ 52, heldReqs := [], net := [] }

/-- The machine right after reset: no unit exists (R54), every cache line is invalid and every memory reads 0 (R163), every queue is empty (R242). -/
def State.reset : State :=
  { cur := .none, agenda := [], freeCount := 0, seq := 0, pkg := Pkg.reset, mem := [], dies := List.replicate 4 Die.reset, cores := [], quads := [],
    units := [], cmds := [], batches := [], grids := [], flips := [], serials := [], forwards := [], replies := [] }

end Sys2Proof.Machine
end

