-- ==== Sys2Proof/Machine/Base.lean ====
section
/-! DEFINITION. Accessors of the state's parts, codes, and raw memory by location. -/

namespace Sys2Proof.Machine

/-- Why an access or an operand cannot be had now: a fault with its address (R6), or a stall (R282). -/
inductive Err where
  | flt (c : Cause) (va : DWord)
  | wait (r : Stall)
  deriving DecidableEq, Repr

/-- The cause codes of R387. -/
def Cause.code : Cause → Nat
  | .illegal => 0x01 | .operand => 0x02 | .priv => 0x03 | .align => 0x04 | .page => 0x05 | .prot => 0x06 | .bias => 0x07 | .migr => 0x08 | .loop => 0x09
  | .divstack => 0x0A | .trap => 0x0B | .bkpt => 0x0C | .acc => 0x0D | .txcap => 0x0E | .queue => 0x0F | .trav => 0x10 | .ecc => 0x11 | .window => 0x12

/-- The response of R387 in the coding of R260: 0 park, 1 freeze, 2 stop. -/
def Cause.response : Cause → Nat
  | .page | .bias => 0
  | .priv | .prot | .window => 1
  | _ => 2

def Cause.runState (c : Cause) : RunState :=
  if c.response = 0 then .parked else if c.response = 1 then .frozen else .stopped

/-- The ranks of R282. -/
def Stall.rank : Stall → Nat
  | .none => 0 | .parked => 1 | .halted => 2 | .frozen => 3 | .suspended => 4 | .barrier => 5 | .queue => 6 | .token => 7 | .load => 8 | .register => 9
  | .structural => 10 | .notSelected => 11

def coreKey (die core : Nat) : Nat := die * 240 + core
def quadKey (die quad : Nat) : Nat := die * 60 + quad

def State.die (s : State) (d : Nat) : Die := s.dies.getD d Die.reset
def State.modDie (s : State) (d : Nat) (f : Die → Die) : State := { s with dies := modAt s.dies d f }
def State.modRegs (s : State) (d : Nat) (f : DieRegs → DieRegs) : State := s.modDie d (fun x => { x with regs := f x.regs })
def State.modDisp (s : State) (d : Nat) (f : Dispatcher → Dispatcher) : State := s.modDie d (fun x => { x with disp := f x.disp })
def State.core (s : State) (d c : Nat) : Core := smGet Core.reset s.cores (coreKey d c)
def State.modCore (s : State) (d c : Nat) (f : Core → Core) : State := { s with cores := smPut s.cores (coreKey d c) (f (s.core d c)) }
def State.quad (s : State) (d q : Nat) : Quad := smGet (Quad.reset q) s.quads (quadKey d q)
def State.modQuad (s : State) (d q : Nat) (f : Quad → Quad) : State := { s with quads := smPut s.quads (quadKey d q) (f (s.quad d q)) }
def State.sup (s : State) (d i : Nat) : SupCore := (s.die d).sups.getD i SupCore.reset
def State.modSup (s : State) (d i : Nat) (f : SupCore → SupCore) : State := s.modDie d (fun x => { x with sups := modAt x.sups i f })

/-- The unit at a placement. -/
def State.unit? (s : State) (p : Place) : Option Unit := s.units.find? (fun u => decide (u.place = p))

/-- Change the unit at a placement. -/
def State.modUnit (s : State) (p : Place) (f : Unit → Unit) : State :=
  { s with units := s.units.map (fun u => if u.place = p then f u else u) }

def State.dropUnit (s : State) (p : Place) : State := { s with units := s.units.filter (fun u => decide (u.place ≠ p)) }

/-- A fresh sequence number: ages and identities (log entry 1). -/
def State.tickSeq (s : State) : State := { s with seq := s.seq + 1 }

/-- A value that the spec leaves open (log entry 2): the free value of the counter, which the step advances. -/
def State.free (s : State) : State × DWord := ({ s with freeCount := s.freeCount + 1 }, Config.freeDWord s.freeCount)

def Unit.engine (u : Unit) : Engine := u.ident.engine
def Unit.isWave (u : Unit) : Bool := decide (u.ident.engine = .wave)
/-- A supervisor thread is the only unit in supervisor mode (R427). -/
def Unit.isSup (u : Unit) : Bool := decide (u.ident.engine = .sup)
def Unit.modRegs (u : Unit) (f : Regs → Regs) : Unit := { u with regs := f u.regs }
def Unit.modCtl (u : Unit) (f : Control → Control) : Unit := { u with ctl := f u.ctl }
def Unit.modBook (u : Unit) (f : Book → Book) : Unit := { u with book := f u.book }
def Unit.modIdent (u : Unit) (f : Ident → Ident) : Unit := { u with ident := f u.ident }

/-- The quad of a die-wide core (R9). For supervisor core s, quad s: the one whose engines its commands use (R427). -/
def quadOf (core : Nat) : Nat := if core < 240 then core / 4 else core - 240

/-- The ASID that a unit's accesses use: a supervisor thread's comes from sup_asid (R427). -/
def asidOf (s : State) (u : Unit) : Nat := if u.isSup then bits (s.die u.place.die).regs.supAsid 15 0 else u.ident.asid

/-- The serial that a unit shows: a supervisor thread's is 0 (R249). -/
def senderSerial (u : Unit) : Word := if u.isSup then 0 else u.ident.serial

/-- What the matrix engine does for the thread at a place. -/
def State.jobOf (s : State) (p : Place) : Option MxJob := (s.quad p.die (quadOf p.core)).jobs.find? (fun j => decide (j.place = p))

/-- A core's clock counter (R400). -/
def State.coreClocks (s : State) (d c : Nat) : DWord := s.pkg.clocks - (s.core d c).cycOff

/-- Quad kind: 0 B, 1 N (R9, R269). -/
def quadKind (quad : Nat) : Nat := if quad < 40 then 0 else 1

/-- The unit's code in a placement word (R52, R249): a supervisor thread carries its core's code and core 0. -/
def placeWord (p : Place) (pkg : Nat) : Word :=
  if p.core < 240 then BitVec.ofNat 32 (pkg * 2 ^ 18 + p.die * 2 ^ 16 + p.core * 2 ^ 8 + p.unit)
  else BitVec.ofNat 32 (pkg * 2 ^ 18 + p.die * 2 ^ 16 + (0xFC + (p.core - 240)))

/-- The special `wave` (R34, R427). -/
def placeWave (p : Place) : Nat :=
  if p.core < 240 then
    (if p.unit < 0x40 then p.unit else if p.unit < 0xC0 then 0x100 + (p.unit - 0x40) else 0x180 + (p.unit - 0xC0))
  else 0x1C0 + p.unit

/-- The mode register's fields (R39). -/
def modeType (m : BitVec 16) : Nat := bits m 3 0
def modeRound (m : BitVec 16) : Nat := bits m 5 4
def modeSat (m : BitVec 16) : Bool := bit m 6
def modeFtz (m : BitVec 16) : Bool := bit m 7
def modeGuard (m : BitVec 16) : Nat := bits m 10 8
def modeGneg (m : BitVec 16) : Bool := bit m 11
def modeGen (m : BitVec 16) : Bool := bit m 12
def modeScope (m : BitVec 16) : Nat := bits m 15 13

def fmodeOf (m : BitVec 16) : FMode := { rm := Rm.ofCode (modeRound m), sat := modeSat m, ftz := modeFtz m }

/-! ## Memory by location (R162) -/

/-- Physical addresses are locations 0 to 2^53 - 1 (R170); the on-die memories lie above them. -/
def locLs (die core off : Nat) : Nat := 2 ^ 56 + coreKey die core * 2 ^ 20 + off
def locVault (die quad off : Nat) : Nat := 2 ^ 57 + quadKey die quad * 2 ^ 24 + off
def locTile (die quad off : Nat) : Nat := 2 ^ 58 + quadKey die quad * 2 ^ 20 + off
def locAcc (die quad off : Nat) : Nat := 2 ^ 59 + quadKey die quad * 2 ^ 22 + off

/-- The canonical form of memory: locations strictly rising, and no byte listed that reads as an unlisted one does. -/
abbrev Memory.wf (m : SMap Byte) : Bool := smWf 0 m

/-- The byte at a location; an unlisted one reads 0 (R163). -/
def State.byte (s : State) (loc : Nat) : Byte := smGet 0 s.mem loc

/-- The little-endian number of the n bytes at a location (R2). -/
def memRead (m : SMap Byte) (base n : Nat) : Nat :=
  match m with
  | [] => 0
  | (a, b) :: r => if a < base then memRead r base n else if a < base + n then b.toNat * 256 ^ (a - base) + memRead r base n else 0

def State.rd (s : State) (loc n : Nat) : Nat := memRead s.mem loc n

/-- Write bytes from a location up. -/
def memWrite (m : SMap Byte) (loc : Nat) : List Byte → SMap Byte
  | [] => m
  | b :: bs => memWrite (smSet 0 m loc b) (loc + 1) bs

def State.wrBytes (s : State) (loc : Nat) (bs : List Byte) : State := { s with mem := memWrite s.mem loc bs }
def State.wr (s : State) (loc n v : Nat) : State := s.wrBytes loc (bytesOf n v)

/-- Write the bytes whose mask bit is set. -/
def memWriteMask (m : SMap Byte) (loc : Nat) (mask : Nat) : Nat → Nat → SMap Byte
  | 0, _ => m
  | n + 1, v => memWriteMask (if mask % 2 = 1 then smSet 0 m loc (BitVec.ofNat 8 v) else m) (loc + 1) (mask / 2) n (v / 256)

/-- Forget every byte of a range: it reads 0 (R171). -/
def State.zeroRange (s : State) (base n : Nat) : State :=
  { s with mem := s.mem.filter (fun c => decide (c.1 < base) || decide (base + n ≤ c.1)) }

/-- Fields of a physical address (R170). -/
def paHost (pa : Nat) : Bool := pa.testBit 52
def paPkg (pa : Nat) : Nat := nbits pa 51 43
def paDie (pa : Nat) : Nat := nbits pa 42 41
def paOff (pa : Nat) : Nat := nbits pa 40 0
def ownPkg (s : State) : Nat := s.pkg.pkgNo.toNat
def paOf (s : State) (die off : Nat) : Nat := ownPkg s * 2 ^ 43 + die * 2 ^ 41 + off

/-- Device memory of the own package that exists (R170). -/
def ownDevice (s : State) (pa : Nat) : Bool := !paHost pa && decide (paPkg pa = ownPkg s) && decide (paOff pa < 0x2000000000)

/-- The Olun port that a request to another package goes through (R434; log entry 115). -/
def olunPort (pa : Nat) : Nat := Config.olunPort pa % 16

/-- An address that answers: own device memory, a package of the pod that answers through a port that is up, or host memory that is there (R170, R434). -/
def paAnswers (s : State) (pa : Nat) : Bool :=
  if paHost pa then s.pkg.cxlUp && decide (nbits pa 51 0 < s.pkg.hostTop)
  else if paPkg pa = ownPkg s then decide (paOff pa < 0x2000000000)
  else !s.pkg.portsDown.contains (olunPort pa) && s.pkg.pod.contains (paPkg pa) && !s.pkg.silent.contains (paPkg pa) && decide (paPkg pa < 511) && decide (paOff pa < 0x2000000000)

/-- The carve-out of the remote-data cache (R182). -/
def inRdc (s : State) (pa : Nat) : Bool :=
  let gib := min (bits (s.die (paDie pa)).regs.rdcCfg 4 0) 16
  ownDevice s pa && decide (0x2000000000 - gib * 2 ^ 30 ≤ paOff pa)

/-- The bias table region (R296). -/
def inBiasTable (pa : Nat) : Bool := decide (paOff pa < 0x800000)

/-- A region of another package that answers its requests with poison: its bias table and its carve-out (R170). -/
def poisoned (s : State) (pa : Nat) : Bool :=
  !paHost pa && decide (paPkg pa ≠ ownPkg s) &&
    (inBiasTable pa || decide (0x2000000000 - min (Config.otherCarve (paPkg pa) (paDie pa)) 16 * 2 ^ 30 ≤ paOff pa))

/-- A request to this address completes with its bytes, not as an uncorrectable error or with poison (R170). -/
def paServes (s : State) (pa : Nat) : Bool := paAnswers s pa && !poisoned s pa

/-- The bias code of a page of own device memory: 0 device, 1 host, else flipping (R296). -/
def biasOf (s : State) (pa : Nat) : Nat :=
  let p := paOff pa / 4096
  (s.rd (paOf s (paDie pa) (p / 4)) 1 / 4 ^ (p % 4)) % 4

def setBias (s : State) (pa code : Nat) : State :=
  let p := paOff pa / 4096
  let a := paOf s (paDie pa) (p / 4)
  let old := s.rd a 1
  let sh := 4 ^ (p % 4)
  s.wr a 1 (old - ((old / sh) % 4) * sh + code * sh)

/-- An access of the device to a page that a flip is still collecting answers for would wait in the page's queue (R298): what needs the Flask or a table
waits while any flip is in progress (log entry 108). -/
def deviceWaits (s : State) : Bool := s.flips.any (fun f => !f.left.isEmpty)

/-- A register write that waits for a flip (R298). -/
def waitReg (s : State) (die core n : Nat) (w : Word) : State := s.modDie die (fun d => { d with regWaits := d.regWaits ++ [(core, n, w)] })

end Sys2Proof.Machine
end

