-- ==== Sys2Proof/Machine/Cache.lean ====
section
/-! DEFINITION. Translation, bias, and the virtually tagged caches: registration within a die, write-through across dies, generations
(R172 to R187, R287 to R298). -/

namespace Sys2Proof.Machine

/-! ## Line contents -/

def lineGet (b : BitVec 1024) (off n : Nat) : Nat := (b.toNat >>> (8 * off)) % 256 ^ n

def linePut (b : BitVec 1024) (off n v : Nat) : BitVec 1024 := putBits b (8 * (off + n) - 1) (8 * off) v

/-- The byte mask of n bytes from off. -/
def spanMask (off n : Nat) : BitVec 128 := BitVec.ofNat 128 ((2 ^ n - 1) * 2 ^ off)

def allBytes : BitVec 128 := BitVec.allOnes 128

def expandMask : Nat → Nat → Nat
  | 0, _ => 0
  | n + 1, m => if m = 0 then 0 else (if m % 2 = 1 then 255 else 0) + 256 * expandMask n (m / 2)

/-- old with the bytes of mask m taken from new (R175). -/
def lineMerge (old new : BitVec 1024) (m : BitVec 128) : BitVec 1024 :=
  if m = 0 then old
  else if m = allBytes then new
  else
    let x := BitVec.ofNat 1024 (expandMask 128 m.toNat)
    (old &&& ~~~x) ||| (new &&& x)

/-- The 128 bytes that memory holds at a line. -/
def State.memLine (s : State) (loc : Nat) : BitVec 1024 := BitVec.ofNat 1024 (s.rd loc 128)

/-- Write a line's masked bytes to memory. -/
def State.putLine (s : State) (loc : Nat) (m : BitVec 128) (b : BitVec 1024) : State :=
  if m = 0 then s else { s with mem := memWriteMask s.mem loc m.toNat 128 b.toNat }

/-! ## Finding lines -/

/-- A line matches a tag in an ASID, or in any when it was filled from a global page (R172). -/
def Line.hits (l : Line) (tag asid gen : Nat) : Bool :=
  decide (l.tag = tag) && (match l.asid with | none => true | some a => decide (a = asid)) && (!l.remote || decide (l.gen = gen))

/-- The lines with the first that matches replaced by f of it, or removed; and whether one matched. -/
def modLine (p : Line → Bool) (f : Line → Option Line) : List Line → List Line
  | [] => []
  | l :: ls => if p l then (match f l with | some l' => l' :: ls | none => ls) else l :: modLine p f ls

def sameLine (a b : Line) : Bool := decide (a.tag = b.tag) && decide (a.asid = b.asid)

/-- The registrant's L1 copy of an L2 line (R175). -/
def ownerCopy (s : State) (die : Nat) (l : Line) : Option Line :=
  match l.owner with
  | none => none
  | some c => if 240 ≤ c then none else (s.core die c).l1.find? (fun x => sameLine x l)

/-- The dirty bytes that the registrant's L1 holds of an L2 line (R176): none of a copy in which an uncorrectable error stands, which is never written
back (R429). -/
def ownerDirty (s : State) (die : Nat) (l : Line) : BitVec 128 × BitVec 1024 :=
  match ownerCopy s die l with
  | some x => if x.bad then (0, 0) else (x.dirty, x.bytes)
  | none => (0, 0)

/-- An uncorrectable error stands in what a slice would answer of a line: in its copy, or in its registrant's (R429). -/
def lineBad (s : State) (die : Nat) (l : Line) : Bool := l.bad || (ownerCopy s die l).elim false (·.bad)

/-- The same of a physical line of own device memory, through the directory. -/
def badAt (s : State) (pa : Nat) : Bool :=
  (s.die (paDie pa)).l2.any (fun l => decide (l.pa / 128 = pa / 128) && !l.remote && lineBad s (paDie pa) l)

/-- The newest bytes of an L2 line: its own with the registrant's dirty bytes merged over them (R176). An execution point of R184 writes its bytes
into the slice's copy before anything else reads it, so only a core holds dirty bytes of its own. -/
def newestOf (s : State) (die : Nat) (l : Line) : BitVec 1024 :=
  let (m, b) := ownerDirty s die l
  lineMerge l.bytes b m

/-- The newest bytes of a physical line of own device memory, through the directory (R294, R295). -/
def freshLine (s : State) (pa : Nat) : BitVec 1024 :=
  let die := paDie pa
  ((s.die die).l2.filter (fun l => decide (l.pa = pa) && !l.remote && !l.bad)).foldr
    (fun l acc => let (m, b) := ownerDirty s die l; lineMerge (lineMerge acc l.bytes l.dirty) b m) (s.memLine pa)

/-- A device read by physical address at the line's home, within one line. -/
def freshRead (s : State) (pa n : Nat) : Nat :=
  let base := pa - pa % 128
  if ownDevice s pa then lineGet (freshLine s base) (pa % 128) n else s.rd pa n

/-! ## Recall, write-back and invalidation -/

/-- Recall a registrant's dirty bytes of a line into the slice's copy; the line is then registered to nobody (R175). -/
def recallLine (s : State) (die : Nat) (l : Line) : State × Line :=
  match l.owner with
  | none => (s, l)
  | some c =>
    let (m, b) := ownerDirty s die l
    let l' := { l with bytes := lineMerge l.bytes b m, dirty := l.dirty ||| m, owner := none }
    let s := if 240 ≤ c then s else s.modCore die c (fun k => { k with l1 := modLine (sameLine l) (fun x => some { x with dirty := 0 }) k.l1 })
    (s.modDie die (fun d => { d with l2 := modLine (sameLine l) (fun _ => some l') d.l2 }), l')

/-- Change the L1 of every core of a die. -/
def State.modL1s (s : State) (die : Nat) (f : List Line → List Line) : State :=
  { s with cores := s.cores.map (fun (k, c) => if k / 240 = die then (k, { c with l1 := f c.l1 }) else (k, c)) }

/-- Drop the copies of a line from the L1s of a die (R294: every L2 includes its L1s). -/
def dropL1 (s : State) (die : Nat) (p : Line → Bool) : State := s.modL1s die (fun ls => ls.filter (fun x => !p x))

/-- Evict a line from a slice: recallLine, write back, drop (R177). One with an uncorrectable error is not written back (R429). -/
def evictL2 (s : State) (die : Nat) (l : Line) : State :=
  let (s, l) := recallLine s die l
  let s := if l.remote || l.bad then s else s.putLine l.pa l.dirty l.bytes
  let s := dropL1 s die (sameLine l)
  s.modDie die (fun d => { d with l2 := d.l2.filter (fun x => !sameLine x l) })

def evictAll (s : State) (die : Nat) : List Line → State
  | [] => s
  | l :: ls => evictAll (evictL2 s die l) die ls

/-- Write back and remove every line of L1, L2 and RDC of a die that satisfies p. -/
def purge (s : State) (die : Nat) (p : Line → Bool) : State :=
  let s := evictAll s die ((s.die die).l2.filter p)
  let s := dropL1 s die p
  s.modDie die (fun d => { d with rdc := d.rdc.filter (fun x => !p x) })

/-- Recall, write back and invalidate every copy of a physical line in the package (R295, R299). -/
def purgePa (s : State) (pa : Nat) : State :=
  (List.range 4).foldl (fun s d => purge s d (fun l => decide (l.pa = pa))) s

/-- The sweep of the generation (R181): every remote-homed copy of a die. -/
def sweepRemote (s : State) (die : Nat) : State := purge s die (fun l => l.remote)

/-- The generation of a die rises by 1; at 255 a sweep runs first (R181). -/
def bumpGen (s : State) (die : Nat) : State :=
  let g := (s.die die).regs.gen
  let s := if g = 255 then sweepRemote s die else s
  s.modRegs die (fun r => { r with gen := if g = 255 then 0 else g + 1 })

/-! ## Translation (R287 to R293) -/

/-- What a leaf gives (R290). -/
structure Xlat where
  pa : Nat
  r : Bool
  w : Bool
  x : Bool
  user : Bool
  cclass : Nat
  glob : Bool
  size : Nat
  deriving DecidableEq, Repr

/-- A walker read at its home: host bias parks it, a flipping page makes it wait (R298). -/
def walkRead (s : State) (pa n : Nat) : Except Err Nat :=
  if biasOf s pa = 0 then (if badAt s pa then .error (.flt .ecc (BitVec.ofNat 64 pa)) else .ok (freshRead s pa n))
  else if biasOf s pa = 1 then .error (.flt .bias 0)
  else .error (.wait .load)

/-- Whether a table or page address of the walk can be used (R170, R291). -/
def walkable (s : State) (pa : Nat) : Bool := ownDevice s pa && !inRdc s pa && !inBiasTable pa

def leafOf (e : Nat) (size : Nat) : Xlat :=
  { pa := (nbits e 52 12 * 4096) / 2 ^ size * 2 ^ size, r := e.testBit 2, w := e.testBit 3, x := e.testBit 4, user := e.testBit 5,
    cclass := nbits e 8 7, glob := e.testBit 6, size := size }

/-- Whether a leaf's page is one the walker treats as present (R170). -/
def leafPresent (s : State) (pa : Nat) : Bool :=
  if paHost pa then true
  else decide (paPkg pa ≠ 511) && decide (paOff pa < 0x2000000000) && (if paPkg pa = ownPkg s then !inRdc s pa && !inBiasTable pa else true)

/-- The walk from a table of a level down (R289). -/
def walkFrom (s : State) (va : Nat) : Nat → Nat → Except Err Xlat
  | 0, _ => .error (.flt .page 0)
  | lv + 1, table =>
    if !walkable s table then .error (.flt .page 0)
    else
      let shift := 12 + 9 * lv
      match walkRead s (table + 8 * nbits va (shift + 8) shift) 8 with
      | .error e => .error e
      | .ok e =>
        if !e.testBit 0 then .error (.flt .page 0)
        else if lv = 0 then
          let x := leafOf e (if e.testBit 9 then 16 else 12)
          if leafPresent s x.pa then .ok x else .error (.flt .page 0)
        else if e.testBit 1 then
          (if lv ≥ 3 then .error (.flt .page 0)
           else let x := leafOf e shift
                if leafPresent s x.pa then .ok x else .error (.flt .page 0))
        else walkFrom s va lv (nbits e 52 12 * 4096)

/-- The offset of an ASID entry in the die's HBM (R287). -/
def asidEntryPa (s : State) (die asid : Nat) : Nat := paOf s die (nbits (s.die die).regs.asidTab.toNat 19 0 * 2 ^ 21 % 2 ^ 41) + 32 * asid

/-- A field of an ASID entry, at byte off (R288). -/
def asidField (s : State) (die asid off : Nat) : Nat := freshRead s (asidEntryPa s die asid + off) 8

/-- Walk a VA of an ASID to its leaf (R289, R291). -/
def walk (s : State) (die asid va : Nat) : Except Err Xlat :=
  match walkRead s (asidEntryPa s die asid) 8 with
  | .error e => .error e
  | .ok root => if root.testBit 0 then walkFrom s va 5 (nbits root 52 12 * 4096) else .error (.flt .page 0)

/-- The home slice of a VA (R172). -/
def homeSlice (va : Nat) : Nat :=
  nbits va 13 7 ^^^ nbits va 20 14 ^^^ nbits va 27 21 ^^^ nbits va 34 28 ^^^ nbits va 41 35 ^^^ nbits va 48 42 ^^^ nbits va 55 49 ^^^ nbits va 56 56

def TlbEntry.hits (t : TlbEntry) (va asid : Nat) : Bool :=
  decide (t.va / 2 ^ t.size = va / 2 ^ t.size) && (match t.asid with | none => true | some a => decide (a = asid))

/-- The non-leaf entries that a walk from a table passes: what enters the walk cache (R293). -/
def walkPath (s : State) (mc asid va : Nat) : Nat → Nat → List WalkEntry
  | 0, _ => []
  | lv + 1, table =>
    let shift := 12 + 9 * lv
    match walkRead s (table + 8 * nbits va (shift + 8) shift) 8 with
    | .error _ => []
    | .ok e =>
      if !e.testBit 0 || e.testBit 1 || decide (lv = 0) then []
      else { mc := mc, asid := asid, level := lv, va := va / 2 ^ shift, table := nbits e 52 12 * 4096 } :: walkPath s mc asid va lv (nbits e 52 12 * 4096)

/-- The walk-cache entry of the lowest level that covers a VA of an ASID at a memory controller. -/
def walkHit (s : State) (die mc asid va : Nat) : Option WalkEntry :=
  ((s.die die).walks.filter (fun w => decide (w.mc = mc ∧ w.asid = asid ∧ w.va = va / 2 ^ (12 + 9 * w.level)))).foldl
    (fun best w => match best with
      | some b => if w.level < b.level then some w else some b
      | none => some w) none

/-- A miss of the TLB: the walk, from the lowest table that the walk cache gives, with the entries that it adds to the walk cache (R289, R293). -/
def walkCached (s : State) (die mc asid va : Nat) : Except Err (Xlat × List WalkEntry) :=
  match walkHit s die mc asid va with
  | some w => (walkFrom s va w.level w.table).map (fun x => (x, walkPath s mc asid va w.level w.table))
  | none =>
    match walkRead s (asidEntryPa s die asid) 8 with
    | .error e => .error e
    | .ok root =>
      if root.testBit 0 then
        (walkFrom s va 5 (nbits root 52 12 * 4096)).map (fun x => (x, walkPath s mc asid va 5 (nbits root 52 12 * 4096)))
      else .error (.flt .page 0)

/-- Translate through the TLB of the slice's memory controller; a walk's result enters it, and a failed walk never does (R292, R293). -/
def translate (s : State) (die asid va : Nat) : Except Err (State × Xlat) :=
  let mc := homeSlice va % 16
  match ((s.die die).tlbs.getD mc []).find? (fun t => t.hits va asid) with
  | some t => .ok (s, { pa := t.pa, r := t.r, w := t.w, x := t.x, user := t.user, cclass := t.cclass, glob := t.asid.isNone, size := t.size })
  | none =>
    match walkCached s die mc asid va with
    | .error e => .error e
    | .ok (x, ws) =>
      let t : TlbEntry := { va := va, size := x.size, asid := if x.glob then none else some asid, pa := x.pa, r := x.r, w := x.w, x := x.x, user := x.user, cclass := x.cclass }
      .ok (s.modDie die (fun d => { d with tlbs := modAt d.tlbs mc (fun l => (t :: l).take 4096), walks := ws ++ d.walks }), x)

/-! ## Fills -/

/-- The bytes of this die's unacknowledged write-throughs merged into a line as its home holds it (R180). Those that have arrived are in the home's
bytes already, under any write performed there after them (R200; log entry 102): only those still on their way are laid over. -/
def overlayWts (s : State) (die pa : Nat) (b : BitVec 1024) : BitVec 1024 :=
  ((s.die die).wts.filter (fun t => decide (t.pa = pa) && !t.arrived)).foldl (fun b t => lineMerge b t.bytes t.mask) b

/-- The copy that the home slice of a die holds of a line: of the same mapping, since copies of synonyms are never merged (R172, R174). -/
def homeCopy (s : State) (tag : Nat) (asid : Option Nat) (pa : Nat) : Option Line :=
  if ownDevice s pa then
    (s.die (paDie pa)).l2.find? (fun l => decide (l.tag = tag ∧ l.pa = pa) && !l.remote && (l.asid.isNone || decide (l.asid = asid)))
  else none

/-- A line as its remote home now holds it. -/
def homeLine (s : State) (tag : Nat) (asid : Option Nat) (pa : Nat) : BitVec 1024 :=
  match homeCopy s tag asid pa with
  | some l => newestOf s (paDie pa) l
  | none => s.memLine pa

/-- quota and rank of a class (R187). -/
def l2Quota (s : State) (die c : Nat) : Nat := min (nbits (s.die die).regs.l2Quota.toNat (8 * c + 4) (8 * c)) 16
def l2Rank (s : State) (die c : Nat) : Nat := if c = 0 then 0 else nbits (s.die die).regs.l2Order.toNat (2 * c + 1) (2 * c)

/-- The class of the largest rank (ties: the higher class) among those present whose rank is at least lo. -/
def victimClass (s : State) (die : Nat) (present : List Nat) (lo : Nat) : Option Nat :=
  ((present.filter (fun c => decide (lo ≤ l2Rank s die c))).foldl
    (fun best c => match best with
      | none => some c
      | some b => if l2Rank s die b < l2Rank s die c || (decide (l2Rank s die b = l2Rank s die c) && decide (b < c)) then some c else some b) none)

/-- The slice and set of a line: the order of R186 is kept within a set, one of the slice's 512. -/
def l2Index (tag : Nat) : Nat × Nat := (homeSlice (tag * 128), Config.l2Set tag % 512)

/-- Choose the victim of a fill of class c (R186). The list is in order of use, latest first. `none`: no line is evicted;
`some none`: the access is served without allocating. -/
def chooseVictim (s : State) (die : Nat) (tag c : Nat) : Option (Option Line) :=
  let l2 := (s.die die).l2
  if l2Quota s die c = 0 then some none
  else if l2.length < 16 then none
  else
    let set := l2.filter (fun l => decide (l2Index l.tag = l2Index tag))
    if set.length < 16 then none
    else
      let mine := set.filter (fun l => decide (l.cclass = c))
      if l2Quota s die c ≤ mine.length then some (mine.getLast?)
      else
        match victimClass s die (dedup (set.map (·.cclass))) (l2Rank s die c) with
        | some v => some ((set.filter (fun l => decide (l.cclass = v))).getLast?)
        | none => some none

/-- Put a line into the L2, evicting by R186. -/
def installL2 (s : State) (die : Nat) (l : Line) : State :=
  match chooseVictim s die l.tag l.cclass with
  | none => s.modDie die (fun d => { d with l2 := l :: d.l2 })
  | some none => s
  | some (some v) => (evictL2 s die v).modDie die (fun d => { d with l2 := l :: d.l2 })

/-- Whether the page's bias lets a device access through (R298). -/
def biasCheck (s : State) (pa : Nat) (va : DWord) : Option Err :=
  if ownDevice s pa then
    (if biasOf s pa = 0 then none else if biasOf s pa = 1 then some (.flt .bias va) else some (.wait .load))
  else none

/-- The GiB of a die's remote-data cache (R183). -/
def rdcGib (s : State) (die : Nat) : Nat := min (bits (s.die die).regs.rdcCfg 4 0) 16

/-- The set of a line in a die's remote-data cache: 4 ways of 128 bytes (R162; the index is log entry 10). -/
def rdcSetOf (s : State) (die tag : Nat) : Nat := Config.rdcSet tag % (rdcGib s die * 2 ^ 21)

/-- Where the bytes of a line of the remote-data cache stand: in the top rdc_size GiB of the die's HBM (R182). -/
def rdcLoc (s : State) (die : Nat) (l : Line) : Nat :=
  paOf s die (0x2000000000 - rdcGib s die * 2 ^ 30 + (rdcSetOf s die l.tag * 4 + l.way) * 128)

/-- The line of the remote-data cache for a VA, with its bytes as the carve-out holds them. -/
def findRdc (s : State) (die tag asid gen : Nat) : Option Line :=
  ((s.die die).rdc.find? (fun l => l.hits tag asid gen)).map (fun l => { l with bytes := s.memLine (rdcLoc s die l) })

/-- A line enters the remote-data cache: in a free way of its set, else over the least recently filled line of it (R162; log entry 10), and over whatever
a page that is still mapped there held (R182). -/
def installRdc (s : State) (die : Nat) (l : Line) : State :=
  if rdcGib s die = 0 then s
  else
    let rest := (s.die die).rdc.filter (fun y => !sameLine y l)
    let set := rest.filter (fun y => decide (rdcSetOf s die y.tag = rdcSetOf s die l.tag))
    let way := match (List.range 4).find? (fun w => !set.any (fun y => decide (y.way = w))) with
      | some w => w
      | none => (set.getLast?).elim 0 (·.way)
    let l' := { l with way := way, bytes := 0 }
    let s := s.modDie die (fun d => { d with
      rdc := l' :: rest.filter (fun y => !(decide (rdcSetOf s die y.tag = rdcSetOf s die l.tag) && decide (y.way = way))) })
    s.putLine (rdcLoc s die l') allBytes l.bytes

/-- A use of a line of a slice moves it to the front of the order of use (R186). -/
def useL2 (s : State) (die : Nat) (l : Line) : State :=
  if (s.die die).l2.head? = some l then s else s.modDie die (fun d => { d with l2 := l :: d.l2.filter (fun x => !sameLine x l) })

/-- A request that reaches a line's home uses the home's copy (R186). -/
def useHome (s : State) (tag : Nat) (asid : Option Nat) (pa : Nat) : State :=
  match homeCopy s tag asid pa with
  | some l => useL2 s (paDie pa) l
  | none => s

/-- A line of the L2 for a VA, filled if it is not there (R172, R173, R176, R180). One that has an uncorrectable error is met as FLT_ECC (R429). -/
def fillL2 (s : State) (die asid va cls : Nat) : Except Err (State × Line) :=
  let tag := nbits va 56 7
  let gen := (s.die die).regs.gen
  match (s.die die).l2.find? (fun l => l.hits tag asid gen) with
  | some l => if lineBad s die l then .error (.flt .ecc (BitVec.ofNat 64 l.pa)) else .ok (useL2 s die l, l)
  | none =>
    match translate s die asid va with
    | .error (.flt c _) => .error (.flt c (BitVec.ofNat 64 va))
    | .error e => .error e
    | .ok (s, x) =>
      let pa := x.pa + (va % 2 ^ x.size) / 128 * 128
      match biasCheck s pa (BitVec.ofNat 64 va) with
      | some e => .error e
      | none =>
        if !paServes s pa || badAt s pa then .error (.flt .ecc (BitVec.ofNat 64 pa))
        else
          let remote := !(ownDevice s pa && decide (paDie pa = die))
          let base : Line :=
            { tag := tag, asid := if x.glob then none else some asid, pa := pa, r := x.r, w := x.w, x := x.x, user := x.user,
              cclass := max cls x.cclass, remote := remote, gen := gen, valid := allBytes, dirty := 0, bytes := 0, owner := none, way := 0, bad := false }
          let s := s.modDie die (fun d => { d with l2 := d.l2.filter (fun l => !sameLine l base) })
          if !remote then
            let l := { base with bytes := s.memLine pa }
            .ok (installL2 s die l, l)
          else
            match findRdc s die tag asid gen with
            | some r =>
              let l := { base with bytes := overlayWts s die pa r.bytes }
              .ok (installL2 s die l, l)
            | none =>
              let l := { base with bytes := overlayWts s die pa (homeLine s tag base.asid pa) }
              let s := installRdc (useHome s tag base.asid pa) die l
              .ok (installL2 s die l, l)

/-! ## Agents and accesses -/

/-- Who makes an access: its die and quad, the core whose L1 it uses, its ASID, whether it has supervisor privilege, its launch's class, the core
whose local store it reaches, whether it may use the tile, accumulator and physical windows (R165, R167), and the lane it acts for (R227). -/
structure Who where
  die : Nat
  quad : Nat
  core : Option Nat
  asid : Nat
  sup : Bool
  cclass : Nat
  ls : Option Nat
  tile : Bool
  acc : Bool
  phys : Bool
  me : Option (Place × Nat)
  deriving DecidableEq, Repr

/-- Which permissions an access needs (R173). -/
structure Need where
  r : Bool
  w : Bool
  x : Bool
  deriving DecidableEq, Repr

def needR : Need := { r := true, w := false, x := false }
def needW : Need := { r := false, w := true, x := false }
def needRW : Need := { r := true, w := true, x := false }
def needX : Need := { r := false, w := false, x := true }

/-- The check against the permissions recorded at the fill (R173). -/
def Line.allows (l : Line) (sup : Bool) (n : Need) : Bool :=
  (!n.r || l.r) && (!n.w || l.w) && (!n.x || l.x) && (sup || l.user)

/-- Whether an irrevocable attempt of another lane holds a line (R224, R227). The fetches of a unit do not wait for the locks of its own lanes, which
issue by them (R26). -/
def lockedOut (s : State) (w : Who) (need : Need) (pa : Nat) : Bool :=
  s.units.any (fun u => u.tx.any (fun (l, t) => t.locks.contains (pa / 128) && decide (w.me ≠ some (u.place, l)) && !(need.x && decide (w.me.map (·.1) = some u.place))))

/-- Whether an irrevocable attempt holds a line, for an agent that reaches it by physical address (R202, R224). -/
def lockedPa (s : State) (pa : Nat) : Bool := s.units.any (fun u => u.tx.any (fun (_, t) => t.locks.contains (pa / 128)))

/-- Move the line a core uses to the front of its L1; lines past its capacity are evicted (R171, R177). -/
def trimL1 (s : State) (die core : Nat) : State :=
  let k := s.core die core
  let cap := (8 - k.split) * 512
  if k.l1.length ≤ cap then s
  else
    match k.l1.getLast? with
    | none => s
    | some v =>
      let give (l : Line) : Line :=
        if l.owner = some core ∧ v.bad = false then { l with bytes := lineMerge l.bytes v.bytes v.dirty, dirty := l.dirty ||| v.dirty, owner := none }
        else if l.owner = some core then { l with owner := none } else l
      let s := s.modDie die (fun d => { d with l2 := modLine (sameLine v) (fun l => some (give l)) d.l2 })
      s.modCore die core (fun k => { k with l1 := k.l1.dropLast })

/-- The line of a core's L1 with all its bytes, missing ones merged from the slice (R176). -/
def fillL1 (s : State) (w : Who) (core va : Nat) : Except Err (State × Line) :=
  let tag := nbits va 56 7
  let gen := (s.die w.die).regs.gen
  let have_ := (s.core w.die core).l1.find? (fun l => l.hits tag w.asid gen)
  match have_ with
  | some l =>
    if l.bad then .error (.flt .ecc (BitVec.ofNat 64 l.pa))
    else if l.valid = allBytes then .ok (s, l)
    else
      match fillL2 s w.die w.asid va w.cclass with
      | .error e => .error e
      | .ok (s, m) =>
        let b := lineMerge (newestOf s w.die m) l.bytes l.valid
        let l' := { l with bytes := b, valid := allBytes }
        .ok (s.modCore w.die core (fun k => { k with l1 := modLine (sameLine l) (fun _ => some l') k.l1 }), l')
  | none =>
    match fillL2 s w.die w.asid va w.cclass with
    | .error e => .error e
    | .ok (s, m) =>
      let l := { m with bytes := newestOf s w.die m, dirty := 0, owner := none }
      .ok (trimL1 (s.modCore w.die core (fun k => { k with l1 := l :: k.l1.filter (fun y => !sameLine y l) })) w.die core, l)

/-- Read n bytes within one line of translated memory (R173, R176). -/
def readLine (s : State) (w : Who) (need : Need) (va n : Nat) : Except Err (State × Nat) :=
  match (match w.core with | some c => fillL1 s w c va | none => (fillL2 s w.die w.asid va w.cclass).map (fun (p : State × Line) => (p.1, { p.2 with bytes := newestOf p.1 w.die p.2 }))) with
  | .error e => .error e
  | .ok (s, l) =>
    if lockedOut s w need l.pa then .error (.wait .load)
    else if l.allows w.sup need then .ok (s, lineGet l.bytes (va % 128) n) else .error (.flt .prot (BitVec.ofNat 64 va))

/-- The recorded line an access by this agent is checked against, filled if need be. -/
def checkLine (s : State) (w : Who) (need : Need) (va : Nat) : Except Err (State × Line) :=
  let tag := nbits va 56 7
  let gen := (s.die w.die).regs.gen
  let l1 := match w.core with | some c => (s.core w.die c).l1.find? (fun l => l.hits tag w.asid gen) | none => none
  match fillL2 s w.die w.asid va w.cclass with
  | .error e => .error e
  | .ok (s, l) =>
    let rec_ := match l1 with | some x => x | none => l
    if rec_.bad then .error (.flt .ecc (BitVec.ofNat 64 l.pa))
    else if lockedOut s w need l.pa then .error (.wait .load)
    else if rec_.allows w.sup need then .ok (s, l) else .error (.flt .prot (BitVec.ofNat 64 va))

/-- Update the bytes of every copy of a line that a predicate picks in a list. -/
def pokeLines (l : Line) (off n v : Nat) (ls : List Line) : List Line :=
  ls.map (fun x => if sameLine x l then { x with bytes := linePut x.bytes off n v } else x)

/-- Write n bytes of a line registered to a core, into its L1 (R175). -/
def storeL1 (s : State) (die core : Nat) (l : Line) (off n v : Nat) : State :=
  let s := match l.owner with
    | some c => if c = core then s else (recallLine s die l).1
    | none => s
  let s := s.modDie die (fun d => { d with l2 := modLine (sameLine l) (fun x => some { x with owner := some core }) d.l2 })
  let inL2 := (s.die die).l2.any (sameLine l)
  let upd (x : Line) : Line := { x with bytes := linePut x.bytes off n v, valid := x.valid ||| spanMask off n, dirty := x.dirty ||| spanMask off n }
  if !inL2 then
    -- R186 case 4: the slice allocated nothing, so the bytes go on to the home at once
    let s := s.modCore die core (fun k => { k with l1 := pokeLines l off n v k.l1 })
    s.putLine l.pa (spanMask off n) (linePut 0 off n v)
  else
    let k := s.core die core
    if k.l1.any (sameLine l) then s.modCore die core (fun k => { k with l1 := modLine (sameLine l) (fun x => some (upd x)) k.l1 })
    else
      let fresh := upd { l with valid := 0, dirty := 0, bytes := 0, owner := none }
      trimL1 (s.modCore die core (fun k => { k with l1 := fresh :: k.l1 })) die core

/-- Write n bytes of a local-homed line at its home slice; a registrant's bytes are recalled first (R175, R184). -/
def storeL2 (s : State) (die : Nat) (l : Line) (off n v : Nat) : State :=
  let (s, l) := recallLine s die l
  if (s.die die).l2.any (sameLine l) then
    s.modDie die (fun d => { d with l2 := modLine (sameLine l) (fun x => some { x with bytes := linePut x.bytes off n v, dirty := x.dirty ||| spanMask off n }) d.l2 })
  else s.putLine l.pa (spanMask off n) (linePut 0 off n v)

/-- Every copy of a remote-homed line on a die takes some bytes: in its L1s, its L2 and its RDC (R180). -/
def pokeDie (s : State) (die : Nat) (l : Line) (off n v : Nat) : State :=
  let s := (s.modL1s die (pokeLines l off n v)).modDie die (fun d => { d with l2 := pokeLines l off n v d.l2 })
  ((s.die die).rdc.filter (sameLine l)).foldl (fun s y => s.putLine (rdcLoc s die y) (spanMask off n) (linePut 0 off n v)) s

/-- A store to a remote-homed line: the die's copies change, and the bytes go to the home (R180). -/
def storeRemote (s : State) (w : Who) (l : Line) (off n v : Nat) : State :=
  (pokeDie s w.die l off n v).modDie w.die (fun d => { d with
    wts := d.wts ++ [{ tag := l.tag, asid := l.asid, pa := l.pa, mask := spanMask off n, bytes := linePut 0 off n v, arrived := false }] })

/-- Write n bytes within one line of translated memory (R175, R180). -/
def writeLine (s : State) (w : Who) (va n v : Nat) : Except Err State :=
  match checkLine s w needW va with
  | .error e => .error e
  | .ok (s, l) =>
    if l.remote then
      (if paServes s l.pa then .ok (storeRemote s w l (va % 128) n v) else .error (.flt .ecc (BitVec.ofNat 64 l.pa)))
    else match w.core with
      | some c => .ok (storeL1 s w.die c l (va % 128) n v)
      | none => .ok (storeL2 s w.die l (va % 128) n v)

/-- Bytes merged at the home of a line (R180). -/
def mergeAtHome (s : State) (t : WriteThrough) : State :=
  match homeCopy s t.tag t.asid t.pa with
  | some l =>
    let die := paDie t.pa
    let (s, l) := recallLine (useL2 s die l) die l
    s.modDie die (fun d => { d with l2 := modLine (sameLine l) (fun x => some { x with bytes := lineMerge x.bytes t.bytes t.mask, dirty := x.dirty ||| t.mask }) d.l2 })
  | none => s.putLine t.pa t.mask t.bytes

/-- A write-through of a die meets its home: its bytes are merged there, or, where the home does not answer, it is an uncorrectable error that the die
reports (R170, R180; log entry 116). -/
def meetHome (die : Nat) (s : State) (t : WriteThrough) : State :=
  if paServes s t.pa then mergeAtHome s t else s.modDie die (fun d => { d with wtErrs := d.wtErrs ++ [t.pa] })

/-- Every write-through of a die that p picks is performed at its home, in order (R178, R180). -/
def performWts (s : State) (die : Nat) (p : WriteThrough → Bool) : State :=
  (((s.die die).wts.filter (fun t => p t && !t.arrived)).foldl (meetHome die) s).modDie die (fun d =>
    { d with wts := d.wts.map (fun t => if p t then { t with arrived := true } else t) })

/-- Let every write-through of a die that p picks arrive and be acknowledged, in order (R180, R181). -/
def drainWts (s : State) (die : Nat) (p : WriteThrough → Bool) : State :=
  (performWts s die p).modDie die (fun d => { d with wts := d.wts.filter (fun t => !p t) })

/-- The agent that takes registration of a local-homed line for an operation at a scope (R184): the core at scope 0, the quad's atomic unit at 1, none at
the home slice (2 and 3), the own package's Olun port at 4, the CXL port at 5. -/
def atomicPoint (w : Who) (scope : Nat) : Option Nat :=
  match scope with
  | 0 => w.core
  | 1 => some (240 + w.quad)
  | 4 => some 300
  | 5 => some 301
  | _ => none

/-- The slice records the registrant of a line (R175, R184). -/
def registerLine (s : State) (die : Nat) (l : Line) (point : Option Nat) : State :=
  s.modDie die (fun d => { d with l2 := modLine (sameLine l) (fun x => some { x with owner := point }) d.l2 })

/-- Write bytes of a local-homed line at an execution point outside the cores: it takes the registration, and its bytes are in the slice's copy (R184). -/
def storePoint (s : State) (die : Nat) (l : Line) (point : Option Nat) (off n v : Nat) : State := registerLine (storeL2 s die l off n v) die l point

/-- Bytes that an agent has seen at a line's home, in the copies that its later reads may hit: of its die for a remote-homed line, of its core for another
(R197). -/
def sawAtHome (s : State) (w : Who) (l : Line) (off n v : Nat) : State :=
  if l.remote then pokeDie s w.die l off n v
  else match w.core with
    | some c => s.modCore w.die c (fun k => { k with l1 := pokeLines l off n v k.l1 })
    | none => s

/-- A read within a line at its home: the newest bytes there, which the reader's later reads do not fall behind (R184, R197, R201). -/
def readHome (s : State) (w : Who) (need : Need) (va n : Nat) : Except Err (State × Nat) :=
  match checkLine s w need va with
  | .error e => .error e
  | .ok (s, l) =>
    let off := va % 128
    if l.remote && (!paServes s l.pa || badAt s l.pa) then .error (.flt .ecc (BitVec.ofNat 64 l.pa))
    else
      let s := if l.remote then useHome (drainWts s w.die (fun t => decide (t.pa = l.pa))) l.tag l.asid l.pa else s
      let v := lineGet (if l.remote then homeLine s l.tag l.asid l.pa else newestOf s w.die l) off n
      .ok (sawAtHome s w l off n v, v)

/-- A read within a line at the execution point of a scope (R184): a local-homed line is first registered there, or to nobody where the point is the
home slice. -/
def readPoint (s : State) (w : Who) (scope : Nat) (need : Need) (va n : Nat) : Except Err (State × Nat) :=
  match checkLine s w need va with
  | .error e => .error e
  | .ok (s, l) =>
    if l.remote then readHome s w need va n
    else
      let v := lineGet (newestOf s w.die l) (va % 128) n
      let s := if l.owner = atomicPoint w scope then s else registerLine (recallLine s w.die l).1 w.die l (atomicPoint w scope)
      .ok (sawAtHome s w l (va % 128) n v, v)

/-- One indivisible read-modify-write within a line of translated memory, at the point of R184. f gives the new value. -/
def rmwLine (s : State) (w : Who) (scope va n : Nat) (f : Nat → Nat) : Except Err (State × Nat) :=
  match checkLine s w needRW va with
  | .error e => .error e
  | .ok (s, l) =>
    let off := va % 128
    if l.remote && (!paServes s l.pa || badAt s l.pa) then .error (.flt .ecc (BitVec.ofNat 64 l.pa))
    else if l.remote then
      let s := drainWts s w.die (fun t => decide (t.pa = l.pa))
      let old := lineGet (homeLine s l.tag l.asid l.pa) off n
      let s := mergeAtHome s { tag := l.tag, asid := l.asid, pa := l.pa, mask := spanMask off n, bytes := linePut 0 off n (f old), arrived := true }
      .ok (purge s w.die (fun x => sameLine x l && x.remote), old)
    else
      let old := lineGet (newestOf s w.die l) off n
      match (if scope = 0 then w.core else none) with
      | some c => .ok (storeL1 s w.die c l off n (f old), old)
      | none => .ok (sawAtHome (storePoint s w.die l (atomicPoint w scope) off n (f old)) w l off n (f old), old)

/-- An acquire by an agent at a scope (R178, R181). -/
def acquire (s : State) (w : Who) (scope : Nat) : State :=
  let s := if scope = 0 then s else
    match w.core with
    | some c => s.modCore w.die c (fun k => { k with acqs := k.acqs + 1, l1 := (k.l1.filter (fun l => decide (l.dirty ≠ 0))).map (fun l => { l with valid := l.dirty }) })
    | none => s
  if 3 ≤ scope then bumpGen s w.die else s

/-- A release by an agent at a scope: at quad or die scope its die's write-throughs are performed first, at package scope and wider they are
acknowledged (R178, R181; log entry 117). -/
def release (s : State) (w : Who) (scope : Nat) : State :=
  if scope = 0 then s else if 3 ≤ scope then drainWts s w.die (fun _ => true) else performWts s w.die (fun _ => true)

end Sys2Proof.Machine
end

