-- ==== Sys2Proof/Machine/Msg.lean ====
section
/-! DEFINITION. Device time, monitors, the trace ring, activations, inboxes, messages, and fault packets (R249 to R253, R260, R261, R406 to R414). -/

namespace Sys2Proof.Machine

/-! ## Accesses of the device itself -/

/-- A range cut at 128-byte lines, in address order (R188). -/
def pieces : Nat → Nat → Nat → List (Nat × Nat)
  | 0, _, _ => []
  | f + 1, va, n =>
    if n = 0 then []
    else
      let k := min n (128 - va % 128)
      (va, k) :: pieces f (va + k) (n - k)

def piecesOf (va n : Nat) : List (Nat × Nat) := pieces (n / 128 + 2) va n

/-- An agent of a die that acts with supervisor privilege and no L1 (dispatcher, trace ring, handle and Flask logic). -/
def sysWho (die asid : Nat) : Who :=
  { die := die, quad := 0, core := none, asid := asid, sup := true, cclass := 0, ls := none, tile := false, acc := false, phys := false, me := none }

/-- Read the pieces of a range. -/
def readPieces (s : State) (w : Who) (need : Need) : List (Nat × Nat) → Except Err (State × Nat)
  | [] => .ok (s, 0)
  | (va, n) :: ps =>
    match readLine s w need va n with
    | .error e => .error e
    | .ok (s, v) =>
      match readPieces s w need ps with
      | .error e => .error e
      | .ok (s, r) => .ok (s, v + 256 ^ n * r)

/-- Check the pieces of a range before any byte is written (R188). -/
def checkPieces (s : State) (w : Who) (need : Need) : List (Nat × Nat) → Except Err State
  | [] => .ok s
  | (va, _) :: ps =>
    match checkLine s w need va with
    | .error e => .error e
    | .ok (s, _) => checkPieces s w need ps

def writePieces (s : State) (w : Who) : List (Nat × Nat) → Nat → Except Err State
  | [], _ => .ok s
  | (va, n) :: ps, v =>
    match writeLine s w va n (v % 256 ^ n) with
    | .error e => .error e
    | .ok s => writePieces s w ps (v / 256 ^ n)

/-- A VA of the translated region (R164). -/
def translatedVa (va : Nat) : Bool := decide (va < 0x00F0000000000000)

/-! ## The physical window (R167) -/

/-- Whether a physical address can be used by a device request at its home; the error otherwise (R167, R170, R298). -/
def physCheck (s : State) (pa : Nat) : Option Err :=
  let ecc : Err := .flt .ecc (BitVec.ofNat 64 pa)
  if ownDevice s pa then (if 2 ≤ biasOf s pa || lockedPa s pa then some (.wait .load) else if badAt s pa then some ecc else none)
  else if paServes s pa then none
  else some ecc

/-- Before an agent of a die accesses a line at its home, its die's stores to it, which come earlier in its order, are performed there (R167, R197). -/
def physSettle (s : State) (die pa : Nat) : State :=
  if (s.die die).wts.isEmpty then s else drainWts s die (fun t => decide (t.pa / 128 = pa / 128))

def physRead (s : State) (pa n : Nat) : Except Err Nat :=
  match physCheck s pa with
  | some e => .error e
  | none => .ok (if ownDevice s pa && decide (biasOf s pa = 0) then freshRead s pa n else s.rd pa n)

/-- A write by physical address: every on-chip copy is recalled and invalidated, then the bytes change (R167, R295). -/
def physWrite (s : State) (pa n v : Nat) : Except Err State :=
  match physCheck s pa with
  | some e => .error e
  | none =>
    let s := if ownDevice s pa && decide (biasOf s pa = 0) then purgePa s (pa - pa % 128) else s
    .ok (s.wr pa n v)

/-- The fault of a device access outside the translated region: only supervisor threads use the physical window (R167). -/
def sysFault (va : Nat) : Err := .flt (if va < 2 ^ 57 then .window else .prot) (BitVec.ofNat 64 va)

/-- A read by the device itself. -/
def sysRead (s : State) (w : Who) (va n : Nat) : Except Err (State × Nat) :=
  if translatedVa va && translatedVa (va + n - 1) then readPieces s w needR (piecesOf va n)
  else .error (sysFault va)

/-- A write by the device itself. -/
def sysWrite (s : State) (w : Who) (va n v : Nat) : Except Err State :=
  if translatedVa va && translatedVa (va + n - 1) then
    match checkPieces s w needW (piecesOf va n) with
    | .error e => .error e
    | .ok s => writePieces s w (piecesOf va n) v
  else .error (sysFault va)

/-- A read of the device's own tables that yields 0 where it cannot be made (log entry 13). -/
def sysGet (s : State) (w : Who) (va n : Nat) : Nat :=
  match sysRead s w va n with
  | .ok (_, v) => v
  | .error _ => 0

/-- A write of the device's own tables that has no effect where it cannot be made (log entry 13). -/
def sysPut (s : State) (w : Who) (va n v : Nat) : State :=
  match sysWrite s w va n v with
  | .ok s => s
  | .error _ => s

/-! ## Monitors (R406 to R408) -/

def nowOf (s : State) (die : Nat) : DWord := (s.die die).time

/-- One value taken by a monitor. -/
def monUpdate (m : Monitor) (v : Int) : Monitor :=
  let cfg := smGet 0 m 0
  let clipped : Nat := if v < 0 then 0 else min v.toNat 0xFFFFFFFF
  let x := clipped / 2 ^ bits cfg 23 20
  let get (i : Nat) : Nat := (smGet 0 m i).toNat
  let sum := min (get 5 + 2 ^ 32 * get 6 + x) (2 ^ 64 - 1)
  let b := if x = 0 then 0 else min (Nat.log2 x + 1) 15
  let set (i v : Nat) (m : Monitor) : Monitor := smSet 0 m i (BitVec.ofNat 32 v)
  m |> set 2 (min (get 2 + 1) 0xFFFFFFFF) |> set 3 (min (get 3) x) |> set 4 (max (get 4) x) |> set 5 (sum % 2 ^ 32) |> set 6 (sum / 2 ^ 32)
    |> set (8 + b) (min (get (8 + b) + 1) 0xFFFFFFFF)

/-- Whether an event of a source on a quad by an ASID qualifies (R407). -/
def monQualifies (m : Monitor) (src asid quad : Nat) : Bool :=
  let cfg := smGet 0 m 0
  let f := smGet 0 m 1
  bit cfg 31 && !bit cfg 30 && decide (bits cfg 26 24 = src) && (bit f 15 || decide (bits f 31 16 = asid)) && (bit f 8 || decide (bits f 14 9 = quad))

/-- An event with its value, for the monitors of a die. flag: a committed lane, for source 5. -/
def monEvent (s : State) (die src asid quad : Nat) (flag : Bool) (v : Int) : State :=
  if (s.die die).mons.isEmpty then s
  else
    s.modDie die (fun d => { d with mons := d.mons.map (fun (i, m) =>
      if monQualifies m src asid quad && (decide (src ≠ 5) || !bit (smGet 0 m 1) 0 || flag) then (i, monUpdate m v) else (i, m)) })

/-! ## The trace ring (R411 to R413) -/

/-- The 32 bytes of a trace record. -/
def traceRecord (kind why asid : Nat) (place : Word) (time entry : DWord) (tag serial : Word) : Nat :=
  kind + 2 ^ 8 * why + 2 ^ 16 * asid + 2 ^ 32 * place.toNat + 2 ^ 64 * time.toNat + 2 ^ 128 * entry.toNat + 2 ^ 192 * tag.toNat + 2 ^ 224 * serial.toNat

/-- Write one record of an enabled kind, or count it lost where its store would fault; none where the store must wait, for a flip or an irrevocable
attempt (R298, R224). trc_head rises once the record is performed at its home (R412). -/
def traceStore (s : State) (die kind rec_ : Nat) : Option State :=
  let r := (s.die die).regs
  if !bit r.trcCfg 31 || !bit r.trcCfg (24 + kind) then some s
  else
    let cap := 2 ^ min (bits r.trcCfg 4 0) 24
    let base := r.trcLo.toNat + 2 ^ 32 * r.trcHi.toNat
    let lost := s.modRegs die (fun r => { r with trcLost := if r.trcLost = 0xFFFFFFFF then r.trcLost else r.trcLost + 1 })
    if base % (32 * cap) ≠ 0 then some lost
    else
      let va := base + 32 * (r.trcHead.toNat % cap)
      match sysWrite s (sysWho die (bits r.trcCfg 23 8)) va 32 rec_ with
      | .ok s => some ((drainWts s die (fun t => decide (t.tag = va / 128))).modRegs die (fun r => { r with trcHead := r.trcHead + 1 }))
      | .error (.wait _) => none
      | .error (.flt _ _) => some lost

/-- Write the records that wait, oldest first, as far as they can be written now. -/
def flushTrace (s : State) (die : Nat) : List (Nat × Nat) → State
  | [] => s.modDie die (fun d => { d with trcWait := [] })
  | (k, x) :: rest => match traceStore s die k x with
    | some s => flushTrace s die rest
    | none => s.modDie die (fun d => { d with trcWait := (k, x) :: rest })

/-- A record of an event: it is written behind those that wait (R412). -/
def traceWrite (s : State) (die kind rec_ : Nat) : State :=
  let r := (s.die die).regs
  if !bit r.trcCfg 31 || !bit r.trcCfg (24 + kind) then s else flushTrace s die ((s.die die).trcWait ++ [(kind, rec_)])

/-! ## Activations (R20, R413, R414) -/

/-- A unit begins an activation. why: 0 CALLAT task, 1 spawn-bin launch, 2 message wake. -/
def startActivation (s : State) (p : Place) (why : Nat) (entry : DWord) (tag : Word) : State :=
  match s.unit? p with
  | none => s
  | some u =>
    let s := s.modUnit p (fun u => u.modIdent (fun i => { i with act := some { entry := entry, tag := tag } }))
    traceWrite s p.die 1 (traceRecord 1 why (asidOf s u) (placeWord p (ownPkg s)) (nowOf s p.die) entry tag (senderSerial u))

/-- The activation that a unit's records name: one that runs in none shows the entry of its launch record or template and a tag of all ones (R414). -/
def Unit.activation (u : Unit) : Activation := u.ident.act.getD { entry := u.ident.entry, tag := 0xFFFFFFFF }

/-- A unit's activation ends. why: 0 EXIT, 1 SLEEP, 2 MIGR out, 3 killed. A unit that runs in no activation writes the record of the end too, with what
R414 gives its records (DEDUCED, log entry 118). -/
def endActivation (s : State) (p : Place) (why : Nat) : State :=
  match s.unit? p with
  | none => s
  | some u =>
    let a := u.activation
    let s := s.modUnit p (fun u => u.modIdent (fun i => { i with act := none }))
    traceWrite s p.die 2 (traceRecord 2 why (asidOf s u) (placeWord p (ownPkg s)) (nowOf s p.die) a.entry a.tag (senderSerial u))

/-! ## Inboxes and delays (R252, R409, R410) -/

/-- The wait of one message run added to a delay table (R410). -/
def delayAdd (ds : List Delay) (m : RunMsg) (endTime : DWord) : List Delay :=
  let upd (d : Delay) : Delay :=
    { d with count := if d.count = 0xFFFFFFFF then d.count else d.count + 1, transit := d.transit + m.transit, wait := d.wait + m.wait,
             run := d.run + (endTime - m.dequeued) }
  let fresh (p sr : Word) : Delay := { place := p, serial := sr, count := 0, transit := 0, wait := 0, run := 0 }
  if (ds.take 63).any (fun d => decide (d.place = m.place ∧ d.serial = m.serial)) then
    ds.map (fun d => if d.place = m.place ∧ d.serial = m.serial then upd d else d)
  else if ds.length < 63 then ds ++ [upd (fresh m.place m.serial)]
  else if ds.length = 63 then ds ++ [upd (fresh 0xFFFFFFFF 0xFFFFFFFF)]
  else modAt ds 63 upd

/-- The run of the message an inbox runs on ends: its sender's entry rises (R410). -/
def Inbox.endRun (ib : Inbox) (now : DWord) : Inbox :=
  match ib.runMsg with
  | none => ib
  | some m => { ib with runMsg := none, delays := delayAdd ib.delays m now }

/-- The run time that `endRun` counts. -/
def Inbox.runTime (ib : Inbox) (now : DWord) : Option Nat := ib.runMsg.map (fun m => (now - m.dequeued).toNat)

/-- The first word of an item is popped: the run of the last message ends and, if the item is a message, its own begins. -/
def Inbox.dequeue (ib : Inbox) (now : DWord) : Inbox :=
  let ib := ib.endRun now
  let item := ib.words.headD 0
  let len := bits item 31 24
  let arr := ib.arrivals.headD 0
  let sent : Word := ib.words.getD 4 0
  let arrived : Word := ib.words.getD 6 0
  let transit : Nat := if (arrived - sent).toInt < 0 then 0 else (arrived - sent).toNat
  let run : Option RunMsg :=
    if bits item 23 16 = 0x10 then none
    else some { place := ib.words.getD 2 0, serial := ib.words.getD 3 0, transit := BitVec.ofNat 64 transit, wait := now - arr, dequeued := now,
                tag := ib.words.getD 1 0 }
  { ib with left := len, arrivals := ib.arrivals.drop 1, runMsg := run }

/-- The receipt of this item is an acquire: a reply of a CALLAT task or an answer of RSVD (R193, R251). -/
def syncItem (w : Word) : Bool := decide (bits w 23 16 = 1 ∨ bits w 23 16 = 3)

/-- The messages whose first word is popped by taking n words, as (wait, end of an earlier run) values for the monitors; sync: one of them is received
with an acquire. -/
structure InboxPop where
  box : Inbox
  words : List Word
  waits : List Nat
  runs : List Nat
  sync : Bool
  deriving DecidableEq, Repr

/-- Pop n words, oldest first (R252). -/
def Inbox.pop (now : DWord) : Nat → Inbox → InboxPop
  | 0, ib => { box := ib, words := [], waits := [], runs := [], sync := false }
  | n + 1, ib =>
    let starts := decide (ib.left = 0)
    let runs := if starts then (ib.runTime now).toList else []
    let ib := if starts then ib.dequeue now else ib
    let waits := if starts then (ib.runMsg.map (fun m => m.wait.toNat)).toList else []
    let w := ib.words.headD 0
    let r := Inbox.pop now n { ib with words := ib.words.drop 1, left := ib.left - 1 }
    { r with words := w :: r.words, waits := waits ++ r.waits, runs := runs ++ r.runs, sync := (starts && syncItem w) || r.sync }

/-- One item put into an inbox. -/
def Inbox.push (ib : Inbox) (ws : List Word) (now : DWord) : Inbox := { ib with words := ib.words ++ ws, arrivals := ib.arrivals ++ [now] }

/-! ## Addresses and receivers (R249, R252) -/

/-- The fields of a placement word. -/
def pwPkg (w : Word) : Nat := bits w 26 18
def pwDie (w : Word) : Nat := bits w 17 16
def pwCore (w : Word) : Nat := bits w 15 8
def pwUnit (w : Word) : Nat := bits w 7 0

/-- Whether a target's placement word breaks R250: a reserved bit, or a unit code that names no unit. -/
def pwReserved (w : Word) : Bool :=
  decide (bits w 31 27 ≠ 0) || !(decide (pwUnit w < 0xC4) || (decide (0xFC ≤ pwUnit w) && decide (pwCore w = 0)))

def pwIsSup (w : Word) : Bool := decide (0xFC ≤ pwUnit w)

/-- The place a placement word names; a supervisor core s is core 240 + s, and a core number above 239 names a place where no unit stands. -/
def pwPlace (w : Word) : Place :=
  if pwIsSup w then { die := pwDie w, core := 240 + (pwUnit w - 0xFC), unit := 0 }
  else if pwCore w < 240 then { die := pwDie w, core := pwCore w, unit := pwUnit w }
  else { die := pwDie w, core := 0, unit := 0x100 }

def itemTo (w : Word) (serial : Word) (asid : Nat) (words : List Word) : Item :=
  let p := pwPlace w
  { die := p.die, pkg := pwPkg w, core := p.core, unit := p.unit, serial := serial, asid := asid, words := words }

/-- The twelve words of a message (R251). -/
def messageWords (kind : Nat) (tag fromPlace fromSerial : Word) (sent : DWord) (payload : List Word) : List Word :=
  [BitVec.ofNat 32 (12 * 2 ^ 24 + kind * 2 ^ 16), tag, fromPlace, fromSerial, loWord sent, hiWord sent, 0, 0,
   payload.getD 0 0, payload.getD 1 0, payload.getD 2 0, payload.getD 3 0]

/-- An item from a supervisor core (R249). -/
def Item.fromSup (it : Item) : Bool := pwIsSup (it.words.getD 2 0)

/-- Whether a placement and serial of a context is the item's target (R252; log entry 14). -/
def Item.matches (it : Item) (asid : Nat) (serial : Word) : Bool :=
  if it.serial = 0 then decide (it.asid = asid) else decide (it.serial = serial) && (it.fromSup || decide (it.asid = asid))

/-- Inbox depth in words (R241). -/
def inboxDepth : Engine → Nat
  | .wave => 96
  | .swarm => 48
  | .mcc => 96
  | .sup => 4096

/-- The item as it enters an inbox: the arrival time written (R251). -/
def Item.stamped (it : Item) (now : DWord) : List Word := setAt it.words 6 (loWord now)

def msgDrop (s : State) (die : Nat) : State :=
  s.modRegs die (fun r => { r with msgDrop := if r.msgDrop = 0xFFFFFFFF then r.msgDrop else r.msgDrop + 1 })

/-- Every sleeping gang of a unit wakes; a wake starts an activation (R158). -/
def wakeSleepers (s : State) (p : Place) (tag : Word) : State :=
  match s.unit? p with
  | none => s
  | some u =>
    if u.book.sleeps.any (fun x => !x.woken) then
      let pc := ((u.book.sleeps.filter (fun x => !x.woken)).head?.map (·.pc)).getD 0
      let s := s.modUnit p (fun u => u.modBook (fun b => { b with sleeps := b.sleeps.map (fun x => { x with woken := true }) }))
      startActivation s p 2 (pc + 4) tag
    else s

/-- Put an item into a unit's inbox that has room. -/
def enterInbox (s : State) (u : Unit) (it : Item) : State :=
  let now := nowOf s u.place.die
  let ws := it.stamped now
  let transit := ((loWord now) - ws.getD 4 0).toInt
  let s := monEvent s u.place.die 2 u.ident.asid (quadOf u.place.core) false (if transit < 0 then 0 else transit)
  let s := s.modUnit u.place (fun u => u.modBook (fun b => { b with inbox := b.inbox.push ws now }))
  wakeSleepers s u.place (ws.getD 1 0)

/-- Wake the supervisor threads of a core. -/
def wakeSup (s : State) (die sc : Nat) (tag : Word) : Nat → State
  | 0 => s
  | t + 1 => wakeSleepers (wakeSup s die sc tag t) { die := die, core := 240 + sc, unit := t } tag

def enterSupInbox (s : State) (die sc : Nat) (ws : List Word) : State :=
  let now := nowOf s die
  let s := s.modSup die sc (fun c => { c with inbox := c.inbox.push ws now })
  wakeSup s die sc (ws.getD 1 0) 4

/-- The unit that an item reaches: at its placement, or, where it names a serial, where a forwarded unit now is (R249, R252). -/
def receiver (s : State) (it : Item) : Option Unit :=
  match s.unit? { die := it.die, core := it.core, unit := it.unit } with
  | some u => if it.matches u.ident.asid u.ident.serial then some u else fwd
  | none => fwd
where
  fwd : Option Unit :=
    match s.forwards.find? (fun f => decide (f.place = { die := it.die, core := it.core, unit := it.unit }) && it.matches f.asid f.serial) with
    | some f => if it.serial = 0 then none else s.units.find? (fun u => decide (u.ident.asid = f.asid) && decide (u.ident.serial = f.serial) && !u.isSup)
    | none => none

/-- The VA of a context's unit record (R377), from the headers that a die's dispatcher has read. -/
def unitRecVa (s : State) (die asid recIdx : Nat) : Option Nat :=
  ((s.die die).disp.hdrs.find? (fun h => decide (h.asid = asid))).map (fun h => h.units.toNat + 65536 * recIdx)

/-- Append a message to the saved inbox of a saved unit, or drop it when 64 are there (R252). -/
def appendSaved (s : State) (die : Nat) (v : Saved) (ws : List Word) : State :=
  match unitRecVa s die v.asid v.recIdx with
  | none => msgDrop s die
  | some va =>
    let w := sysWho die v.asid
    let n := sysGet s w (va + 0x58) 4
    if 64 ≤ n then msgDrop s die
    else sysPut (sysPut s w (va + 0x2F00 + 48 * n) 48 (ofWords ws)) w (va + 0x58) 4 (n + 1)

/-- A placement and serial that an item names are a saved unit's: those of its last save, or earlier ones that are forwarded to it. A serial of 0
names a unit that occupies the placement, which a saved one does not (R249, R252). -/
def Item.forSaved (it : Item) (s : State) (v : Saved) : Bool :=
  let p : Place := { die := it.die, core := it.core, unit := it.unit }
  decide (it.serial ≠ 0) && it.matches v.asid v.serial &&
    (decide (v.place = p) || s.forwards.any (fun f => decide (f.place = p ∧ f.asid = v.asid ∧ f.serial = v.serial)))

/-- The saved unit that an item names. -/
def savedReceiver (s : State) (it : Item) : Option (Nat × Saved) :=
  (List.range 4).foldl (fun acc d => match acc with
    | some x => some x
    | none => ((s.die d).disp.saved.find? (it.forSaved s)).map (fun v => (d, v))) none

/-- The items that wait in a core's input buffer. -/
def inbufOf (s : State) (die core : Nat) : List Item := if core < 240 then (s.core die core).inbuf else (s.sup die (core - 240)).inbuf

def modInbuf (s : State) (die core : Nat) (f : List Item → List Item) : State :=
  if core < 240 then s.modCore die core (fun k => { k with inbuf := f k.inbuf }) else s.modSup die (core - 240) (fun k => { k with inbuf := f k.inbuf })

/-- Two items have one sender: a unit of one context with one serial, or one supervisor core (R249, R250). -/
def Item.sameSender (a b : Item) : Bool :=
  decide (a.words.getD 3 0 = b.words.getD 3 0) && (if b.words.getD 3 0 = 0 then decide (a.words.getD 2 0 = b.words.getD 2 0) else decide (a.asid = b.asid))

/-- The cores, as die and number, at which messages for a unit may wait: its own and those of its earlier placements (R252). -/
def coresFor (s : State) (asid : Nat) (serial : Word) (p : Place) : List (Nat × Nat) :=
  dedup ((p.die, p.core) :: (s.forwards.filter (fun f => decide (f.asid = asid ∧ f.serial = serial))).map (fun f => (f.place.die, f.place.core)))

/-- Where an earlier message of the same sender to the same unit waits in the buffer of another core than (d, c): the network holds the new one, so that
they arrive in the order in which they were sent (R250, R252). mine: the waiting items that are the unit's. -/
def earlierElsewhere (s : State) (it : Item) (cores : List (Nat × Nat)) (d c : Nat) (mine : Item → Bool) : Bool :=
  cores.any (fun k => decide (k ≠ (d, c)) && (inbufOf s k.1 k.2).any (fun x => x.sameSender it && mine x))

/-- Whether an item can enter its receiver's inbox at once. -/
def roomNow (s : State) (u : Unit) (it : Item) : Bool :=
  u.book.saved.isEmpty && decide (u.book.inbox.words.length + it.words.length ≤ inboxDepth u.engine) && !(s.core u.place.die u.place.core).stop

/-- Decide an item at its target (R252). `none`: the network holds it. -/
def acceptItem (s : State) (it : Item) : Option State :=
  let fromDie := pwDie (it.words.getD 2 0)
  if it.pkg ≠ ownPkg s then
    (if s.pkg.pod.contains it.pkg && !s.pkg.silent.contains it.pkg && decide (it.pkg < 511) then some { s with replies := s.replies ++ [.message it.pkg it.words] }
     else some (msgDrop s fromDie))
  else if 240 ≤ it.core then
    let sc := it.core - 240
    let k := s.sup it.die sc
    if k.inbuf.isEmpty && decide (k.inbox.words.length + it.words.length ≤ 4096) then some (enterSupInbox s it.die sc (it.stamped (nowOf s it.die)))
    else if k.inbuf.length < 32 then some (modInbuf s it.die it.core (· ++ [it]))
    else none
  else
    match receiver s it with
    | some u =>
      -- where earlier messages wait at the named core for a unit that has moved, this one waits behind them (R250)
      let mine (x : Item) : Bool := decide ((receiver s x).map (·.place) = some u.place)
      let old := (inbufOf s it.die it.core).any mine
      let (d, c) := if old then (it.die, it.core) else (u.place.die, u.place.core)
      let waits := old || (inbufOf s d c).any mine
      if earlierElsewhere s it (coresFor s u.ident.asid u.ident.serial u.place) d c mine then none
      else if roomNow s u it && !waits then some (enterInbox s u it)
      else if (inbufOf s d c).length < 32 then some (modInbuf s d c (· ++ [it]))
      else none
    | none =>
      match savedReceiver s it with
      | some (d, v) =>
        if deviceWaits s then none else
        let q := inbufOf s it.die it.core
        let mine (x : Item) : Bool := (receiver s x).isNone && x.forSaved s v
        if earlierElsewhere s it (coresFor s v.asid v.serial v.place) it.die it.core mine then none
        else if q.any mine then (if q.length < 32 then some (modInbuf s it.die it.core (· ++ [it])) else none)
        else some (appendSaved s d v (it.stamped (nowOf s d)))
      | none => some (msgDrop s it.die)

/-- The oldest item of an input buffer whose inbox has room, with the rest; items whose receiver has gone are discarded (R252, R253). -/
def takeInbuf (s : State) (seen : List Place) : List Item → Option (Item × List Item)
  | [] => none
  | it :: rest =>
    let go (seen : List Place) : Option (Item × List Item) := (takeInbuf s seen rest).map (fun (x, r) => (x, it :: r))
    if 240 ≤ it.core then
      (if (s.sup it.die (it.core - 240)).inbox.words.length + it.words.length ≤ 4096 then some (it, rest) else go seen)
    else
      match receiver s it with
      | some u => if roomNow s u it && !seen.contains u.place then some (it, rest) else go (u.place :: seen)
      | none => if deviceWaits s && (savedReceiver s it).isSome then go seen else some (it, rest)

/-- One delivery from an input buffer; the state itself when nothing can be delivered. -/
def deliverInbuf (s : State) (die core : Nat) : State :=
  match takeInbuf s [] (inbufOf s die core) with
  | none => s
  | some (it, rest) =>
    let s := modInbuf s die core (fun _ => rest)
    if 240 ≤ it.core then enterSupInbox s it.die (it.core - 240) (it.stamped (nowOf s it.die))
    else
      match receiver s it with
      | some u => enterInbox s u it
      | none => match savedReceiver s it with
        | some (d, v) => appendSaved s d v (it.stamped (nowOf s d))
        | none => s

/-- The output buffer of a unit's core, 16 messages (R241). -/
def outbufOf (s : State) (die core : Nat) : List Item := if core < 240 then (s.core die core).outbuf else (s.sup die (core - 240)).outbuf

def modOutbuf (s : State) (die core : Nat) (f : List Item → List Item) : State :=
  if core < 240 then s.modCore die core (fun k => { k with outbuf := f k.outbuf }) else s.modSup die (core - 240) (fun k => { k with outbuf := f k.outbuf })

def outbufFull (s : State) (die core : Nat) : Bool := decide (16 ≤ (outbufOf s die core).length)

def sendItem (s : State) (die core : Nat) (it : Item) : State := modOutbuf s die core (· ++ [it])

/-- The placement word that a unit's messages carry (R249). -/
def senderWord (s : State) (u : Unit) : Word := placeWord u.place (ownPkg s)

/-! ## Fault packets (R260, R261) -/

/-- What a fault packet reports. -/
structure Packet where
  cause : Cause
  halted : Bool
  tx : Bool
  asid : Nat
  imm : BitVec 8
  kind : Nat
  place : Word
  serial : Word
  pc : DWord
  va : DWord
  unfinished : LaneMask
  detail : DWord
  /-- the master is frozen whatever the cause's own response (R396) -/
  frozen : Bool := false
  deriving DecidableEq, Repr

def Packet.words (p : Packet) (time : DWord) : List Word :=
  [BitVec.ofNat 32 (16 * 2 ^ 24 + 0x10 * 2 ^ 16 + p.cause.code * 2 ^ 8 + (if p.frozen then 1 else p.cause.response) * 2 ^ 6 + (if p.halted then 2 else 0) + (if p.tx then 1 else 0)),
   BitVec.ofNat 32 (p.asid * 2 ^ 16 + p.imm.toNat * 2 ^ 8 + p.kind), p.place, p.serial, loWord p.pc, hiWord p.pc, loWord p.va, hiWord p.va,
   p.unfinished.extractLsb' 0 32, p.unfinished.extractLsb' 32 32, p.unfinished.extractLsb' 64 32, 0, loWord p.detail, hiWord p.detail, loWord time, hiWord time]

/-- Hand an item to the network, which keeps each sender's order: it holds what its target cannot take yet (R252). -/
def deliverNet (s : State) : List Item → List Item → State × List Item
  | [], kept => (s, kept)
  | it :: rest, kept =>
    if kept.any it.sameSender then deliverNet s rest (kept ++ [it])
    else match acceptItem s it with
      | some s => deliverNet s rest kept
      | none => deliverNet s rest (kept ++ [it])

/-- The network delivers what it can of the messages that it holds. -/
def runNet (s : State) : State :=
  if s.pkg.net.isEmpty then s
  else
    let r := deliverNet s s.pkg.net []
    { r.1 with pkg := { r.1.pkg with net := r.2 } }

/-- The messages of a core's output buffer that p picks leave it for the network: the buffer is drained of them before a save completes, and the save waits
on no receiver (R241, R285). -/
def drainOut (s : State) (die core : Nat) (p : Item → Bool) : State :=
  let out := (outbufOf s die core).filter p
  if out.isEmpty then s
  else
    let s := modOutbuf s die core (fun q => q.filter (fun x => !p x))
    { s with pkg := { s.pkg with net := s.pkg.net ++ out } }

/-- Send a packet to a supervisor core of a die. A packet that finds the inbox full, or an earlier one waiting for it, waits in the die's fault
buffer, and where that holds 64 its master keeps it (R241, R261). -/
def sendPacket (s : State) (die sc : Nat) (p : Packet) : State :=
  let ws := p.words (nowOf s die)
  let x := s.die die
  let waiting := (x.faultBuf ++ x.faultKept).any (fun x => decide (x.core = 240 + sc))
  if !waiting && decide ((s.sup die sc).inbox.words.length + 16 ≤ 4096) then enterSupInbox s die sc ws
  else
    let it : Item := { die := die, pkg := ownPkg s, core := 240 + sc, unit := 0, serial := 0, asid := p.asid, words := ws }
    s.modDie die (fun d => if d.faultKept.isEmpty && decide (d.faultBuf.length < 64) then { d with faultBuf := d.faultBuf ++ [it] } else { d with faultKept := d.faultKept ++ [it] })

/-- The first packet of a fault buffer whose supervisor core has room, with the rest; the order for each core is kept. -/
def takeFaultBuf (s : State) (seen : List Nat) : List Item → Option (Item × List Item)
  | [] => none
  | it :: rest =>
    if !seen.contains it.core && decide ((s.sup it.die (it.core - 240)).inbox.words.length + 16 ≤ 4096) then some (it, rest)
    else (takeFaultBuf s (it.core :: seen) rest).map (fun (x, r) => (x, it :: r))

def deliverFaultBuf (s : State) (die : Nat) : State :=
  match takeFaultBuf s [] (s.die die).faultBuf with
  | none => s
  | some (it, rest) =>
    -- the room goes to the packet that a master has kept longest
    enterSupInbox (s.modDie die (fun d => { d with faultBuf := rest ++ d.faultKept.take 1, faultKept := d.faultKept.drop 1 })) die (it.core - 240) it.words

/-- The supervisor core that a unit's packets go to (R260, R427). -/
def packetCore (p : Place) : Nat := if p.core < 240 then quadOf p.core % 4 else (p.core - 240 + 1) % 4

/-- Master kinds 0 to 2 (R260); a supervisor thread has kind 1 (R427). -/
def masterKind : Engine → Nat
  | .wave => 0
  | .swarm => 1
  | .mcc => 2
  | .sup => 1

/-- The serial field of a unit's packet: for a supervisor thread its thread number (R427). -/
def packetSerial (u : Unit) : Word := if u.isSup then BitVec.ofNat 32 u.place.unit else u.ident.serial

end Sys2Proof.Machine
end

