-- ==== Sys2Proof/Machine/Blend.lean ====
section
/-! DEFINITION. The blender's state in tile memory and its application of entries (R392 to R396). -/

namespace Sys2Proof.Machine

/-- A word of tile memory (R360). -/
def tileGet (s : State) (die quad off n : Nat) : Nat := s.rd (locTile die quad off) n
def tilePut (s : State) (die quad off n v : Nat) : State := s.wr (locTile die quad off) n v

/-- An entry of the blender (R392, R395). -/
structure BlendEntry where
  ticket : Word
  mode : Word
  mask : Nat
  colours : List Word
  deriving DecidableEq, Repr

def BlendEntry.toNat (e : BlendEntry) : Nat := e.ticket.toNat + 2 ^ 32 * e.mode.toNat + 2 ^ 64 * e.mask + 2 ^ 128 * ofWords e.colours

def BlendEntry.ofNat (x : Nat) : BlendEntry :=
  { ticket := BitVec.ofNat 32 x, mode := BitVec.ofNat 32 (x / 2 ^ 32), mask := x / 2 ^ 64 % 2 ^ 32, colours := wordsOf 8 (x / 2 ^ 128) }

def ticketQ (t : Word) : Nat := bits t 27 16
def ticketSeq (t : Word) : Nat := bits t 15 0
def scoreOff (q : Nat) : Nat := 0x66000 + 4 * q

/-- One channel blended (R395): op 0 replace, 1 over, 2 add, 3 multiply. -/
def blendChannel (op src alpha dst : Nat) : Nat :=
  let x := fp16.decode src
  let y := fp16.decode dst
  let r : XR × Bool :=
    match op with
    | 0 => (x, false)
    | 1 =>
      let k := XR.sum .rne [XR.fin false 1 0, (fp16.decode alpha).negate]
      let p := XR.mul y k.1
      XR.sum .rne [x, p.1]
    | 2 => XR.sum .rne [x, y]
    | _ => XR.mul x y
  (fp16.round .rne false false false r.1).v

/-- The pixel of pixel quad q: its tile index p = 128 y + x for pixel j (R360, R362). -/
def quadPixel (q j : Nat) : Nat := 128 * (2 * (q / 64) + j / 2) + 2 * (q % 64) + j % 2

/-- Blend one pixel of an entry. -/
def blendPixel (s : State) (die quad : Nat) (e : BlendEntry) (j : Nat) : State :=
  if e.mask.testBit j then
    let off := 0x40000 + 8 * quadPixel (ticketQ e.ticket) j
    let src := (e.colours.getD (2 * j) 0).toNat + 2 ^ 32 * (e.colours.getD (2 * j + 1) 0).toNat
    let dst := tileGet s die quad off 8
    let ch (c : Nat) : Nat :=
      let x := src / 2 ^ (16 * c) % 65536
      let y := dst / 2 ^ (16 * c) % 65536
      if bit e.mode (4 + c) then blendChannel (bits e.mode 2 0) x (src / 2 ^ 48 % 65536) y else y
    tilePut s die quad off 8 (ch 0 + 2 ^ 16 * ch 1 + 2 ^ 32 * ch 2 + 2 ^ 48 * ch 3)
  else s

/-- apply(e) of R395. -/
def blendApply (s : State) (die quad : Nat) (e : BlendEntry) : State :=
  let s := [0, 1, 2, 3].foldl (fun s j => blendPixel s die quad e j) s
  tilePut s die quad 0x65000 4 ((tileGet s die quad 0x65000 4 + 2 ^ 32 - 1) % 2 ^ 32)

def nextOf (s : State) (die quad q : Nat) : Nat := tileGet s die quad (scoreOff q) 4 / 65536

def bumpNext (s : State) (die quad q : Nat) : State :=
  let w := tileGet s die quad (scoreOff q) 4
  tilePut s die quad (scoreOff q) 4 ((w / 65536 + 1) % 65536 * 65536 + w % 65536)

/-- The spill area's base VA and the ASID it lies in (R396). -/
def spillVa (s : State) (die quad i : Nat) : Nat := (s.quad die quad).blndLo.toNat + 2 ^ 32 * (s.quad die quad).blndHi.toNat + 64 * i
def spillWho (s : State) (die quad : Nat) : Who := sysWho die (bits (s.quad die quad).chanOwner 15 0)

def pendingCount (s : State) (die quad : Nat) : Nat := min (tileGet s die quad 0x65004 4) 1408
def spillCount (s : State) (die quad : Nat) : Nat := tileGet s die quad 0x65008 4

/-- The index of a pending entry with this pixel quad and sequence among the first n at 0x6_A000. -/
def findPending (s : State) (die quad q seq : Nat) : Nat → Option Nat
  | 0 => none
  | n + 1 =>
    match findPending s die quad q seq n with
    | some i => some i
    | none =>
      let t := BitVec.ofNat 32 (tileGet s die quad (0x6A000 + 64 * n) 4)
      if ticketQ t = q ∧ ticketSeq t = seq then some n else none

/-- The index of a spilled entry with this pixel quad and sequence among the first n. -/
def findSpilled (s : State) (die quad q seq : Nat) : Nat → Except Err (State × Option Nat)
  | 0 => .ok (s, none)
  | n + 1 =>
    match findSpilled s die quad q seq n with
    | .error e => .error e
    | .ok (s, some i) => .ok (s, some i)
    | .ok (s, none) =>
      match sysRead s (spillWho s die quad) (spillVa s die quad n) 4 with
      | .error e => .error e
      | .ok (s, v) =>
        let t := BitVec.ofNat 32 v
        .ok (s, if ticketQ t = q ∧ ticketSeq t = seq then some n else none)

/-- Take a held entry with this pixel quad and sequence: its place takes the last entry of its area. -/
def takeHeld (s : State) (die quad q seq : Nat) : Except Err (State × Option BlendEntry) :=
  let n := pendingCount s die quad
  match findPending s die quad q seq n with
  | some i =>
    let e := BlendEntry.ofNat (tileGet s die quad (0x6A000 + 64 * i) 64)
    let s := tilePut s die quad (0x6A000 + 64 * i) 64 (tileGet s die quad (0x6A000 + 64 * (n - 1)) 64)
    .ok (tilePut s die quad 0x65004 4 (n - 1), some e)
  | none =>
    let m := spillCount s die quad
    match findSpilled s die quad q seq (min m (s.quad die quad).blndCap.toNat) with
    | .error e => .error e
    | .ok (s, none) => .ok (s, none)
    | .ok (s, some i) =>
      let w := spillWho s die quad
      match sysRead s w (spillVa s die quad i) 64 with
      | .error e => .error e
      | .ok (s, x) =>
        match sysRead s w (spillVa s die quad (m - 1)) 64 with
        | .error e => .error e
        | .ok (s, y) =>
          match sysWrite s w (spillVa s die quad i) 64 y with
          | .error e => .error e
          | .ok s => .ok (tilePut s die quad 0x65008 4 (m - 1), some (BlendEntry.ofNat x))

/-- Apply the held entries that have become next; at most fuel of them. -/
def applyHeld (s : State) (die quad q : Nat) : Nat → Except Err State
  | 0 => .ok s
  | f + 1 =>
    match takeHeld s die quad q (nextOf s die quad q) with
    | .error e => .error e
    | .ok (s, none) => .ok s
    | .ok (s, some e) => applyHeld (bumpNext (blendApply s die quad e) die quad q) die quad q f

/-- One entry reaches the blender (R395): applied in its turn, else held; a wait when both areas are full. -/
def blendEntry (s : State) (die quad : Nat) (e : BlendEntry) : Except Err State :=
  let q := ticketQ e.ticket
  if ticketSeq e.ticket = nextOf s die quad q then
    applyHeld (bumpNext (blendApply s die quad e) die quad q) die quad q (pendingCount s die quad + spillCount s die quad)
  else
    let n := tileGet s die quad 0x65004 4
    if n < 1408 then .ok (tilePut (tilePut s die quad (0x6A000 + 64 * n) 64 e.toNat) die quad 0x65004 4 (n + 1))
    else
      let m := spillCount s die quad
      if m < (s.quad die quad).blndCap.toNat then
        match sysWrite s (spillWho s die quad) (spillVa s die quad m) 64 e.toNat with
        | .error x => .error x
        | .ok s => .ok (tilePut s die quad 0x65008 4 (m + 1))
      else .error (.wait .structural)

/-- A lane's ticket released: a blend with pixel mask 0 (R394). -/
def releaseTicket (s : State) (die quad : Nat) (t : Word) : Except Err State :=
  blendEntry s die quad { ticket := t, mode := 0, mask := 0, colours := List.replicate 8 0 }

/-- A ticket taken (R393): its word. -/
def takeTicket (s : State) (die quad q cover : Nat) : State × Word :=
  let w := tileGet s die quad (scoreOff q) 4
  let s := tilePut s die quad (scoreOff q) 4 (w / 65536 * 65536 + (w + 1) % 65536)
  let s := tilePut s die quad 0x65000 4 ((tileGet s die quad 0x65000 4 + 1) % 2 ^ 32)
  (s, BitVec.ofNat 32 (cover * 2 ^ 28 + q * 2 ^ 16 + w % 65536))

end Sys2Proof.Machine
end

