-- ==== Sys2Proof/Machine/Flask.lean ====
section
/-! DEFINITION. The context table, the Flask header, unit records, and the quad and core blocks (R262 to R264, R377 to R386). -/

namespace Sys2Proof.Machine

/-- A number made of fields at byte offsets. -/
def packAt : List (Nat × Nat) → Nat
  | [] => 0
  | (off, v) :: r => v * 256 ^ off + packAt r

/-- n bytes at byte offset off of a number read whole. -/
def fieldAt (x off n : Nat) : Nat := x / 256 ^ off % 256 ^ n

/-- Copy n bytes of an on-die memory to a VA, in lines. -/
def copyOut (s : State) (w : Who) (loc va n : Nat) : State :=
  (List.range (n / 128)).foldl (fun s i => sysPut s w (va + 128 * i) 128 (s.rd (loc + 128 * i) 128)) s

/-- Copy n bytes at a VA to an on-die memory. -/
def copyIn (s : State) (w : Who) (loc va n : Nat) : State :=
  (List.range (n / 128)).foldl (fun s i => s.wr (loc + 128 * i) 128 (sysGet s w (va + 128 * i) 128)) s

/-! ## The context table (R262 to R264) -/

def ctxCount (s : State) (die : Nat) : Nat := min (bits (s.die die).regs.ctxCount 10 0) 1024
/-- The dispatcher reading the table with the supervisor's privilege (R262). It is no supervisor thread, so the physical window is closed to it (R167; log
entry 33). -/
def ctxWho (s : State) (die : Nat) : Who := sysWho die (bits (s.die die).regs.supAsid 15 0)
def ctxVa (s : State) (die slot : Nat) : Nat := (s.die die).regs.ctxTabLo.toNat + 2 ^ 32 * (s.die die).regs.ctxTabHi.toNat + 1024 * slot

/-- The context header and the Flask header it names, checked (R263, R264, R377). -/
def readCtx (s : State) (die slot : Nat) : CtxHdr :=
  let h := sysGet s (ctxWho s die) (ctxVa s die slot) 64
  let asid := fieldAt h 0 2
  let flask := fieldAt h 8 8
  let bintab := fieldAt h 0x10 8
  let nbin := fieldAt h 0x18 4
  let nmig := fieldAt h 0x1C 4
  let mig := fieldAt h 0x20 8
  let f := sysGet s (sysWho die asid) flask 64
  let ucap := fieldAt f 0 4
  let ccap := fieldAt f 4 4
  let units := fieldAt f 8 8
  let cmds := fieldAt f 0x10 8
  let quads := fieldAt f 0x18 8
  let valid := decide (flask % 64 = 0 ∧ translatedVa flask ∧ bintab % 128 = 0 ∧ nbin ≤ 1024 ∧ nmig ≤ 65536 ∧ mig % 128 = 0 ∧ 1 ≤ ucap ∧ ucap ≤ 1048576 ∧
    ccap ≤ 1048576 ∧ fieldAt h 2 1 ≤ 3 ∧ units % 65536 = 0 ∧ cmds % 512 = 0 ∧ quads % 1048576 = 0)
  { slot := slot, asid := asid, state := fieldAt h 2 1, slice := fieldAt h 4 4, flask := BitVec.ofNat 64 flask, bintab := BitVec.ofNat 64 bintab, nbin := nbin,
    nmig := nmig, mig := BitVec.ofNat 64 mig, ucap := ucap, ccap := ccap, units := BitVec.ofNat 64 units, cmds := BitVec.ofNat 64 cmds,
    quads := BitVec.ofNat 64 quads, slots := BitVec.ofNat 64 (fieldAt f 0x20 8), cores := BitVec.ofNat 64 (fieldAt f 0x28 8),
    dies := BitVec.ofNat 8 (fieldAt f 0x30 1), valid := valid, fresh := true }

/-- Run: a valid header in state 1 (R263, R264). -/
def CtxHdr.runs (h : CtxHdr) : Bool := h.valid && decide (h.state = 1)

/-- The header of a context of this ASID that the dispatcher holds. -/
def ctxOf (s : State) (die asid : Nat) : Option CtxHdr := (s.die die).disp.hdrs.find? (fun h => decide (h.asid = asid) && decide (h.state ≠ 0))

/-! ### Launch queues (R265, R268) -/

/-- The control block of a queue. -/
def lqVa (s : State) (die slot prio : Nat) : Nat := ctxVa s die slot + 0x40 + 64 * prio

/-- A control block as read. -/
structure LQueue where
  ring : Nat
  lsize : Nat
  enabled : Bool
  head : Nat
  tail : Nat
  deriving DecidableEq, Repr

def readQueue (s : State) (die slot prio : Nat) : LQueue :=
  let x := sysGet s (ctxWho s die) (lqVa s die slot prio) 64
  { ring := fieldAt x 0 8, lsize := fieldAt x 8 1, enabled := decide (fieldAt x 9 1 % 2 = 1), head := fieldAt x 0x10 4, tail := fieldAt x 0x18 4 }

/-- The entries a queue holds, as n32. -/
def LQueue.count (q : LQueue) : Nat := (q.tail + 2 ^ 32 - q.head) % 2 ^ 32
def LQueue.entryVa (q : LQueue) (j : Nat) : Nat := q.ring + 8 * (j % 2 ^ q.lsize)
/-- The ranges of R265 (log entry 26). -/
def LQueue.blockOk (q : LQueue) : Bool := decide (q.ring % 64 = 0 ∧ q.lsize ≤ 16) && translatedVa q.ring

/-- The steps of R268 on one queue. -/
def stopQueue (s : State) (die slot prio err errva : Nat) : State :=
  let w := ctxWho s die
  let va := lqVa s die slot prio
  let en := sysGet s w (va + 9) 1
  let s := sysPut s w (va + 0xA) 1 err
  let s := if err = 2 then sysPut s w (va + 0x20) 8 errva else s
  let s := sysPut s w (va + 9) 1 (en - en % 2)
  s.modRegs die (fun r => { r with lqErr := if bit r.lqErr 31 then r.lqErr else BitVec.ofNat 32 (2 ^ 31 + 8 * slot + prio) })

/-- An invalid header stops every enabled queue of the context (R264, R268). -/
def stopContext (s : State) (die slot : Nat) : State :=
  ((List.range 8).filter (fun p => (readQueue s die slot p).enabled)).foldl (fun s p => stopQueue s die slot p 1 0) s

/-- The queues of a slot are due for examination when its header has been read for the first time (R264). -/
def bellAll (s : State) (die slot : Nat) : State :=
  s.modDisp die (fun d => { d with bells := d.bells ++ ((List.range 8).map (fun p => (slot, p))).filter (fun b => !d.bells.contains b) })

/-- Read a header of the table: at first eligibility, at a doorbell, at the end of a slice; an invalid one stops the context's queues (R262, R264). -/
def rereadCtx (s : State) (die slot : Nat) : State :=
  if ctxCount s die ≤ slot then s
  else
    let h := readCtx s die slot
    let first := !(s.die die).disp.hdrs.any (fun x => decide (x.slot = slot))
    let s := s.modDisp die (fun d => { d with hdrs := h :: d.hdrs.filter (fun x => decide (x.slot ≠ slot)) })
    let s := if first then bellAll s die slot else s
    if h.valid then s else stopContext s die slot

/-- The context slot of an ASID in the table, searched from slot n - 1 down to 0; the lowest is kept. -/
def findCtxSlot (s : State) (die asid : Nat) : Nat → Option Nat
  | 0 => none
  | n + 1 =>
    match findCtxSlot s die asid n with
    | some x => some x
    | none =>
      let h := sysGet s (ctxWho s die) (ctxVa s die n) 3
      if fieldAt h 0 2 = asid ∧ fieldAt h 2 1 ≠ 0 then some n else none

/-- The header of an ASID, read when the context first becomes eligible on the die (R264). -/
def needCtx (s : State) (die asid : Nat) : State :=
  match ctxOf s die asid with
  | some _ => s
  | none =>
    match findCtxSlot s die asid (ctxCount s die) with
    | some slot => rereadCtx s die slot
    | none => s

/-! ## Unit records (R378 to R380) -/

def recVaOf (h : CtxHdr) (i : Nat) : Nat := h.units.toNat + 65536 * i

/-- The first entry of an array whose first byte is 0; none as well where an entry before it cannot be read now. -/
def firstFree (s : State) (w : Who) (at_ : Nat → Nat) : Nat → Nat → Option Nat
  | 0, _ => none
  | f + 1, i =>
    match sysRead s w (at_ i) 1 with
    | .ok (_, 0) => some i
    | .ok _ => firstFree s w at_ f (i + 1)
    | .error _ => none

/-- Take the lowest-numbered free entry of an array in a context's Flask; its first bytes are written. -/
def takeFree (s : State) (die asid : Nat) (cap : CtxHdr → Nat) (at_ : CtxHdr → Nat → Nat) (n v : Nat) : Option (State × Nat) :=
  let s := needCtx s die asid
  match ctxOf s die asid with
  | none => none
  | some h =>
    match firstFree s (sysWho die asid) (at_ h) (cap h) 0 with
    | none => none
    | some i =>
      match sysWrite s (sysWho die asid) (at_ h i) n v with
      | .ok s => some (s, i)
      | .error _ => none

/-- Take a unit record for a new unit; its kind byte is written. -/
def takeRec (s : State) (die asid kind : Nat) : Option (State × Nat) := takeFree s die asid (·.ucap) recVaOf 2 (kind + 256)

/-- The first byte of a unit's record lies in a flipping page: freeing the record waits in the page's queue (R298). -/
def recWaits (s : State) (u : Unit) : Bool :=
  match u.ident.recIdx, ctxOf s u.place.die u.ident.asid with
  | some i, some h => (match sysRead s (sysWho u.place.die u.ident.asid) (recVaOf h i) 1 with | .error (.wait _) => true | _ => false)
  | _, _ => false

/-- Free a unit record: its kind becomes 0 (R378). -/
def freeRec (s : State) (die asid : Nat) (i : Option Nat) : State :=
  match i, ctxOf s die asid with
  | some i, some h => sysPut s (sysWho die asid) (recVaOf h i) 1 0
  | _, _ => s

def cmdVaOf (h : CtxHdr) (i : Nat) : Nat := h.cmds.toNat + 512 * i

/-- The lowest-numbered free command entry (R378, R381). -/
def takeCmdEntry (s : State) (die asid kind : Nat) : Option (State × Nat) := takeFree s die asid (·.ccap) cmdVaOf 1 kind

def freeCmdEntry (s : State) (die asid : Nat) (i : Option Nat) : State :=
  match i, ctxOf s die asid with
  | some i, some h => sysPut s (sysWho die asid) (cmdVaOf h i) 1 0
  | _, _ => s

/-- kind of a unit record (R380). -/
def recKind : Engine → Nat
  | .wave => 1
  | .swarm => 2
  | .mcc => 3
  | .sup => 0

/-- The state code of a unit at a save (R380, R384 step 3). -/
def recState (u : Unit) (forked : Bool) : Nat :=
  if forked then 6
  else match u.ctl.run with
    | .parked => 3
    | .frozen => 5
    | .stopped => 9
    | .suspended => 6
    | .ready => if u.ctl.halted then 4 else 7

/-- The token bits of R380: registers that commands and batches in flight will write (R48). -/
def pendingFields (s : State) (u : Unit) : List Fld :=
  ((s.cmds.filter (fun c => decide (c.serial = u.ident.serial) && decide (c.sup = u.isSup) && (if u.isSup then decide (c.issuer = u.place) else decide (c.asid = u.ident.asid)))).map (·.token)) ++
  ((s.batches.filter (fun b => decide (b.serial = u.ident.serial ∧ b.asid = u.ident.asid) && !u.isSup)).map (·.token))

def pendMask (fs : List Fld) (lo hi : Nat) : Nat :=
  (rangeWhere (hi - lo) (fun i => fs.contains (BitVec.ofNat 8 (lo + i)))).foldl (fun m i => m + 2 ^ i) 0

/-- The header of a unit record (R380). fork: the counter that a unit suspended by FORK watches. -/
def headerOf (s : State) (u : Unit) (fork : Option DWord) : Nat :=
  let c := u.ctl
  let i := u.ident
  let fs := pendingFields s u
  let forked := fork.isSome
  packAt [(0, recKind i.engine), (1, recState u forked),
    (2, (if c.haltFlag then 1 else 0) + (if c.mxBusy then 2 else 0) + (if c.redirected then 4 else 0) + (if forked then 8 else 0)),
    (3, i.regs), (4, u.regs.mode.toNat), (6, i.lds), (7, i.kind + 4 * i.prio + 32 * i.cclass), (8, u.regs.fstat.toNat), (0xC, i.serial.toNat),
    (0x10, u.book.calls.toNat), (0x14, (placeWord u.place (ownPkg s)).toNat), (0x18, i.age), (0x20, i.origin.toNat), (0x28, (fork.getD 0).toNat),
    (0x30, c.unfinished.toNat), (0x3C, c.cause.toNat), (0x3E, u.book.inbox.words.length), (0x40, pendMask fs 0 128), (0x50, pendMask fs 128 192),
    (0x58, u.book.saved.length), (0x60, ofWords ((u.regs.fb).flatMap (fun b => wordsOf 8 b.toNat))), (0xE0, u.regs.mxpi.toNat)]

/-- Where a slice area holds the pc and the mask of reconvergence stack entry i. A slice with lanes that stepped aside may hold up to three entries beyond
the 16 of R44 (log entry 62); they go to reserved bytes (log entry 119). -/
def rentryAt (i : Nat) : Nat × Nat := if i < 16 then (16 + 16 * i, 24 + 16 * i) else if i < 18 then (368 + 8 * (i - 16), 13 + (i - 16)) else (25, 15)

/-- Entry i of the reconvergence stack in a slice area; a third entry beyond the depth has seven bytes, for a pc that is a multiple of 4 below 2^57. -/
def rentryOf (x i : Nat) : REntry :=
  { pc := BitVec.ofNat 64 (if i < 18 then fieldAt x (rentryAt i).1 8 else 4 * fieldAt x (rentryAt i).1 7), mask := BitVec.ofNat 4 (fieldAt x (rentryAt i).2 1) }

/-- The 384 bytes of a slice area (R379). Entry 0 is the oldest. -/
def sliceArea (sl : Slice) : Nat :=
  let rs := sl.rstack.reverse
  let ls := sl.lstack.reverse
  packAt ([(0, sl.pc.toNat), (8, sl.active.toNat + 16 * sl.live.toNat), (9, sl.gang), (10, sl.strand), (11, rs.length), (12, ls.length)]
    ++ (rs.zipIdx.flatMap (fun (e, i) => [((rentryAt i).1, if i < 18 then e.pc.toNat else e.pc.toNat / 4 % 2 ^ 56), ((rentryAt i).2, e.mask.toNat)]))
    ++ (ls.zipIdx.flatMap (fun (e, i) => [(272 + 24 * i, e.count.toNat), (280 + 24 * i, e.start.toNat), (288 + 24 * i, e.last.toNat)])))

/-- The 16 bytes of a lane area (R379). -/
def laneArea (s : State) (u : Unit) (l : Nat) : Nat :=
  let t := smGet LaneTx.idle u.tx l
  let tk := u.tickets.find? (fun x => decide (x.1 = l))
  let linked := (s.dies.any (fun d => d.waiters.any (fun w => decide (w.serial = u.ident.serial ∧ w.asid = u.ident.asid ∧ w.lane = l) && w.res.isNone)))
  packAt [(0, t.txb.toNat), (8, t.aborts), (9, (if tk.isSome then 1 else 0) + (if linked then 2 else 0)), (12, (tk.map (fun x => x.2.toNat)).getD 0)]

/-- Mark a unit's linked waiter records saved or not (R216). -/
def markWaiters (s : State) (asid : Nat) (serial : Word) (v : Bool) : State :=
  (List.range 4).foldl (fun s d => s.modDie d (fun x => { x with waiters := x.waiters.map (fun w => if w.serial = serial ∧ w.asid = asid then { w with saved := v } else w) })) s

/-- Write a unit into its record (R379). The latched upper halves of stime and sret go to reserved bytes (R50, R55; log entry 119). -/
def writeUnitRec (s : State) (die va : Nat) (u : Unit) (fork : Option DWord) : State :=
  let w := sysWho die u.ident.asid
  let lanes := if u.isWave then 96 else 1
  let s := sysPut s w va 256 (headerOf s u fork)
  let s := sysPut s w (va + 0x100) 256 (ofWords ((List.range 64).map (fun i => smGet 0 u.regs.k i)))
  let s := sysPut s w (va + 0x200) 32 (ofWords (u.ctl.redirSave.take 8))
  let s := sysPut s w (va + 0x220) 64 (ofWords (u.regs.q.take 16))
  let s := sysPut s w (va + 0x260) 96 (packAt (u.regs.p.zipIdx.map (fun (m, i) => (12 * i, m.toNat))))
  let s := sysPut s w (va + 0x2C0) 8 (ofWords [u.regs.timeHi, u.regs.retHi])
  let s := (List.range lanes).foldl (fun s l => sysPut s w (va + 0x300 + 16 * l) 16 (laneArea s u l)) s
  let s := u.slices.zipIdx.foldl (fun s (sl, i) => sysPut s w (va + 0x900 + 384 * i) 384 (sliceArea sl)) s
  let s := sysPut s w (va + 0x2D00) 384 (ofWords u.book.inbox.words)
  let s := sysPut s w (va + 0x2E80) 128 (packAt ((0, u.book.retired.toNat) :: (List.range 11).map (fun r => (8 * (r + 1), (smGet 0 u.book.stalls (r + 1)).toNat))))
  let s := u.book.saved.zipIdx.foldl (fun s (m, i) => sysPut s w (va + 0x2F00 + 48 * i) 48 (ofWords m)) s
  (List.range u.ident.regs).foldl (fun s i =>
    sysPut s w (va + 0x4000 + 384 * i) (4 * lanes) (ofWords ((List.range lanes).map (fun l => smGet 0 u.regs.v (128 * l + i))))) s

/-- A sparse map of the nonzero words of a list, keyed by a function of the index. -/
def wordMap (key : Nat → Nat) (ws : List Word) : SMap Word := ws.zipIdx.foldl (fun m (w, i) => smSet 0 m (key i) w) []

def dropLast0 (ws : List Word) (n : Nat) : List Word := ws.take n

def loopOf (x : Nat) : LEntry :=
  { count := BitVec.ofNat 32 (fieldAt x 0 4), start := BitVec.ofNat 64 (fieldAt x 8 8), last := BitVec.ofNat 64 (fieldAt x 16 8) }

/-- A slice read from its area. -/
def sliceOf (x : Nat) (old : Slice) : Slice :=
  let nr := min (fieldAt x 11 1) 19
  let nl := min (fieldAt x 12 1) 4
  { old with
    pc := BitVec.ofNat 64 (fieldAt x 0 8), active := BitVec.ofNat 4 (fieldAt x 8 1), live := BitVec.ofNat 4 (fieldAt x 8 1 / 16), gang := fieldAt x 9 1,
    strand := fieldAt x 10 1,
    rstack := ((List.range nr).map (rentryOf x)).reverse,
    lstack := ((List.range nl).map (fun i => loopOf (x / 256 ^ (272 + 24 * i)))).reverse }

def blankSlice : Slice :=
  { pc := 0, live := 0, active := 0, gang := 0, strand := 0, rstack := [], lstack := [], atRegang := false, passes := [], rext := [], lext := [] }

def blankRegs : Regs :=
  { v := [], k := [], p := List.replicate 8 0, q := List.replicate 16 0, mode := 0, fstat := 0, timeHi := 0, retHi := 0, fb := List.replicate 4 0, mxpi := 0 }

def blankControl : Control :=
  { run := .ready, haltFlag := false, halted := false, redirected := false, redirSave := List.replicate 8 0, unfinished := 0, done := 0, cause := 0, fpc := 0, factive := 0,
    skipBp := [], mxBusy := false, mxPc := 0 }

def blankBook : Book :=
  { calls := 0, retired := 0, stalls := [], inbox := Inbox.empty, saved := [], waits := [], sleeps := [], udone := [], gwait := [], promoted := [], stall := [], yielded := [], issued := [], held := [], inboxWaits := [], tokens := [], modeSince := [] }

def blankUnit (p : Place) (e : Engine) (asid : Nat) (serial : Word) : Unit :=
  { place := p,
    ident := { engine := e, asid := asid, serial := serial, entry := 0, regs := 64, lds := 0, prio := 0, cclass := 0, kind := quadKind (quadOf p.core), age := 0, grid := none,
               origin := 0, recIdx := none, caller := none, act := none },
    regs := blankRegs, slices := [blankSlice], tx := [], tickets := [], ctl := blankControl, book := blankBook }

/-- The waits of a unit that comes back: its waiter records, with the results of those released while it was saved (R216), and the lanes that
found no free record. A record alone shows the scope of its unit's mode. -/
def releasedWaits (s : State) (asid : Nat) (serial : Word) (scope : Nat) (old : List LaneWait) : List LaneWait :=
  old.filter (fun x => x.stall.isSome) ++
  s.dies.flatMap (fun d => (d.waiters.filter (fun w => decide (w.serial = serial ∧ w.asid = asid ∧ w.place.core < 240))).map
    (fun w =>
      let was := old.find? (fun x => decide (x.lane = w.lane))
      { lane := w.lane, bwait := w.bwait, scope := was.elim scope (·.scope), key := w.key, res := w.res, shared := was.elim false (·.shared), stall := none }))

/-- What an unfinished mask says of the instruction at each gang's pc: where some of a gang's lanes have not completed it, its other active lanes
have (R380). -/
def doneOf (slices : List Slice) (un : LaneMask) : LaneMask :=
  let sl (l : Nat) : Slice := slices.getD (l / 4) blankSlice
  let open_ (g : Nat) : Bool := (List.range 96).any (fun l => un.getLsbD l && decide ((sl l).gang = g))
  maskOf ((List.range 96).filter (fun l => (sl l).active.getLsbD (l % 4) && !un.getLsbD l && open_ (sl l).gang))

/-- The active lanes of a gang. -/
def gangActive (slices : List Slice) (g : Nat) : LaneMask :=
  let sl (l : Nat) : Slice := slices.getD (l / 4) blankSlice
  maskOf ((List.range 96).filter (fun l => (sl l).active.getLsbD (l % 4) && decide ((sl l).gang = g)))

/-- A unit read back from its record (R379, R386), to live at a place. -/
def readUnitRec (s : State) (die va : Nat) (p : Place) (v : Saved) : Unit :=
  let w := sysWho die v.asid
  let h := sysGet s w va 256
  let e : Engine := if fieldAt h 0 1 = 1 then .wave else if fieldAt h 0 1 = 2 then .swarm else .mcc
  let lanes := if e = .wave then 96 else 1
  let serial := BitVec.ofNat 32 (fieldAt h 0xC 4)
  let base := v.unit.getD (blankUnit p e v.asid serial)
  let nslices := if e = .wave then 24 else 1
  let flags := fieldAt h 2 1
  let st := fieldAt h 1 1
  let nreg := fieldAt h 3 1
  let words (off n : Nat) : List Word := wordsOf n (sysGet s w (va + off) (4 * n))
  let lane (l : Nat) : Nat := sysGet s w (va + 0x300 + 16 * l) 16
  let ctr := sysGet s w (va + 0x2E80) 128
  let nSaved := min (fieldAt h 0x58 4) 64
  let slices := (List.range nslices).map (fun i => sliceOf (sysGet s w (va + 0x900 + 384 * i) 384) (base.slices.getD i blankSlice))
  let un : LaneMask := BitVec.ofNat 96 (fieldAt h 0x30 12)
  let hi := words 0x2C0 2
  let faulty := slices.getD ((lanesOf un).headD 0 / 4) blankSlice
  let origin := fieldAt h 0x20 8
  { place := p,
    ident := { base.ident with
      engine := e, asid := v.asid, serial := serial, regs := nreg, lds := fieldAt h 6 1, prio := fieldAt h 7 1 / 4 % 8, cclass := fieldAt h 7 1 / 32 % 4,
      kind := fieldAt h 7 1 % 4, age := fieldAt h 0x18 8, grid := v.grid, origin := BitVec.ofNat 64 origin, recIdx := some v.recIdx, act := none,
      -- both a launch record and a template begin with their entry (R269, R276)
      entry := if v.unit.isSome then base.ident.entry else BitVec.ofNat 64 (sysGet s w origin 8) },
    regs := { base.regs with
      v := (List.range nreg).foldl (fun m i => (wordsOf lanes (sysGet s w (va + 0x4000 + 384 * i) (4 * lanes))).zipIdx.foldl (fun m (x, l) => smSet 0 m (128 * l + i) x) m) [],
      k := wordMap id (words 0x100 64),
      p := (List.range 8).map (fun i => BitVec.ofNat 96 (sysGet s w (va + 0x260 + 12 * i) 12)),
      q := words 0x220 16, mode := BitVec.ofNat 16 (fieldAt h 4 2), fstat := BitVec.ofNat 5 (fieldAt h 8 4),
      timeHi := hi.getD 0 0, retHi := hi.getD 1 0,
      fb := (List.range 4).map (fun i => BitVec.ofNat 256 (fieldAt h (0x60 + 32 * i) 32)), mxpi := BitVec.ofNat 32 (fieldAt h 0xE0 4) },
    slices := slices,
    tx := (List.range lanes).foldl (fun m l => smSet LaneTx.idle m l
      { smGet LaneTx.idle base.tx l with txb := BitVec.ofNat 64 (fieldAt (lane l) 0 8), aborts := fieldAt (lane l) 8 1 }) [],
    tickets := (List.range lanes).foldl (fun m l => if fieldAt (lane l) 9 1 % 2 = 1 then smPut m l (BitVec.ofNat 32 (fieldAt (lane l) 12 4)) else m) [],
    ctl := { base.ctl with
      run := if st = 3 then .parked else if st = 5 then .frozen else if st = 9 then .stopped else .ready,
      haltFlag := flags % 2 = 1, halted := flags % 2 = 1 && (decide (st = 4) || decide (st = 7) || decide (st = 6)), mxBusy := flags / 2 % 2 = 1, redirected := flags / 4 % 2 = 1,
      redirSave := words 0x200 8, unfinished := un, done := if v.unit.isSome then base.ctl.done else doneOf slices un,
      mxPc := if v.unit.isSome then base.ctl.mxPc else (slices.headD blankSlice).pc, cause := BitVec.ofNat 8 (fieldAt h 0x3C 1),
      -- a record alone shows the faulting gang by the unfinished lanes (R380)
      fpc := if v.unit.isSome then base.ctl.fpc else faulty.pc,
      factive := if v.unit.isSome then base.ctl.factive else gangActive slices faulty.gang },
    book := { base.book with
      calls := BitVec.ofNat 32 (fieldAt h 0x10 4), retired := BitVec.ofNat 64 (fieldAt ctr 0 8),
      stalls := (List.range 11).foldl (fun m r => smSet 0 m (r + 1) (BitVec.ofNat 64 (fieldAt ctr (8 * (r + 1)) 8))) [],
      inbox := { Inbox.empty with words := words 0x2D00 (min (fieldAt h 0x3E 2) 96), left := base.book.inbox.left, arrivals := base.book.inbox.arrivals, runMsg := base.book.inbox.runMsg },
      saved := (List.range nSaved).map (fun i => words (0x2F00 + 48 * i) 12), waits := releasedWaits s v.asid serial (modeScope (BitVec.ofNat 16 (fieldAt h 4 2))) base.book.waits, gwait := [], promoted := [],
      stall := [], yielded := [], issued := [], held := [], inboxWaits := [], tokens := base.book.tokens ++ v.tokens, modeSince := [] } }

/-! ## Where a block is restored from (R386; log entry 31) -/

/-- Whether units of a context stand on a die, running or saved there. -/
def standsOn (s : State) (die asid : Nat) : Bool :=
  s.units.any (fun u => !u.isSup && decide (u.place.die = die ∧ u.ident.asid = asid)) || (s.die die).disp.saved.any (fun v => decide (v.asid = asid) && !v.captured)

/-- The die whose block of a number is restored on a die: its own first, then the lowest that the context has left. -/
def sourceDie (s : State) (die asid : Nat) (has_ : Nat → Bool) : Option Nat :=
  (die :: (List.range 4).filter (fun d => decide (d ≠ die) && !standsOn s d asid)).find? has_

/-! ## Core blocks (R383) -/

def coreBlockVa (h : CtxHdr) (die core : Nat) : Nat := h.cores.toNat + (240 * die + core) * 524288

/-- The 64 bytes of a task (R383). -/
def taskBytes (t : Task) : Nat :=
  packAt [(0, t.entry.toNat), (8, ofWords (t.args.take 4)), (0x18, t.tag.toNat), (0x1C, t.callerPlace.toNat), (0x20, t.callerSerial.toNat), (0x24, t.lds),
    (0x25, t.scope)]

/-- A task as the Flask holds it, with the scope of its CALLAT in a reserved byte (R155; log entry 119). R383 has no field for what held its dispatch, which
starts again (log entry 106). -/
def taskOf (asid x : Nat) : Task :=
  { entry := BitVec.ofNat 64 (fieldAt x 0 8), args := wordsOf 4 (fieldAt x 8 16), asid := asid, lds := fieldAt x 0x24 1, tag := BitVec.ofNat 32 (fieldAt x 0x18 4),
    callerPlace := BitVec.ofNat 32 (fieldAt x 0x1C 4), callerSerial := BitVec.ofNat 32 (fieldAt x 0x20 4), held := none, heldVa := 0, frozen := false, fromSup := false, scope := fieldAt x 0x25 1 % 8, refusal := none }

/-- Where a core block holds the tasks of its core's queue, and of its quad's MCC in the block of core-within-quad 0: the first entry and the count.
R383 places only the core's; the MCC's follow in the reserved part (log entry 52). -/
def taskArea (mcc : Bool) : Nat × Nat := if mcc then (0x64000, 0x63054) else (0x62000, 0x63050)

def tasksAt (s : State) (mcc : Bool) (die i : Nat) : List Task := if mcc then (s.quad die i).tasks else (s.core die i).tasks

def setTasksAt (s : State) (mcc : Bool) (die i : Nat) (ts : List Task) : State :=
  if mcc then s.modQuad die i (fun q => { q with tasks := ts }) else s.modCore die i (fun k => { k with tasks := ts })

def taskBlockVa (h : CtxHdr) (mcc : Bool) (die i : Nat) : Nat := coreBlockVa h die (if mcc then 4 * i else i)

/-- The tasks of a context in one queue go to its Flask, behind those that it holds already (R257). -/
def saveTasksAt (s : State) (h : CtxHdr) (mcc : Bool) (die i : Nat) : State :=
  let all := tasksAt s mcc die i
  let mine := all.filter (fun t => decide (t.asid = h.asid))
  if mine.isEmpty then s
  else
    let w := sysWho die h.asid
    let va := taskBlockVa h mcc die i
    let n := min (sysGet s w (va + (taskArea mcc).2) 4) 64
    let s := (mine.take (64 - n)).zipIdx.foldl (fun s (t, k) => sysPut s w (va + (taskArea mcc).1 + 64 * (n + k)) 64 (taskBytes t)) s
    let s := sysPut s w (va + (taskArea mcc).2) 4 (min 64 (n + mine.length))
    setTasksAt s mcc die i (all.filter (fun t => decide (t.asid ≠ h.asid)) ++ mine.drop (64 - n))

/-- Every task of a context that a die's queues hold goes to its Flask (R257). -/
def saveTasks (s : State) (die : Nat) (h : CtxHdr) : State :=
  (List.range 60).foldl (fun s q => saveTasksAt s h true die q) ((List.range 240).foldl (fun s c => saveTasksAt s h false die c) s)

/-- Write a core's local store and channels to its context's block, and empty them (R171, R241, R383). -/
def saveCoreBlock (s : State) (die core : Nat) : State :=
  let k := s.core die core
  match k.owner with
  | none => s
  | some asid =>
    let s := needCtx s die asid
    match ctxOf s die asid with
    | none => s
    | some h =>
      let w := sysWho die asid
      let va := coreBlockVa h die core
      let s := copyOut s w (locLs die core 0) va (k.split * 65536)
      let s := k.chans.zipIdx.foldl (fun s (c, i) => sysPut s w (va + 0x60000 + 512 * i) 512 (ofWords c.words)) s
      let s := sysPut s w (va + 0x63010) 64 (ofWords (k.chans.map (fun c => BitVec.ofNat 32 c.words.length)))
      let s := sysPut s w (va + 0x63060) 4 k.split
      let s := s.modCore die core (fun k => { k with chans := k.chans.map (fun c => { c with words := [] }) })
      sysPut s w (va + 0x63000) 1 1

/-- Whether a context's block for a core is valid. -/
def coreBlockValid (s : State) (die core asid : Nat) : Bool :=
  match ctxOf s die asid with
  | none => false
  | some h => decide (sysGet s (sysWho die asid) (coreBlockVa h die core + 0x63000) 1 % 2 = 1)

/-- Load a valid core block whose split matches, and clear valid (R386). -/
def loadCoreBlock (s : State) (die core asid split : Nat) : State :=
  match ctxOf s die asid with
  | none => s
  | some h =>
    let w := sysWho die asid
    let from_ (d : Nat) : Bool := decide (sysGet s w (coreBlockVa h d core + 0x63000) 1 % 2 = 1 ∧ sysGet s w (coreBlockVa h d core + 0x63060) 4 = split)
    match sourceDie s die asid from_ with
    | some d =>
      let va := coreBlockVa h d core
      let s := copyIn s w (locLs die core 0) va (split * 65536)
      let counts := wordsOf 16 (sysGet s w (va + 0x63010) 64)
      let chans := (List.range 16).map (fun i => { Chan.empty with words := wordsOf (min (counts.getD i 0).toNat 128) (sysGet s w (va + 0x60000 + 512 * i) 512) })
      let s := s.modCore die core (fun k => { k with chans := chans })
      sysPut s w (va + 0x63000) 1 0
    | none => s

/-- Tasks in a context's Flask re-enter the queue of the same number, while it has room (R257). -/
def loadTasksAt (s : State) (h : CtxHdr) (mcc : Bool) (die i : Nat) : State :=
  let w := sysWho die h.asid
  let (area, cnt) := taskArea mcc
  match sourceDie s die h.asid (fun d => decide (sysGet s w (taskBlockVa h mcc d i + cnt) 4 ≠ 0)) with
  | none => s
  | some d =>
    let va := taskBlockVa h mcc d i
    let xs := (List.range (min (sysGet s w (va + cnt) 4) 64)).map (fun k => sysGet s w (va + area + 64 * k) 64)
    let now := tasksAt s mcc die i
    let left := xs.drop (64 - now.length)
    let s := setTasksAt s mcc die i (now ++ (xs.take (64 - now.length)).map (taskOf h.asid))
    sysPut (left.zipIdx.foldl (fun s (x, k) => sysPut s w (va + area + 64 * k) 64 x) s) w (va + cnt) 4 left.length

def loadTasks (s : State) (die : Nat) (h : CtxHdr) : State :=
  (List.range 60).foldl (fun s q => loadTasksAt s h true die q) ((List.range 240).foldl (fun s c => loadTasksAt s h false die c) s)

/-- An empty core takes an ASID and split (R171): the old context's block is written, the L1 written back and invalidated, the local store zeroed
and the new context's block loaded. -/
def takeCore (s : State) (die core asid split : Nat) : State :=
  let k := s.core die core
  if k.owner = some asid ∧ k.split = split then s
  else
    let s := saveCoreBlock s die core
    let s := (s.core die core).l1.foldl (fun s l =>
      let s := match (s.die die).l2.find? (fun x => sameLine x l && decide (x.owner = some core)) with
        | some x => (recallLine s die x).1
        | none => s
      s) s
    let s := s.modCore die core (fun k => { k with l1 := [], owner := some asid, split := split, gated := false, lsUsed := false })
    let s := s.zeroRange (locLs die core 0) 524288
    loadCoreBlock (needCtx s die asid) die core asid split

/-! ## Quad blocks (R382) -/

def quadBlockVa (h : CtxHdr) (die quad : Nat) : Nat := h.quads.toNat + (60 * die + quad) * 1048576
def slotAreaVa (h : CtxHdr) (die quad : Nat) : Nat := h.slots.toNat + (60 * die + quad) * 2097152

/-- The slot bytes S and row bytes R of a quad (R318). -/
def slotBytes (quad : Nat) : Nat := if quad < 40 then 32768 else 131072
def rowBytes (quad : Nat) : Nat := if quad < 40 then 256 else 1024

/-- The 36 KiB of a plane: tile at 0, scales at 0x8000, super-scales at 0x8800, valid at 0x8FF0, format at 0x8FF2 (log entry 16). -/
def planeBytes (p : Plane) : List (Nat × Nat × Nat) :=
  [(0, 32768, ofBytes p.tile), (0x8000, 2048, ofBytes p.scales), (0x8800, 1024, ofWords p.sups), (0x8FF0, 16, (if p.valid then 1 else 0) + 65536 * p.ctl.toNat + 2 ^ 32 * p.tile.length + 2 ^ 64 * p.scales.length + 2 ^ 96 * p.sups.length)]

def writeLong (s : State) (w : Who) (va n v : Nat) : State :=
  (List.range (n / 128)).foldl (fun s i => sysPut s w (va + 128 * i) 128 (v / 256 ^ (128 * i) % 256 ^ 128)) (sysPut s w (va + n / 128 * 128) (n % 128) (v / 256 ^ (n / 128 * 128)))

def readLong (s : State) (w : Who) (va n : Nat) : List Byte :=
  (List.range ((n + 127) / 128)).flatMap (fun i => (bytesOf 128 (sysGet s w (va + 128 * i) 128))) |>.take n

def savePlane (s : State) (w : Who) (va : Nat) (p : Plane) : State := (planeBytes p).foldl (fun s (off, n, v) => writeLong s w (va + off) n v) s

def loadPlane (s : State) (w : Who) (va : Nat) : Plane :=
  let c := sysGet s w (va + 0x8FF0) 16
  { valid := c % 2 = 1, ctl := BitVec.ofNat 16 (fieldAt c 2 2), tile := readLong s w va (min (fieldAt c 4 4) 32768), scales := readLong s w (va + 0x8000) (min (fieldAt c 8 4) 2048),
    sups := wordsOf (min (fieldAt c 12 4) 256) (ofBytes (readLong s w (va + 0x8800) 1024)) }

/-- The entry size of a Launder in words (R254). -/
def ldrWords (cfg : Word) : Nat := 4 * 2 ^ bits cfg 29 28
def ldrDepth (cfg : Word) : Nat := bits cfg 25 12
def ldrBase (cfg : Word) : Nat := bits cfg 11 0 * 64

/-- The 32 bytes of a bin (R382), with its age in reserved bytes (R277; log entry 119). -/
def binBytes (b : Bin) : Nat :=
  packAt [(0, b.entry.toNat), (8, b.asid), (10, b.recs.length), (11, match b.state with | .free => 0 | .filling => 1 | .launching => 2), (12, b.elapsed), (16, b.tindex),
    (20, b.since % 2 ^ 64)]

/-- Write a context's bins of a quad, and their thread records, into its block (R284 step 3). They stay in the quad, which is still its chan_owner's, and
neither time nor launch before the context is back; the block is not valid before chan_owner changes (log entry 107). -/
def saveBins (s : State) (die quad : Nat) (h : CtxHdr) : State :=
  let w := sysWho die h.asid
  let mine (b : Bin) : Bool := decide (b.state ≠ .free ∧ b.asid = h.asid)
  let put (s : State) (i : Nat) (b : Bin) : State :=
    let n := 32 * b.recs.length
    let s := writeLong s w (quadBlockVa h die quad + 0xC0000 + 3072 * i) n (s.rd (locVault die quad (0x7E0000 + 3072 * i)) n)
    sysPut s w (quadBlockVa h die quad + 0xFA400 + 32 * i) 32 (binBytes b)
  let s := ((s.quad die quad).bins.zipIdx.filter (fun (b, _) => mine b)).foldl (fun s (b, i) => put s i b) s
  s.modQuad die quad (fun q => { q with bins := q.bins.map (fun b => if mine b then { b with saved := true } else b) })

/-- A quad gives up what its chan_owner owned: queues, Launders, bins, planes and tile memory (R244, R309). -/
def emptyQuad (s : State) (die quad : Nat) : State :=
  let s := s.modQuad die quad (fun q => { q with
    chans := q.chans.map (fun c => { c with words := [] }), mboxes := q.mboxes.map (fun c => { c with words := [] }), mboxOvf := 0,
    launders := q.launders.map (fun l => { l with cfg := 0, entries := [] }), active := Plane.invalid, shadow := Plane.invalid,
    bins := List.replicate 32 Bin.reset })
  (s.zeroRange (locTile die quad 0) 524288).zeroRange (locVault die quad 0x7E0000) 131072

/-- Write what chan_owner's context owns in a quad to its block, and empty it (R244, R382). A context that has no slot in the context table has no block to
write. -/
def saveQuadBlock (s : State) (die quad asid : Nat) : State :=
  let s := needCtx s die asid
  match ctxOf s die asid with
  | none => emptyQuad s die quad
  | some h =>
    let q := s.quad die quad
    let w := sysWho die asid
    let va := quadBlockVa h die quad
    let s := copyOut s w (locTile die quad 0) va 524288
    let s := q.launders.foldl (fun s l => l.entries.zipIdx.foldl (fun s (e, i) =>
      sysPut s w (va + 0x80000 + ldrBase l.cfg + 4 * ldrWords l.cfg * i) (4 * ldrWords l.cfg) (ofWords e)) s) s
    let s := copyOut s w (locVault die quad 0x7E0000) (va + 0xC0000) 131072
    let s := q.chans.zipIdx.foldl (fun s (c, i) => writeLong s w (va + 0xE0000 + 2048 * i) 2048 (ofWords c.words)) s
    let s := savePlane s w (va + 0xE8000) q.active
    let s := savePlane s w (va + 0xE8000 + 36864) q.shadow
    let s := q.mboxes.zipIdx.foldl (fun s (c, i) => sysPut s w (va + 0xFA000 + 64 * i) 64 (ofWords c.words)) s
    let ctl := va + 0xFA200
    let s := sysPut s w (ctl + 0x10) 64 (ofWords (q.chans.map (fun c => BitVec.ofNat 32 c.words.length)))
    let s := sysPut s w (ctl + 0x50) 32 (ofWords (q.mboxes.map (fun c => BitVec.ofNat 32 c.words.length)))
    let s := sysPut s w (ctl + 0x70) 1 q.mboxOvf.toNat
    let s := sysPut s w (ctl + 0x80) 64 (ofWords (q.launders.map (·.cfg)))
    let s := q.launders.zipIdx.foldl (fun s (l, i) => sysPut s w (ctl + 0xC0 + 8 * i) 8 l.entries.length) s
    let s := q.bins.zipIdx.foldl (fun s (b, i) => sysPut s w (ctl + 0x200 + 32 * i) 32 (binBytes b)) s
    sysPut (emptyQuad s die quad) w ctl 1 3

/-- The record of a spawned thread in the Ladle region (R168, R278; log entry 17). -/
def ladleOff (bin i : Nat) : Nat := 0x7E0000 + 3072 * bin + 32 * i

def ladleBytes (r : ThreadRec) : Nat :=
  packAt [(0, ofWords (r.v.take 4)), (16, (match r.ticket with | some _ => 1 | none => 0) + (match r.mig with | some _ => 2 | none => 0)),
    (20, (r.ticket.getD 0).toNat), (24, r.mig.getD 0)]

def ladleRec (x : Nat) : ThreadRec :=
  let f := fieldAt x 16 4
  { v := wordsOf 4 (fieldAt x 0 16), p := 0, ticket := if f % 2 = 1 then some (BitVec.ofNat 32 (fieldAt x 20 4)) else none,
    mig := if f / 2 % 2 = 1 then some (fieldAt x 24 4) else none }

/-! ## Spawn-bin templates (R276) -/

/-- A template as read: entry, timer, mode, regs, lds, class, prio, k0-k15, and whether every range holds. -/
structure Template where
  index : Nat
  entry : DWord
  timer : Nat
  mode : BitVec 16
  regs : Nat
  lds : Nat
  cclass : Nat
  prio : Nat
  ks : List Word
  valid : Bool
  deriving DecidableEq, Repr

def templateOf (i x : Nat) : Template :=
  let ctl := fieldAt x 0xE 1
  { index := i, entry := BitVec.ofNat 64 (fieldAt x 0 8), timer := fieldAt x 8 2, mode := BitVec.ofNat 16 (fieldAt x 0xA 2), regs := fieldAt x 0xC 1, lds := fieldAt x 0xD 1,
    cclass := ctl / 8 % 4, prio := ctl % 8, ks := wordsOf 16 (fieldAt x 0x10 64),
    valid := decide (64 ≤ fieldAt x 8 2 ∧ 1 ≤ fieldAt x 0xC 1 ∧ fieldAt x 0xC 1 ≤ 128 ∧ fieldAt x 0xD 1 ≤ 6) }

/-- The lowest template of an entry (R276). Its reads may fault. -/
def findTemplate (s : State) (die : Nat) (h : CtxHdr) (entry : DWord) : Nat → Nat → Except Err (Option Template)
  | 0, _ => .ok none
  | f + 1, i =>
    match sysRead s (sysWho die h.asid) (h.bintab.toNat + 128 * i) 128 with
    | .error e => .error e
    | .ok (_, x) => if BitVec.ofNat 64 (fieldAt x 0 8) = entry then .ok (some (templateOf i x)) else findTemplate s die h entry f (i + 1)

/-- The template of an entry in a context, if it has a valid one. -/
def templateFor (s : State) (die asid : Nat) (entry : DWord) : Except Err (State × Option Template) :=
  let s := needCtx s die asid
  match ctxOf s die asid with
  | none => .ok (s, none)
  | some h => (findTemplate s die h entry h.nbin 0).map (fun t => (s, t))

/-- Load a context's valid quad block into the quad, and clear valid (R386). -/
def loadQuadBlock (s : State) (die quad asid : Nat) : State :=
  let s := needCtx s die asid
  match ctxOf s die asid with
  | none => s
  | some h =>
    let w := sysWho die asid
    match sourceDie s die asid (fun d => decide (sysGet s w (quadBlockVa h d quad + 0xFA200) 1 % 2 = 1)) with
    | some d =>
      let va := quadBlockVa h d quad
      let ctl := va + 0xFA200
      let s := copyIn s w (locTile die quad 0) va 524288
      let s := copyIn s w (locVault die quad 0x7E0000) (va + 0xC0000) 131072
      let cc := wordsOf 16 (sysGet s w (ctl + 0x10) 64)
      let mc := wordsOf 8 (sysGet s w (ctl + 0x50) 32)
      let chans := (List.range 16).map (fun i => { Chan.empty with words := wordsOf (min (cc.getD i 0).toNat 512) (ofBytes (readLong s w (va + 0xE0000 + 2048 * i) 2048)) })
      let mboxes := (List.range 8).map (fun i => { Chan.empty with words := wordsOf (min (mc.getD i 0).toNat 16) (sysGet s w (va + 0xFA000 + 64 * i) 64) })
      let cfgs := wordsOf 16 (sysGet s w (ctl + 0x80) 64)
      let launder (i : Nat) : Launder :=
        let cfg := cfgs.getD i 0 &&& 0xF3FFFFFF
        let n := min (sysGet s w (ctl + 0xC0 + 8 * i) 8) (ldrDepth cfg)
        { cfg := cfg, entries := (List.range n).map (fun j => wordsOf (ldrWords cfg) (sysGet s w (va + 0x80000 + ldrBase cfg + 4 * ldrWords cfg * j) (4 * ldrWords cfg))), waiters := [] }
      let bin (i : Nat) : Bin :=
        let x := sysGet s w (ctl + 0x200 + 32 * i) 32
        if fieldAt x 11 1 = 0 then Bin.reset
        else
          let t := templateOf (fieldAt x 16 4) (sysGet s w (h.bintab.toNat + 128 * fieldAt x 16 4) 128)
          { state := if fieldAt x 11 1 = 2 then .launching else .filling, entry := BitVec.ofNat 64 (fieldAt x 0 8), asid := fieldAt x 8 2,
            recs := (List.range (min (fieldAt x 10 1) 96)).map (fun j => ladleRec (s.rd (locVault die quad (ladleOff i j)) 32)), elapsed := fieldAt x 12 4,
            tindex := t.index, timer := t.timer, mode := t.mode, regs := t.regs, lds := t.lds, cclass := t.cclass, prio := t.prio, ks := t.ks,
            since := fieldAt x 20 8, saved := false }
      let planesOk := sysGet s w ctl 1 / 2 % 2 = 1
      let act := if planesOk then loadPlane s w (va + 0xE8000) else Plane.invalid
      let shd := if planesOk then loadPlane s w (va + 0xE8000 + 36864) else Plane.invalid
      let ovf := BitVec.ofNat 8 (sysGet s w (ctl + 0x70) 1)
      let s := s.modQuad die quad (fun q => { q with
        chans := chans, mboxes := mboxes, mboxOvf := ovf, launders := (List.range 16).map launder, bins := (List.range 32).map bin, active := act, shadow := shd })
      sysPut s w ctl 1 0
    | none => s

/-- Whether a context's block for a quad is still valid (R386). -/
def quadBlockValid (s : State) (die quad asid : Nat) : Bool :=
  match ctxOf s die asid with
  | none => false
  | some h => (sourceDie s die asid (fun d => decide (sysGet s (sysWho die asid) (quadBlockVa h d quad + 0xFA200) 1 % 2 = 1))).isSome

/-! ## Slot areas and reservation entries (R333, R334) -/

/-- Save and free the slots of a context in a quad: the mapped bitmap goes to the control area (R384 step 4). -/
def saveSlots (s : State) (die quad asid : Nat) : State :=
  match ctxOf s die asid with
  | none => s
  | some h =>
    let w := sysWho die asid
    let q := s.quad die quad
    let mine := q.slots.zipIdx.filterMap (fun (t, i) => match t with | some t => if t.asid = asid then some (t.slot, i) else none | none => none)
    if mine.isEmpty then s
    else
      let s := mine.foldl (fun s (l, i) => copyOut s w (locAcc die quad (i * slotBytes quad)) (slotAreaVa h die quad + l * slotBytes quad) (slotBytes quad)) s
      let s := sysPut s w (quadBlockVa h die quad + 0xFA200 + 0x140) 8 (mine.foldl (fun m (l, _) => m ||| 2 ^ l) 0)
      s.modQuad die quad (fun q => { q with slots := q.slots.map (fun t => match t with | some t => if t.asid = asid then none else some t | none => none) })

/-- The bitmap of the slots that a block holds saved. -/
def slotBitmap (s : State) (h : CtxHdr) (die quad : Nat) : Nat := sysGet s (sysWho die h.asid) (quadBlockVa h die quad + 0xFA200 + 0x140) 8

/-- The first free physical slot of a quad. -/
def freeSlot (q : Quad) : Option Nat := q.slots.findIdx? (·.isNone)

/-- The die whose saved slots are mapped again in a quad (R334). -/
def slotSource (s : State) (h : CtxHdr) (die quad : Nat) : Option Nat := sourceDie s die h.asid (fun d => decide (slotBitmap s h d quad ≠ 0))

/-- How many slots a restoration to a quad maps again. -/
def slotsSaved (s : State) (die quad asid : Nat) : Nat :=
  match ctxOf s die asid with
  | none => 0
  | some h => match slotSource s h die quad with
    | none => 0
    | some d => (rangeWhere 64 (fun l => (slotBitmap s h d quad).testBit l)).length

/-- Map the saved slots of a context again, all of them, once as many are free (R334, R386). -/
def loadSlots (s : State) (die quad asid : Nat) : State :=
  match ctxOf s die asid with
  | none => s
  | some h =>
    match slotSource s h die quad with
    | none => s
    | some d =>
      let w := sysWho die asid
      if ((s.quad die quad).slots.filter (·.isNone)).length < slotsSaved s die quad asid then s else
      let s := (rangeWhere 64 (fun l => (slotBitmap s h d quad).testBit l)).foldl (fun s l =>
        match freeSlot (s.quad die quad) with
        | none => s
        | some i =>
          let s := s.modQuad die quad (fun q => { q with slots := setAt q.slots i (some { asid := asid, slot := l }) })
          copyIn s w (locAcc die quad (i * slotBytes quad)) (slotAreaVa h d quad + l * slotBytes quad) (slotBytes quad)) s
      sysPut s w (quadBlockVa h d quad + 0xFA200 + 0x140) 8 0

def resvVa (h : CtxHdr) (die quad i : Nat) : Nat := quadBlockVa h die quad + 0xFA200 + 0x1000 + 64 * i

/-- The entries that a context's block of a quad holds: from the first on, until one whose poster serial is 0. -/
def savedResv (s : State) (h : CtxHdr) (die quad : Nat) : List Nat :=
  ((List.range 64).map (fun i => sysGet s (sysWho die h.asid) (resvVa h die quad i) 64)).takeWhile (fun x => decide (fieldAt x 20 4 ≠ 0))

/-- Write the list of a block's entries, with an empty one behind it. -/
def putResv (s : State) (h : CtxHdr) (die quad : Nat) (xs : List Nat) : State :=
  ((xs ++ [0]).take 64).zipIdx.foldl (fun s (x, i) => sysPut s (sysWho die h.asid) (resvVa h die quad i) 64 x) s

/-- Save and remove a context's posted entries of a quad, in post order, behind those that have not been posted again yet (R333). -/
def saveResv (s : State) (die quad asid : Nat) : State :=
  match ctxOf s die asid with
  | none => s
  | some h =>
    let mine := sortBy (fun a b => decide (a.order < b.order)) ((s.quad die quad).resv.filterMap (fun r => match r with | some r => if r.asid = asid then some r else none | none => none))
    if mine.isEmpty then s
    else
      let s := putResv s h die quad (savedResv s h die quad ++ mine.map (fun r =>
        packAt [(0, ofWords (r.payload.take 4)), (16, r.place.toNat), (20, r.serial.toNat), (24, r.tag.toNat), (28, r.prio), (32, r.order)]))
      s.modQuad die quad (fun q => { q with resv := q.resv.map (fun r => match r with | some r => if r.asid = asid then none else some r | none => none) })

/-- Post one entry of a block in a free place of the table. -/
def postAgain (asid quad die : Nat) (s : State) (x : Nat) : State :=
  match (s.quad die quad).resv.findIdx? (·.isNone) with
  | none => s
  | some j =>
    let r : Resv := { asid := asid, place := BitVec.ofNat 32 (fieldAt x 16 4), serial := BitVec.ofNat 32 (fieldAt x 20 4), prio := fieldAt x 28 1,
                      payload := wordsOf 4 (fieldAt x 0 16), order := s.seq, tag := BitVec.ofNat 32 (fieldAt x 24 4) }
    (s.modQuad die quad (fun q => { q with resv := setAt q.resv j (some r) })).tickSeq

/-- The die whose saved entries a quad posts again. -/
def resvSource (s : State) (h : CtxHdr) (die quad : Nat) : Option Nat :=
  sourceDie s die h.asid (fun d => decide (sysGet s (sysWho die h.asid) (resvVa h d quad 0 + 20) 4 ≠ 0))

/-- Post a context's saved entries again in their saved order, as many as the table has places for; the others wait in the block, ahead of any later
post (R333). -/
def loadResv (s : State) (die quad asid : Nat) : State :=
  match ctxOf s die asid with
  | none => s
  | some h =>
    match resvSource s h die quad with
    | none => s
    | some d =>
      let xs := savedResv s h d quad
      let n := ((s.quad die quad).resv.filter (·.isNone)).length
      putResv ((xs.take n).foldl (postAgain asid quad die) s) h d quad (xs.drop n)

/-- Entries of a context still wait in its Flask to be posted on a quad. -/
def resvWaiting (s : State) (die quad asid : Nat) : Bool := (ctxOf s die asid).elim false (fun h => (resvSource s h die quad).isSome)

/-- The bins of a context on a quad time and launch again. -/
def wakeBins (s : State) (die quad asid : Nat) : State :=
  if (s.quad die quad).bins.any (fun b => b.saved && decide (b.asid = asid)) then
    s.modQuad die quad (fun q => { q with bins := q.bins.map (fun b => if b.asid = asid then { b with saved := false } else b) })
  else s

/-- What comes back to a die with a unit of a context that is placed there: its reservation entries, its bins, and its slots where enough are free (R284,
R333, R334, R386). -/
def comeBack (s : State) (die asid : Nat) : State :=
  (List.range 60).foldl (fun s q => wakeBins (loadResv (loadSlots s die q asid) die q asid) die q asid) s

end Sys2Proof.Machine
end

