-- ==== Sys2Proof/Machine/Units.lean ====
section
/-! DEFINITION. Registers, slices, gangs and strands of a unit; the creation, waiting, tokens, exit and destruction of units
(R16 to R18, R28 to R31, R42 to R46, R54, R135 to R140, R144, R171, R214 to R219, R230, R249, R390). -/

namespace Sys2Proof.Machine

/-! ## Registers -/

def Regs.getV (r : Regs) (lane i : Nat) : Word := smGet 0 r.v (128 * lane + i)
def Regs.setV (r : Regs) (lane i : Nat) (x : Word) : Regs := { r with v := smSet 0 r.v (128 * lane + i) x }
def Regs.getK (r : Regs) (i : Nat) : Word := smGet 0 r.k i
def Regs.setK (r : Regs) (i : Nat) (x : Word) : Regs := { r with k := smSet 0 r.k i x }
def Regs.getP (r : Regs) (i lane : Nat) : Bool := (r.p.getD i 0).getLsbD lane
def setMaskBit (m : LaneMask) (lane : Nat) (b : Bool) : LaneMask := if b then m ||| BitVec.ofNat 96 (2 ^ lane) else m &&& ~~~(BitVec.ofNat 96 (2 ^ lane))
def Regs.setP (r : Regs) (i lane : Nat) (b : Bool) : Regs := { r with p := modAt r.p i (fun m => setMaskBit m lane b) }
def Regs.setPs (r : Regs) (i : Nat) (m : LaneMask) : Regs := { r with p := setAt r.p i m }

/-! ## Slices (R42, R135 to R139) -/

/-- The waiting lanes of a slice: those in its resume entries (R135). -/
def Slice.waiting (sl : Slice) : BitVec 4 := sl.rstack.foldl (fun m e => m ||| e.mask) 0

/-- Act on the top entry of the reconvergence stack (R138); forced: the pc rule of R139. -/
def Slice.popTop (sl : Slice) (forced : Bool) : Slice :=
  match sl.rstack with
  | [] => sl
  | e :: rest =>
    if e.mask ≠ 0 then { sl with rstack := rest, active := e.mask &&& sl.live, pc := e.pc }
    else
      let s' := { sl with rstack := rest }
      { s' with active := sl.live &&& ~~~s'.waiting, pc := if forced then e.pc else sl.pc }

/-- The arrival test of R138 and the rule of R139, repeated. -/
def Slice.settle : Nat → Slice → Slice
  | 0, sl => sl
  | f + 1, sl =>
    if sl.live = 0 then sl
    else if sl.active = 0 then (if sl.rstack.isEmpty then sl else Slice.settle f (sl.popTop true))
    else
      match sl.rstack.find? (fun e => decide (e.mask = 0)) with
      | some j => if sl.pc = j.pc then Slice.settle f (sl.popTop false) else sl
      | none => sl

def Slice.arrive (sl : Slice) : Slice := sl.settle (sl.rstack.length + 1)

/-- The arrival test of R138 where a pc was set from outside the slice's own instructions: a slice that stands at the join PC of its topmost join entry
acts on the top entry, and repeats the test. -/
def Slice.arrived (sl : Slice) : Slice :=
  match sl.rstack.find? (fun e => decide (e.mask = 0)) with
  | some j => if sl.pc = j.pc then (sl.popTop false).arrive else sl
  | none => sl

/-- The end of a loop body (R142): the slice has completed the instruction at a and its next pc is a + 4. -/
def endOfBody (a : DWord) : List LEntry → List LEntry × Option DWord
  | [] => ([], none)
  | e :: rest =>
    if e.last = a then
      (if e.count - 1 ≠ 0 then ({ e with count := e.count - 1 } :: rest, some e.start) else endOfBody a rest)
    else (e :: rest, none)

def Slice.loopEnd (sl : Slice) (a : DWord) : Slice :=
  if sl.pc = a + 4 then
    let (ls, t) := endOfBody a sl.lstack
    { sl with lstack := ls, pc := t.getD sl.pc }
  else sl

/-! ## Gangs and strands (R17, R18, R31) -/

def Unit.slice (u : Unit) (i : Nat) : Slice := u.slices.getD i blankSlice

/-- The live slices of a gang. -/
def Unit.gangSlices (u : Unit) (g : Nat) : List Nat := rangeWhere u.slices.length (fun i => decide ((u.slice i).live ≠ 0) && decide ((u.slice i).gang = g))

/-- The live slices of a strand. -/
def Unit.strandSlices (u : Unit) (t : Nat) : List Nat := rangeWhere u.slices.length (fun i => decide ((u.slice i).live ≠ 0) && decide ((u.slice i).strand = t))

def Unit.liveSlices (u : Unit) : List Nat := rangeWhere u.slices.length (fun i => decide ((u.slice i).live ≠ 0))

/-- The gangs that have a live slice. -/
def Unit.gangs (u : Unit) : List Nat := dedup (u.liveSlices.map (fun i => (u.slice i).gang))

/-- The lanes of slices whose bit is set in a per-slice mask. -/
def lanesIn (f : Nat → BitVec 4) (is : List Nat) : List Nat := is.flatMap (fun i => (rangeWhere 4 (fun b => (f i).getLsbD b)).map (fun b => 4 * i + b))

def Unit.liveLanes (u : Unit) : List Nat := lanesIn (fun i => (u.slice i).live) u.liveSlices

/-- Index a gang or strand by its lowest live slice (R17, R31). -/
def lowestWith (u : Unit) (f : Slice → Nat) (x : Nat) : Nat := ((u.liveSlices.filter (fun i => decide (f (u.slice i) = x))).head?).getD x

def Unit.normalise (u : Unit) : Unit :=
  { u with
    slices := u.slices.map (fun sl => if sl.live = 0 then sl else { sl with gang := lowestWith u (·.gang) sl.gang, strand := lowestWith u (·.strand) sl.strand }),
    ctl := { u.ctl with skipBp := u.ctl.skipBp.map (fun x => (lowestWith u (·.gang) x.1, x.2)) },
    book := { u.book with
      udone := u.book.udone.map (fun x => { x with strand := lowestWith u (·.strand) x.strand }),
      sleeps := u.book.sleeps.map (fun x => { x with gang := lowestWith u (·.gang) x.gang }),
      held := u.book.held.map (fun x => { x with gang := lowestWith u (·.gang) x.gang }) } }

/-- The parts of a gang by next pc, each a list of slices; the part of the lowest slice is first. -/
def partsByPc (u : Unit) : List Nat → List (List Nat) → List (List Nat)
  | [], acc => acc
  | i :: is, acc =>
    let pc := (u.slice i).pc
    if acc.any (fun p => decide ((u.slice (p.headD 0)).pc = pc)) then partsByPc u is (acc.map (fun p => if (u.slice (p.headD 0)).pc = pc then p ++ [i] else p))
    else partsByPc u is (acc ++ [[i]])

/-- The strand of a slice after its gang has split into parts (R31): a slice of the gang goes with the slices of its strand in its part; the slices of
the strand in other gangs stay with the part that holds the strand's lowest slice in the gang. -/
def strandAfter (u : Unit) (parts : List (List Nat)) (i : Nat) : Nat :=
  let t := (u.slice i).strand
  let mine (p : List Nat) : List Nat := p.filter (fun j => decide ((u.slice j).strand = t))
  let heads := (parts.map mine).filter (fun p => !p.isEmpty)
  if heads.length ≤ 1 then t
  else
    match heads.find? (fun p => p.contains i) with
    | some p => if heads.all (fun q => decide (p.headD 0 ≤ q.headD 0)) then t else 100 + p.headD 0
    | none => t

/-- Split a gang whose slices have reached different pcs (R18), and its strands (R31). -/
def Unit.split (u : Unit) (g : Nat) : Unit :=
  let is := u.gangSlices g
  let parts := partsByPc u is []
  if parts.length ≤ 1 then u
  else
    let newGang (i : Nat) : Nat := match parts.find? (fun p => p.contains i) with | some p => p.headD i | none => (u.slice i).gang
    let upd := u.slices.zipIdx.map (fun (sl, i) => if sl.live = 0 then sl else { sl with gang := newGang i, strand := strandAfter u parts i })
    -- a new part of a strand keeps the dynamic instances that the strand has executed
    let fresh := dedup (upd.filterMap (fun sl => if sl.live ≠ 0 ∧ 100 ≤ sl.strand then some sl.strand else none))
    let copies := fresh.flatMap (fun t =>
      let old := ((u.liveSlices.filter (fun i => decide ((upd.getD i blankSlice).strand = t))).head?.map (fun i => (u.slice i).strand)).getD 0
      (u.book.udone.filter (fun x => decide (x.strand = old))).map (fun x => { x with strand := t }))
    Unit.normalise { u with slices := upd, book := { u.book with udone := u.book.udone ++ copies } }

/-- Before a gang issues, its slices make the arrival test, and part where their pcs differ: a redirect, a return or the debug window may have set
them (R18, R53, R138). -/
def Unit.poise (u : Unit) (g : Nat) : Unit :=
  let is := u.gangSlices g
  if is.all (fun i => decide ((u.slice i).arrived = u.slice i ∧ (u.slice i).pc = (u.slice (is.headD 0)).pc)) then u
  else Unit.normalise (Unit.split { u with slices := is.foldl (fun ss i => modAt ss i Slice.arrived) u.slices } g)

/-- Forget the executed instances that every live slice of their strand has passed. -/
def Unit.pruneDone (u : Unit) : Unit :=
  if u.book.udone.isEmpty then u
  else
    u.modBook (fun b => { b with udone := b.udone.filter (fun x =>
      (u.strandSlices x.strand).any (fun i => decide (smGet 0 (u.slice i).passes x.pc ≤ x.n))) })

/-! ## Retiring lanes (R139, R144) -/

def laneSlice (l : Nat) : Nat := l / 4
def laneBit (l : Nat) : BitVec 4 := BitVec.ofNat 4 (2 ^ (l % 4))

/-- The lanes of slice i in a list, as a slice mask. -/
def sliceMask (ls : List Nat) (i : Nat) : BitVec 4 := (ls.filter (fun l => decide (l / 4 = i))).foldl (fun m l => m ||| laneBit l) 0

/-- The doomed lanes of a slice that no resume entry holds (R222, R224). -/
def Unit.doomedIn (u : Unit) (i : Nat) : BitVec 4 :=
  (sliceMask ((u.tx.filter (fun (_, t) => t.doomed)).map (·.1)) i) &&& (u.slice i).live &&& ~~~(u.slice i).waiting

/-- The TXE of the lowest doomed lane of a slice. -/
def Unit.txeOf (u : Unit) (i : Nat) : DWord := (smGet LaneTx.idle u.tx ((lanesIn u.doomedIn [i]).headD (4 * i))).txe

/-- A slice whose active lanes are all doomed goes to their TXE (R222). -/
def Unit.toTxe (u : Unit) (i : Nat) : Unit :=
  let sl := u.slice i
  if sl.live ≠ 0 ∧ sl.active = 0 ∧ u.doomedIn i ≠ 0 then
    { u with
      slices := setAt u.slices i { sl with pc := u.txeOf i, atRegang := false },
      ctl := { u.ctl with done := u.ctl.done &&& ~~~(maskOf [4 * i, 4 * i + 1, 4 * i + 2, 4 * i + 3]) } }
  else u

/-- A gang that no longer stands at its SLEEP has left it (R158). -/
def Unit.pruneSleeps (u : Unit) : Unit :=
  if u.book.sleeps.isEmpty then u
  else u.modBook (fun b => { b with sleeps := b.sleeps.filter (fun x => u.liveSlices.any (fun i => decide ((u.slice i).gang = x.gang ∧ (u.slice i).pc = x.pc))) })

/-- Every slice whose active lanes are all doomed goes to its TXE, and gangs split where that parts them (R18, R222). -/
def Unit.doomGo (u : Unit) : Unit :=
  let u := u.liveSlices.foldl Unit.toTxe u
  (Unit.normalise (u.gangs.foldl Unit.split u)).pruneSleeps

/-- Clear lanes from their slices' live and active masks; they leave their transactions. -/
def Unit.retire (u : Unit) (ls : List Nat) : Unit :=
  { u with
    slices := u.slices.zipIdx.map (fun (sl, i) => let m := sliceMask ls i; { sl with live := sl.live &&& ~~~m, active := sl.active &&& ~~~m }),
    tx := u.tx.filter (fun (l, _) => !ls.contains l),
    tickets := u.tickets.filter (fun (l, _) => !ls.contains l) }

/-! ## Creation (R54, R249) -/

/-- The next serial of a context: n32 from 1, skipping 0 (R249). -/
def takeSerial (s : State) (asid : Nat) : State × Word :=
  let x := smGet 1 s.serials asid
  ({ s with serials := smPut s.serials asid (if x + 1 = 0 then 1 else x + 1) }, x)

/-- The slices of a fresh wave whose live lanes a predicate gives (R17, R42, R277). -/
def waveSlices (entry : DWord) (live : Nat → Bool) : List Slice :=
  (List.range 24).map (fun i =>
    let m : BitVec 4 := BitVec.ofNat 4 ((rangeWhere 4 (fun b => live (4 * i + b))).foldl (fun m b => m + 2 ^ b) 0)
    { blankSlice with pc := entry, live := m, active := m, gang := i / 8 * 8 })

def threadSlices (entry : DWord) : List Slice := [{ blankSlice with pc := entry, live := 1, active := 1 }]

/-- Add a unit with a fresh serial and age. A supervisor thread takes none of a context's serials; its number only tells it from earlier ones. -/
def addUnit (s : State) (p : Place) (e : Engine) (asid : Nat) (f : Unit → Unit) : State :=
  let (s, sr) := if e = .sup then (s, BitVec.ofNat 32 s.seq) else takeSerial s asid
  let u := f (blankUnit p e asid sr)
  { s with units := s.units ++ [u.modIdent (fun i => { i with age := s.seq })], seq := s.seq + 1 }

def unitsOn (s : State) (die core : Nat) : List Unit := s.units.filter (fun u => decide (u.place.die = die ∧ u.place.core = core))

/-- R171: a unit of this ASID and split may be placed on a core that is empty or already holds both. -/
def coreTakes (s : State) (die core asid lds : Nat) : Bool :=
  let k := s.core die core
  (unitsOn s die core).isEmpty || (decide (k.owner = some asid) && decide (k.split = lds))

/-- The lowest free hardware thread of a core (R149), numbered 8 × swarm core + thread. -/
def freeThread (s : State) (die core : Nat) : Option Nat :=
  (List.range 128).find? (fun t => (s.unit? { die := die, core := core, unit := 0x40 + t }).isNone)

def freeMcc (s : State) (die quad : Nat) : Option Nat :=
  (List.range 4).find? (fun t => (s.unit? { die := die, core := 4 * quad, unit := 0xC0 + t }).isNone)

def freeSup (s : State) (die sc : Nat) : Option Nat :=
  (List.range 4).find? (fun t => (s.unit? { die := die, core := 240 + sc, unit := t }).isNone)

/-- Free slots of a core, and the waves of its unit u. -/
def slotsFree (s : State) (die core : Nat) : Nat := 64 - ((unitsOn s die core).filter (fun u => u.isWave)).length
def wavesOf (s : State) (die core u : Nat) : Nat := ((unitsOn s die core).filter (fun x => x.isWave && decide (x.place.unit / 16 = u))).length
def regBytesUsed (s : State) (die core : Nat) : Nat := ((unitsOn s die core).filter (fun u => u.isWave)).foldl (fun n u => n + u.ident.regs * 384) 0

/-- Whether a wave fits on a core (R274). -/
def waveFits (s : State) (die core asid lds regs : Nat) : Bool :=
  coreTakes s die core asid lds && decide (0 < slotsFree s die core) && decide (regBytesUsed s die core + regs * 384 ≤ 786432) && !(s.core die core).stop

/-- The slot of a core that a wave takes: the unit with the fewest waves, then the lowest, then its lowest free slot (R274). -/
def pickSlot (s : State) (die core : Nat) : Option Nat :=
  let us := (List.range 4).filter (fun u => decide (wavesOf s die core u < 16))
  let best := us.foldl (fun b u => match b with | none => some u | some x => if wavesOf s die core u < wavesOf s die core x then some u else some x) none
  match best with
  | none => none
  | some u => ((List.range 16).map (fun i => 16 * u + i)).find? (fun x => (s.unit? { die := die, core := core, unit := x }).isNone)

/-- Among eligible cores, the one with the most free slots, then the lowest number (R274). -/
def pickCore (s : State) (die : Nat) (cores : List Nat) : Option Nat :=
  cores.foldl (fun b c => match b with | none => some c | some x => if slotsFree s die x < slotsFree s die c then some c else some x) none

/-- The cores of a die whose quad kind a record's kind allows (R269, R274). -/
def coresOfKind (kind : Nat) : List Nat :=
  (List.range 240).filter (fun c => decide (kind = 2) || decide (quadKind (c / 4) = kind))

/-! ## Waiters (R214 to R219, R259) -/

def waiterBase (s : State) (die : Nat) : Nat := paOf s die (bits (s.die die).regs.waiterCfg 31 12 * 2 ^ 21 % 2 ^ 41)
def waiterCap (s : State) (die : Nat) : Nat := bits (s.die die).regs.waiterCfg 11 0 * 65536

/-- A waiter record as the bytes of the waiter area now give it: another function of the device may have written there (R259, R297). -/
def Waiter.stands (s : State) (die : Nat) (w : Waiter) : Waiter :=
  let x := s.rd (waiterBase s die + 32 * w.idx) 32
  let place := BitVec.ofNat 32 (fieldAt x 12 4)
  { w with
    va := BitVec.ofNat 64 (fieldAt x 0 8), asid := fieldAt x 8 2, bwait := decide (fieldAt x 10 1 = 1), saved := decide (fieldAt x 11 1 % 2 = 1),
    place := if place = placeWord w.place (ownPkg s) then w.place else pwPlace place, serial := BitVec.ofNat 32 (fieldAt x 16 4), lane := fieldAt x 20 1 }

/-- The records of a die that are linked. -/
def linked (s : State) (die : Nat) : List Waiter := ((s.die die).waiters.filter (fun w => w.res.isNone)).map (Waiter.stands s die)

def freeWaiter (s : State) (die : Nat) : Option Nat :=
  let used := (linked s die).map (·.idx)
  if waiterCap s die ≤ used.length then none
  else ((List.range (used.length + 1)).filter (fun i => !used.contains i)).head?

/-- Write a record without its link (R259). -/
def writeWaiter (s : State) (die : Nat) (w : Waiter) : State :=
  s.wr (waiterBase s die + 32 * w.idx) 24 (packAt [(0, w.va.toNat), (8, w.asid), (10, if w.bwait then 1 else 0), (11, if w.saved then 1 else 0),
    (12, (placeWord w.place (ownPkg s)).toNat), (16, w.serial.toNat), (20, w.lane)])

/-- Write the links of one queue's records (R259). -/
def linkWaiters (s : State) (die : Nat) : List Waiter → State
  | [] => s
  | w :: ws =>
    let next := match ws with | [] => 0xFFFFFFFF | x :: _ => x.idx
    linkWaiters (s.wr (waiterBase s die + 32 * w.idx + 24) 8 next) die ws

def mirrorWaiters (s : State) (die key asid : Nat) : State :=
  linkWaiters s die ((s.die die).waiters.filter (fun w => decide (w.key = key ∧ w.asid = asid) && w.res.isNone))

/-- Link a lane at the tail of a location's queue; none when the area holds no free record (R216). -/
def linkWaiter (s : State) (die key : Nat) (va : DWord) (u : Unit) (asid lane : Nat) (bwait : Bool) : Option State :=
  match freeWaiter s die with
  | none => none
  | some i =>
    let w : Waiter := { idx := i, key := key, va := va, asid := asid, bwait := bwait, place := u.place, serial := senderSerial u, lane := lane, saved := false, res := none }
    some (mirrorWaiters (writeWaiter (s.modDie die (fun d => { d with waiters := d.waiters ++ [w] })) die w) die key asid)

/-- Whether a record is a unit's: a supervisor thread's by its place, any other's by its ASID and serial (R249). -/
def Waiter.ofUnit (w : Waiter) (u : Unit) : Bool :=
  if u.isSup then decide (w.place = u.place) else decide (w.serial = u.ident.serial ∧ w.asid = u.ident.asid ∧ w.place.core < 240)

/-- Give a released waiter its value: to its lane, or kept with the record of a saved lane (R216). -/
def releaseWaiter (s : State) (die : Nat) (w : Waiter) (val : Word) : State :=
  let this (x : Waiter) : Bool := decide (x.idx = w.idx) && x.res.isNone
  if w.saved then s.modDie die (fun d => { d with waiters := d.waiters.map (fun x => if this x then { x with res := some val } else x) })
  else
    let s := s.modDie die (fun d => { d with waiters := d.waiters.filter (fun x => !this x) })
    { s with units := s.units.map (fun u =>
        if w.ofUnit u then
          u.modBook (fun b => { b with waits := b.waits.map (fun x => if x.lane = w.lane ∧ x.stall = none then { x with res := some val } else x) })
        else u) }

/-- Release the first n waiters of a location of one kind, in arrival order; answer how many (R215). -/
def releaseFirst (s : State) (die key asid : Nat) (bwait : Bool) (n : Nat) (val : Word) : State × Nat :=
  let q := ((linked s die).filter (fun w => decide (w.key = key ∧ w.asid = asid ∧ w.bwait = bwait))).take n
  (mirrorWaiters (q.foldl (fun s w => releaseWaiter s die w val) s) die key asid, q.length)

/-- Unlink every record of a unit, each with its value (R389 action 5; R390). -/
def releaseUnitWaiters (s : State) (u : Unit) : State :=
  (List.range 4).foldl (fun s d =>
    ((linked s d).filter (fun w => w.ofUnit u)).foldl (fun s w =>
      mirrorWaiters (releaseWaiter s d w (if w.bwait then 0xFFFFFFFF else 2)) d w.key w.asid) s) s

/-! ## Tokens (R48, R230) -/

/-- Write a word to a v or k register in the given lanes (a k register once). -/
def Regs.putToken (r : Regs) (f : Fld) (lanes : LaneMask) (x : Word) : Regs :=
  if f.toNat < 0x80 then (lanesOf lanes).foldl (fun r l => r.setV l f.toNat x) r
  else r.setK (f.toNat - 0x80) x

/-- Whether a unit is the issuer of a command or batch. -/
def issuedBy (u : Unit) (asid : Nat) (serial : Word) (sup : Bool) (p : Place) : Bool :=
  decide (u.ident.serial = serial) && decide (u.isSup = sup) && (if sup then decide (u.place = p) else decide (u.ident.asid = asid))

/-- Write a token to its issuer's register, or into the record of an issuer that is saved (R230, R380). -/
def writeToken (s : State) (asid : Nat) (serial : Word) (sup : Bool) (p : Place) (f : Fld) (lanes : LaneMask) (scope : Nat) (x : Word) : State :=
  -- an engine's scope 0 is scope 1 (R15)
  let due : TokenDue := { f := f, lanes := lanes, scope := if scope = 0 then 1 else scope }
  let mark (v : Saved) : Saved := if v.asid = asid ∧ v.serial = serial ∧ sup = false then { v with tokens := v.tokens ++ [due] } else v
  let marked (d : Die) : Die := { d with disp := { d.disp with saved := d.disp.saved.map mark } }
  let s := { s with dies := s.dies.map marked }
  if s.units.any (fun u => issuedBy u asid serial sup p) then
    { s with units := s.units.map (fun u => if issuedBy u asid serial sup p then (u.modRegs (fun r => r.putToken f lanes x)).modBook (fun b => { b with tokens := b.tokens ++ [due] }) else u) }
  else
    (List.range 4).foldl (fun s d =>
      match (s.die d).disp.saved.find? (fun v => decide (v.asid = asid ∧ v.serial = serial)), unitRecVa s d asid (((s.die d).disp.saved.find? (fun v => decide (v.asid = asid ∧ v.serial = serial))).map (·.recIdx) |>.getD 0) with
      | some _, some va =>
        let w := sysWho d asid
        if f.toNat < 0x80 then (lanesOf lanes).foldl (fun s l => sysPut s w (va + 0x4000 + 384 * f.toNat + 4 * l) 4 x.toNat) s
        else sysPut s w (va + 0x100 + 4 * (f.toNat - 0x80)) 4 x.toNat
      | _, _ => s) s

/-- A command ends: its token is written and its slot and entry are freed (R228, R230, R378). -/
def endCmd (s : State) (c : Cmd) (code : Nat) : State :=
  let s := { s with cmds := s.cmds.filter (fun x => decide (x.id ≠ c.id)) }
  let s := freeCmdEntry s c.die c.asid c.entry
  writeToken s c.asid c.serial c.sup c.issuer c.token c.lanes c.scope (BitVec.ofNat 32 code)

/-- A batch ends in the same way (R370). -/
def endBatch (s : State) (b : Batch) (code : Nat) : State :=
  let s := { s with batches := s.batches.filter (fun x => decide (x.id ≠ b.id)) }
  let s := freeCmdEntry s b.die b.asid b.entry
  writeToken s b.asid b.serial false b.issuer b.token b.lanes b.scope (BitVec.ofNat 32 code)

/-! ## The end of a unit (R144, R155, R378, R390) -/

/-- A transaction's locks and Risers are released (R227). -/
def freeRisers (s : State) (p : Place) (lane : Nat) : State :=
  { s with dies := s.dies.map (fun d => { d with riser := if d.riser = some (p, lane) then none else d.riser, riserQ := d.riserQ.filter (fun x => decide (x ≠ (p, lane))) }) }

def freeUnitRisers (s : State) (u : Unit) : State := u.tx.foldl (fun s (l, _) => freeRisers s u.place l) s

/-- The waiters that a predicate picks leave the orders of a core's channels, its quad's, its supervisor core's and the unit's own inbox. -/
def leaveQueues (s : State) (p : Place) (mine : QWait → Bool) : State :=
  let out (ws : List QWait) : List QWait := ws.filter (fun w => !mine w)
  let f (c : Chan) : Chan := { c with waiters := out c.waiters }
  let s := s.modUnit p (fun u => u.modBook (fun b => { b with inboxWaits := out b.inboxWaits }))
  if p.core < 240 then
    let s := s.modCore p.die p.core (fun k => { k with chans := k.chans.map f })
    s.modQuad p.die (quadOf p.core) (fun q => { q with chans := q.chans.map f, mboxes := q.mboxes.map f, launders := q.launders.map (fun l => { l with waiters := out l.waiters }) })
  else s.modSup p.die (p.core - 240) (fun k => { k with waiters := out k.waiters })

/-- The thread no longer waits at the reservation table or for a swap of its quad's planes, and its engine work is forgotten. -/
def leaveEngine (s : State) (p : Place) : State :=
  if p.core < 240 then
    s.modQuad p.die (quadOf p.core) (fun q => { q with resvWait := q.resvWait.filter (fun x => decide (x ≠ p)), jobs := q.jobs.filter (fun j => decide (j.place ≠ p)),
                                                       swapReq := if q.swapReq = some p then none else q.swapReq })
  else s

/-- Leave every queue a unit waits at, every Riser's, and the order at the waiter areas. -/
def dropQWaits (s : State) (p : Place) : State :=
  let left (d : Die) : Die :=
    { d with riser := (match d.riser with
                       | some x => if x.1 = p then none else some x
                       | none => none),
             riserQ := d.riserQ.filter (fun x => decide (x.1 ≠ p)),
             waitStalls := d.waitStalls.filter (fun x => decide (x.1 ≠ p)) }
  let s := { s with dies := s.dies.map left }
  let s := s.modUnit p (fun u => u.modBook (fun b => { b with held := [] }))
  leaveEngine (leaveQueues s p (fun w => decide (w.place = p))) p

/-- The messages that wait for a unit in the input buffers of its core and of its old placements' cores are discarded, uncounted (R253). -/
def dropWaiting (s : State) (u : Unit) : State :=
  let cores := (u.place.die, u.place.core) :: (s.forwards.filter (fun f => decide (f.asid = u.ident.asid ∧ f.serial = u.ident.serial))).map (fun f => (f.place.die, f.place.core))
  let kept (it : Item) : Bool := decide ((receiver s it).map (·.place) ≠ some u.place)
  if u.isSup then s else (dedup cores).foldl (fun t c => modInbuf t c.1 c.2 (fun q => q.filter kept)) s

def inboxOf (s : State) (u : Unit) : Inbox :=
  if u.isSup then (s.sup u.place.die (u.place.core - 240)).inbox
  else match s.unit? u.place with
    | some x => x.book.inbox
    | none => u.book.inbox

/-- Replace the inbox that a unit reads. -/
def putInbox (s : State) (u : Unit) (ib : Inbox) : State :=
  if u.isSup then s.modSup u.place.die (u.place.core - 240) (fun k => { k with inbox := ib }) else s.modUnit u.place (fun x => x.modBook (fun b => { b with inbox := ib }))

/-- The run of the message that a unit runs on ends (R409). -/
def endRun (s : State) (u : Unit) : State :=
  let now := nowOf s u.place.die
  let ib := inboxOf s u
  match ib.runTime now with
  | none => s
  | some t => putInbox (monEvent s u.place.die 4 u.ident.asid (quadOf u.place.core) false t) u (ib.endRun now)

/-- Remove a unit that has exited or been killed: its record is freed and it holds nothing any more. why: as R413. -/
def removeUnit (s : State) (u : Unit) (why : Nat) : State :=
  let s := endRun (endActivation s u.place why) u
  let s := dropWaiting (freeUnitRisers s u) u
  let s := dropQWaits s u.place
  let s := freeRec s u.place.die u.ident.asid u.ident.recIdx
  let s := { s with
    forwards := s.forwards.filter (fun f => decide (¬(f.asid = u.ident.asid ∧ f.serial = u.ident.serial))),
    grids := s.grids.map (fun (g : Grid) => if u.ident.grid = some g.id then { g with last := u.place.die } else g) }
  s.dropUnit u.place

/-- The reply of a CALLAT thread to its caller (R155, R251), with v0-v3. -/
def replyItem (s : State) (u : Unit) (c : Caller) : Item :=
  itemTo c.place c.serial u.ident.asid
    (messageWords 1 c.tag (senderWord s u) (senderSerial u) (nowOf s u.place.die) ((List.range 4).map (fun i => u.regs.getV 0 i)))

/-- Whether a caller's reply must be sent: a task from a supervisor's own image carries a caller too. -/
def sendReply (s : State) (u : Unit) : State :=
  match u.ident.caller with
  | none => s
  | some c => sendItem s u.place.die u.place.core (replyItem s u c)

/-- A ticket whose release waits for its context's return to the quad, or for its blender (R394; log entry 18). -/
def oweTicket (s : State) (die quad asid : Nat) (t : Word) : State := s.modQuad die quad (fun q => { q with owed := q.owed ++ [(asid, t)] })

/-- The blender's state of a quad is a context's: its tile memory is not in another's hands (R244, R396). -/
def blenderOf (s : State) (die quad asid : Nat) : Bool := decide (bits (s.quad die quad).chanOwner 15 0 = asid)

/-- Release tickets of a unit's lanes in order, as blends with pixel mask 0 (R394). It stops at the first that the blender cannot take: a wait, or a fault
on its spill area (R395, R396). -/
def releaseTickets (s : State) (u : Unit) : List (Nat × Word) → State × Option Err
  | [] => (s, none)
  | (l, t) :: rest =>
    let quad := quadOf u.place.core
    let gone (s : State) : State := s.modUnit u.place (fun x => { x with tickets := smDel x.tickets l })
    if blenderOf s u.place.die quad u.ident.asid then
      match releaseTicket s u.place.die quad t with
      | .ok s => releaseTickets (gone s) u rest
      | .error e => (s, some e)
    else releaseTickets (gone (oweTicket s u.place.die quad u.ident.asid t)) u rest

/-- Release the tickets of lanes that are destroyed: the blender owes those that it cannot take now (R390). -/
def dropTickets (s : State) (die quad asid : Nat) (ts : List Word) : State :=
  ts.foldl (fun s t =>
    if blenderOf s die quad asid then (match releaseTicket s die quad t with | .ok s => s | .error _ => oweTicket s die quad asid t)
    else oweTicket s die quad asid t) s

/-- What a quad's blender owes is released as far as it can be. -/
def payTickets (s : State) (die quad : Nat) : State :=
  match (s.quad die quad).owed with
  | [] => s
  | ts =>
    let mine (x : Nat × Word) : Bool := blenderOf s die quad x.1
    (ts.filter mine).foldl (fun s x => dropTickets s die quad x.1 [x.2]) (s.modQuad die quad (fun q => { q with owed := ts.filter (fun x => !mine x) }))

/-- Forget every waiter record that a predicate picks. -/
def dropWaiters (s : State) (mine : Waiter → Bool) : State :=
  (List.range 4).foldl (fun s d =>
    let out := (linked s d).filter mine
    let qs := dedup (out.map (fun w => (w.key, w.asid)))
    let gone (w : Waiter) : Bool := if w.res.isSome then mine w else out.any (fun x => decide (x.idx = w.idx))
    let s := s.modDie d (fun x => { x with waiters := x.waiters.filter (fun w => !gone w) })
    qs.foldl (fun s k => mirrorWaiters s d k.1 k.2) s) s

/-- A unit leaves the WAITs and BWAITs it stands at. -/
def leaveWaits (s : State) (u : Unit) : State :=
  (dropWaiters s (fun w => w.ofUnit u)).modUnit u.place (fun u => u.modBook (fun b => { b with waits := [] }))

/-- A unit is gone after all its lanes have retired (R144). -/
def exitUnit (s : State) (u : Unit) (why : Nat) : State :=
  let s := sendReply s u
  removeUnit s u why

/-! ## Spawn bins (R277) -/

/-- A bin that launches: it is full, or its timer has reached the template's value. -/
def Bin.launches (b : Bin) : Bool := !b.saved && (decide (b.state = .launching) || (decide (b.state = .filling ∧ b.timer ≤ b.elapsed) && !b.recs.isEmpty))

/-- The oldest bin of a key with room that is not launching. -/
def binFor (q : Quad) (asid : Nat) (entry : DWord) : Option Nat :=
  let c := q.bins.zipIdx.filter (fun (b, _) => decide (b.state = .filling ∧ b.asid = asid ∧ b.entry = entry) && !b.launches && !b.saved && decide (b.recs.length < 96))
  c.foldl (fun best (_, i) => match best with
    | none => some i
    | some j => if (q.bins.getD i Bin.reset).since < (q.bins.getD j Bin.reset).since then some i else some j) none

def freeBin (q : Quad) : Option Nat := q.bins.findIdx? (fun b => decide (b.state = .free))

/-- Put a record into bin i of a quad, and into the Ladle region (R278). -/
def putRec (s : State) (die quad i : Nat) (r : ThreadRec) : State :=
  let b := (s.quad die quad).bins.getD i Bin.reset
  let s := s.wr (locVault die quad (ladleOff i b.recs.length)) 32 (ladleBytes r)
  let full := decide (96 ≤ b.recs.length + 1)
  s.modQuad die quad (fun q => { q with bins := setAt q.bins i { b with recs := b.recs ++ [r], state := if full then .launching else .filling } })

/-- A thread record enters a bin (R277); `none`: no bin is free. -/
def binRecord (s : State) (die quad asid : Nat) (t : Template) (r : ThreadRec) : Option State :=
  let q := s.quad die quad
  match binFor q asid t.entry with
  | some i => some (putRec s die quad i r)
  | none =>
    match freeBin q with
    | none => none
    | some i =>
      let b : Bin := { state := .filling, entry := t.entry, asid := asid, recs := [], elapsed := 0, tindex := t.index, timer := t.timer, mode := t.mode, regs := t.regs,
                       lds := t.lds, cclass := t.cclass, prio := t.prio, ks := t.ks, since := s.seq, saved := false }
      let s := { s.modQuad die quad (fun q => { q with bins := setAt q.bins i b }) with seq := s.seq + 1 }
      some (putRec s die quad i r)

end Sys2Proof.Machine
end

