-- ==== Sys2Proof/Machine/Mem.lean ====
section
/-! DEFINITION. Loads, stores and read-modify-writes of a master: translated memory, the local store, vault, tile and accumulator windows, and
the physical window (R164 to R170, R184, R188, R317, R318). -/

namespace Sys2Proof.Machine

/-- What a window piece reaches. -/
inductive Spot where
  | translated
  | raw (loc : Nat)
  | acc (slot off : Nat)
  | phys (pa : Nat)
  deriving DecidableEq, Repr

/-- Whether a vault admits an accessor (R168, R169). -/
def vaultAdmits (s : State) (w : Who) (die quad : Nat) : Bool :=
  w.sup || (bit (s.quad die quad).vaultOwner 16 && decide (bits (s.quad die quad).vaultOwner 15 0 = w.asid))

/-- Where n bytes at va lie for a master (R164 to R168); they do not cross a 128-byte boundary. -/
def spot (s : State) (w : Who) (va n : Nat) : Except Err Spot :=
  let bad (c : Cause) : Except Err Spot := .error (.flt c (BitVec.ofNat 64 va))
  if 2 ^ 57 ≤ va + n - 1 then bad .prot
  else if va < 0x00F0000000000000 then .ok .translated
  else
    let win := va / 2 ^ 48
    let off := va % 2 ^ 48
    if win = 0x0F0 then
      match w.ls with
      | some c => if off + n ≤ (s.core w.die c).split * 65536 then .ok (.raw (locLs w.die c off)) else bad .window
      | none => bad .window
    else if win = 0x0F1 then
      let die := off / 2 ^ 32
      let quad := off / 2 ^ 24 % 256
      let o := off % 2 ^ 24
      if die < 4 ∧ quad < 60 ∧ o + n ≤ 0x7E0000 ∧ vaultAdmits s w die quad then .ok (.raw (locVault die quad o)) else bad .window
    else if win = 0x0F2 then
      (if w.tile = true ∧ off + n ≤ 0x80000 then .ok (.raw (locTile w.die w.quad off)) else bad .window)
    else if win = 0x0F3 then
      (if w.acc = true ∧ off + n ≤ 0x200000 then .ok (.acc (off / slotBytes w.quad) (off % slotBytes w.quad)) else bad .window)
    else if 0x100 ≤ win ∧ win < 0x120 then
      (if w.phys then .ok (.phys (va % 2 ^ 53)) else bad .window)
    else bad .window

/-! ## The accumulator slot map (R317) -/

/-- The physical slot of a logical slot. -/
def slotOf (s : State) (die quad asid l : Nat) : Option Nat := (s.quad die quad).slots.findIdx? (fun t => decide (t = some { asid := asid, slot := l }))

/-- The physical slot that a write takes: mapped, or newly mapped and cleared (R317). -/
def mapSlot (s : State) (die quad asid l : Nat) : Except Err (State × Nat) :=
  match slotOf s die quad asid l with
  | some i => .ok (s, i)
  | none =>
    let q := s.quad die quad
    match freeSlot q with
    | some i =>
      let s := s.zeroRange (locAcc die quad (i * slotBytes quad)) (slotBytes quad)
      .ok (s.modQuad die quad (fun q => { q with slots := setAt q.slots i (some { asid := asid, slot := l }) }), i)
    | none =>
      if q.slots.all (fun t => match t with | some t => decide (t.asid = asid) | none => true) then .error (.flt .acc 0) else .error (.wait .structural)

/-! ## Pieces -/

/-- Read n bytes within one 128-byte piece. -/
def readPiece (s : State) (w : Who) (need : Need) (va n : Nat) : Except Err (State × Nat) :=
  match spot s w va n with
  | .error e => .error e
  | .ok .translated => readLine s w need va n
  | .ok (.raw loc) => .ok (s, s.rd loc n)
  | .ok (.acc l off) =>
    match slotOf s w.die w.quad w.asid l with
    | some i => .ok (s, s.rd (locAcc w.die w.quad (i * slotBytes w.quad + off)) n)
    | none => .ok (s, 0)
  | .ok (.phys pa) => let s := physSettle s w.die pa; (physRead s pa n).map (fun v => (s, v))

/-- Everything that a write of a piece checks, without a byte written (R188). -/
def checkPiece (s : State) (w : Who) (need : Need) (va n : Nat) : Except Err State :=
  match spot s w va n with
  | .error e => .error e
  | .ok .translated => (checkLine s w need va).map (·.1)
  | .ok (.raw _) => .ok s
  | .ok (.acc l _) =>
    match mapSlot s w.die w.quad w.asid l with
    | .error (.flt c _) => .error (.flt c (BitVec.ofNat 64 va))
    | .error e => .error e
    | .ok _ => .ok s
  | .ok (.phys pa) => match physCheck s pa with
    | some e => .error e
    | none => .ok s

def writePiece (s : State) (w : Who) (va n v : Nat) : Except Err State :=
  match spot s w va n with
  | .error e => .error e
  | .ok .translated => writeLine s w va n v
  | .ok (.raw loc) => .ok (s.wr loc n v)
  | .ok (.acc l off) => (mapSlot s w.die w.quad w.asid l).map (fun (s, i) => s.wr (locAcc w.die w.quad (i * slotBytes w.quad + off)) n v)
  | .ok (.phys pa) => physWrite (physSettle s w.die pa) pa n v

def readAll (s : State) (w : Who) : List (Nat × Nat) → Except Err (State × Nat)
  | [] => .ok (s, 0)
  | (va, n) :: ps =>
    match readPiece s w needR va n with
    | .error e => .error e
    | .ok (s, v) =>
      match readAll s w ps with
      | .error e => .error e
      | .ok (s, r) => .ok (s, v + 256 ^ n * r)

def checkAll (s : State) (w : Who) : List (Nat × Nat) → Except Err State
  | [] => .ok s
  | (va, n) :: ps =>
    match checkPiece s w needW va n with
    | .error e => .error e
    | .ok s => checkAll s w ps

def writeAll (s : State) (w : Who) : List (Nat × Nat) → Nat → Except Err State
  | [], _ => .ok s
  | (va, n) :: ps, v =>
    match writePiece s w va n (v % 256 ^ n) with
    | .error e => .error e
    | .ok s => writeAll s w ps (v / 256 ^ n)

/-- A load of n bytes at any alignment (R188). -/
def load (s : State) (w : Who) (va n : Nat) : Except Err (State × Nat) := readAll s w (piecesOf va n)

/-- Check every piece of a store. -/
def storeCheck (s : State) (w : Who) (va n : Nat) : Except Err State := checkAll s w (piecesOf va n)

/-- A store of n bytes at any alignment: checked whole before a byte is written (R188). -/
def store (s : State) (w : Who) (va n v : Nat) : Except Err State :=
  match storeCheck s w va n with
  | .error e => .error e
  | .ok s => writeAll s w (piecesOf va n) v

/-- The scope an access acts at: physical-window operations act at system scope (R167), and an agent without a core has no scope 0 (R15). -/
def scopeAt (w : Who) (va scope : Nat) : Nat :=
  if 0x100 ≤ va / 2 ^ 48 then 5 else if scope = 0 ∧ w.core.isNone then 1 else scope

/-- One indivisible read-modify-write of n aligned bytes at its execution point (R184). -/
def rmw (s : State) (w : Who) (scope va n : Nat) (f : Nat → Nat) : Except Err (State × Nat) :=
  match spot s w va n with
  | .error e => .error e
  | .ok .translated => rmwLine s w scope va n f
  | .ok (.raw loc) => let old := s.rd loc n; .ok (s.wr loc n (f old), old)
  | .ok (.acc l off) =>
    match mapSlot s w.die w.quad w.asid l with
    | .error (.flt c _) => .error (.flt c (BitVec.ofNat 64 va))
    | .error e => .error e
    | .ok (s, i) =>
      let loc := locAcc w.die w.quad (i * slotBytes w.quad + off)
      let old := s.rd loc n
      .ok (s.wr loc n (f old), old)
  | .ok (.phys pa) =>
    let s := physSettle s w.die pa
    match physRead s pa n with
    | .error e => .error e
    | .ok old => (physWrite s pa n (f old)).map (fun s => (s, old))

/-- The location that a waiter queue is keyed by (R215), and the die whose waiter area holds it (log entry 19). -/
def waitKey (s : State) (w : Who) (va n : Nat) : Except Err (State × Nat × Nat) :=
  match spot s w va n with
  | .error e => .error e
  | .ok .translated =>
    match translate s w.die w.asid va with
    | .error (.flt c _) => .error (.flt c (BitVec.ofNat 64 va))
    | .error e => .error e
    | .ok (s, x) =>
      let pa := x.pa + va % 2 ^ x.size
      .ok (s, pa, if ownDevice s pa then paDie pa else w.die)
  | .ok (.raw loc) => .ok (s, loc, if va / 2 ^ 48 = 0x0F1 then va % 2 ^ 48 / 2 ^ 32 else w.die)
  | .ok (.acc l off) => .ok (s, locAcc w.die w.quad (l * slotBytes w.quad + off), w.die)
  | .ok (.phys pa) => .ok (s, pa, if ownDevice s pa then paDie pa else w.die)

end Sys2Proof.Machine
end

