-- ==== Sys2Proof/Machine/Operands.lean ====
section
/-! DEFINITION. The operand space: classes, groups, checks, reads and writes, and queue registers (R28 to R38, R243 to R246). -/

namespace Sys2Proof.Machine

/-- The size of an operand's group (R37): words, or a 96-lane mask. -/
inductive Shape where
  | one | pair | quad | oct | hex | mask
  deriving DecidableEq, Repr

def Shape.words : Shape → Nat
  | .one => 1
  | .pair => 2
  | .quad => 4
  | .oct => 8
  | .hex => 16
  | .mask => 3

/-- What an instruction's own description asks of an operand beyond R28 to R38. -/
inductive Rule where
  /-- nothing more -/
  | any
  /-- uniform class in a wave -/
  | uniform
  /-- a destination that is no k register in a wave -/
  | lane
  /-- a queue register -/
  | queue
  /-- a predicate -/
  | pred
  /-- not a queue register -/
  | noQueue
  /-- a v or k register -/
  | vk
  /-- a v register -/
  | vOnly
  /-- a source of lane class in a wave -/
  | laneClass
  /-- a k register -/
  | kOnly
  /-- a format-block register, 0xE0 to 0xE3 (R320) -/
  | fb
  /-- a v, k or q register, a constant, but no predicate or special -/
  | value
  deriving DecidableEq, Repr

/-- One operand of an instruction: its field, group, and whether it is read and written. -/
structure Opd where
  f : Fld
  sh : Shape
  rd : Bool
  wr : Bool
  rule : Rule
  deriving DecidableEq, Repr

def src (f : Fld) (sh : Shape) : Opd := { f := f, sh := sh, rd := true, wr := false, rule := .any }
def dst (f : Fld) (sh : Shape) : Opd := { f := f, sh := sh, rd := false, wr := true, rule := .any }
def Opd.must (o : Opd) (r : Rule) : Opd := { o with rule := r }

/-- One register or a pair, by a flag. -/
def wide (b : Bool) : Shape := if b then .pair else .one

def isV (f : Fld) : Bool := decide (f.toNat < 0x80)
def isK (f : Fld) : Bool := decide (0x80 ≤ f.toNat ∧ f.toNat < 0xC0)
def isQ (f : Fld) : Bool := decide (0xC0 ≤ f.toNat ∧ f.toNat < 0xD0)
def isP (f : Fld) : Bool := decide (0xD0 ≤ f.toNat ∧ f.toNat < 0xD8)
def isSpecial (f : Fld) : Bool := decide (0xD8 ≤ f.toNat ∧ f.toNat < 0xE0)
def isConst (f : Fld) : Bool := decide (0xE0 ≤ f.toNat)

/-- Uniform class (R28): k registers, constants, and the specials but `lane` and `slice`. -/
def isUniform (f : Fld) : Bool := isK f || decide (0xDA ≤ f.toNat)

/-- The constant table (R35). -/
def constTable : List Nat :=
  [0, 1, 2, 3, 4, 8, 16, 32, 64, 96, 128, 255, 0xFFFFFFFF, 0x80000000, 0x7FFFFFFF, 0x0000FFFF] ++
  [0x3F000000, 0x3F800000, 0x40000000, 0x40800000, 0xBF000000, 0xBF800000, 0xC0000000, 0x3E800000] ++
  [0x3F317218, 0x3FB8AA3B, 0x40490FDB, 0x3EA2F983, 0x3F803F80, 0x7F800000, 0x7FC00000, 0x3F003F00]

def constOf (f : Fld) : Nat := constTable.getD (f.toNat - 0xE0) 0

/-- The number of v registers a unit implements (R28, R29). -/
def Unit.vCount (u : Unit) : Nat := if u.isWave then u.ident.regs else 64
def Unit.kCount (u : Unit) : Nat := if u.isWave then 64 else 16

/-- A group of n words at register i of m that is aligned by R37. -/
def groupOk (i n m : Nat) : Bool := decide (i % n = 0) && decide (i + n ≤ m)

/-- Whether an operand's kind, range and group are allowed (R28, R29, R34, R36 to R38). -/
def Opd.kindOk (u : Unit) (o : Opd) : Bool :=
  let f := o.f
  if isV f then decide (o.sh ≠ .mask) && groupOk f.toNat o.sh.words u.vCount
  else if isK f then
    (if o.sh = .mask then decide (f.toNat - 0x80 + 3 ≤ u.kCount) else groupOk (f.toNat - 0x80) o.sh.words u.kCount)
  else if isQ f then decide (o.sh = .one ∨ o.sh = .pair)
  else if isP f then decide (o.sh = .one)
  else if isSpecial f then decide (o.sh = .one) && !o.wr
  else o.wr && !o.rd || decide (o.sh = .one ∨ o.sh = .pair)

/-- The rule of the instruction's own description (R63 stage 6). -/
def Opd.ruleOk (u : Unit) (o : Opd) : Bool :=
  match o.rule with
  | .any => true
  | .uniform => !u.isWave || isUniform o.f
  | .lane => !u.isWave || !isK o.f
  | .queue => isQ o.f
  | .pred => isP o.f
  | .noQueue => !isQ o.f
  | .vk => isV o.f || isK o.f
  | .vOnly => isV o.f
  | .laneClass => !u.isWave || !isUniform o.f
  | .kOnly => isK o.f
  | .fb => decide (0xE0 ≤ o.f.toNat ∧ o.f.toNat < 0xE4)
  | .value => !isP o.f && !isSpecial o.f

/-- A format-block field is not an operand of the operand space (R320). -/
def Opd.ok (u : Unit) (o : Opd) : Bool := o.ruleOk u && (decide (o.rule = .fb) || o.kindOk u)

/-- R30: in a wave, a k destination with a lane-class source is illegal. -/
def classOk (u : Unit) (os : List Opd) : Bool :=
  !u.isWave || !(os.any (fun o => o.wr && isK o.f)) || os.all (fun o => !o.rd || isUniform o.f)

/-- R30: an instruction all of whose operands are of uniform class. -/
def allUniform (u : Unit) (os : List Opd) : Bool := u.isWave && !os.isEmpty && os.all (fun o => isUniform o.f)

/-! ## Reading -/

/-- The value of a special in a lane (R34, R427). -/
def specialOf (s : State) (u : Unit) (lane i : Nat) : Nat :=
  match i with
  | 0 => lane
  | 1 => lane / 4
  | 2 => placeWave u.place
  | 3 => u.place.core
  | 4 => if u.isSup then 0xFFFFFFFF else quadOf u.place.core
  | 5 => u.place.die
  | 6 => ownPkg s
  | _ => (nowOf s u.place.die).toNat % 2 ^ 32

/-- The value of an operand that is no queue register, as seen by a lane. sx: a pair constant is sign-extended (R38). -/
def readOpd (s : State) (u : Unit) (o : Opd) (sx : Bool) (lane : Nat) : Nat :=
  let f := o.f
  if isV f then ofWords ((List.range o.sh.words).map (fun i => u.regs.getV lane (f.toNat + i)))
  else if isK f then ofWords ((List.range o.sh.words).map (fun i => u.regs.getK (f.toNat - 0x80 + i)))
  else if isP f then (if u.regs.getP (f.toNat - 0xD0) lane then 1 else 0)
  else if isSpecial f then specialOf s u lane (f.toNat - 0xD8)
  else if o.sh = .pair ∧ sx = true then (sext 32 64 (constOf f)).toNat
  else constOf f

/-! ## Queue registers (R32, R38, R243 to R246) -/

/-- The channel a selector word names (R243). -/
inductive ChanRef where
  | core (i : Nat)
  | quad (i : Nat)
  | mbox (i : Nat)
  | inbox
  deriving DecidableEq, Repr

def chanRef (sel : Word) : Option ChanRef :=
  if !bit sel 31 then none
  else match bits sel 30 28 with
    | 0 => some (.core (bits sel 7 0))
    | 1 => some (.quad (bits sel 7 0))
    | 2 => some (.mbox (bits sel 7 0))
    | _ => some .inbox

/-- The channel that a queue-register field reaches. -/
def Unit.chanOf (u : Unit) (f : Fld) : Option ChanRef := chanRef (u.regs.q.getD (f.toNat - 0xC0) 0)

/-- The words a channel can hold (R241). -/
def chanDepth (u : Unit) : ChanRef → Nat
  | .core _ => 128
  | .quad _ => 512
  | .mbox _ => 16
  | .inbox => inboxDepth u.engine

def chanGet (s : State) (u : Unit) (c : ChanRef) : Chan :=
  match c with
  | .core i => (s.core u.place.die u.place.core).chans.getD i Chan.empty
  | .quad i => (s.quad u.place.die (quadOf u.place.core)).chans.getD i Chan.empty
  | .mbox i => (s.quad u.place.die (quadOf u.place.core)).mboxes.getD i Chan.empty
  | .inbox => { words := (inboxOf s u).words, waiters := if u.isSup then (s.sup u.place.die (u.place.core - 240)).waiters else (s.unit? u.place).elim [] (·.book.inboxWaits) }

def chanMod (s : State) (u : Unit) (c : ChanRef) (f : Chan → Chan) : State :=
  match c with
  | .core i => s.modCore u.place.die u.place.core (fun k => { k with chans := modAt k.chans i f })
  | .quad i => s.modQuad u.place.die (quadOf u.place.core) (fun q => { q with chans := modAt q.chans i f })
  | .mbox i => s.modQuad u.place.die (quadOf u.place.core) (fun q => { q with mboxes := modAt q.mboxes i f })
  | .inbox =>
    if u.isSup then s.modSup u.place.die (u.place.core - 240) (fun k => { k with waiters := (f { words := [], waiters := k.waiters }).waiters })
    else s.modUnit u.place (fun x => x.modBook (fun b => { b with inboxWaits := (f { words := [], waiters := b.inboxWaits }).waiters }))

/-- R244: quad channels and mailboxes belong to the ASID of chan_owner. -/
def quadAdmits (s : State) (u : Unit) : Bool :=
  let o := (s.quad u.place.die (quadOf u.place.core)).chanOwner
  bit o 16 && decide (bits o 15 0 = u.ident.asid)

def chanAdmits (s : State) (u : Unit) : ChanRef → Bool
  | .quad _ => quadAdmits s u
  | .mbox _ => quadAdmits s u
  | _ => true

/-- The receipt of a reply or of an answer: an acquire at the receiver's mode scope (R193). No rule gives a pop the fault of a reserved scope (R14): under
scope 6 or 7 it acquires as the wide scopes do (DESIGN CHOICE, log entry 120). -/
def receiptAcquire (s : State) (u : Unit) (sync : Bool) : State :=
  if sync then acquire s { sysWho u.place.die 0 with core := if u.engine = .wave ∨ u.engine = .swarm then some u.place.core else none } (modeScope u.regs.mode) else s

/-- Pop n words of a channel; an inbox's pops drive the message delays and monitors (R252, R409). -/
def chanPop (s : State) (u : Unit) (c : ChanRef) (n : Nat) : State × List Word :=
  match c with
  | .inbox =>
    let now := nowOf s u.place.die
    let r := Inbox.pop now n (inboxOf s u)
    let s := putInbox s u r.box
    let ev (src : Nat) (s : State) (t : Nat) : State := monEvent s u.place.die src u.ident.asid (quadOf u.place.core) false t
    (receiptAcquire (r.runs.foldl (ev 4) (r.waits.foldl (ev 3) s)) u r.sync, r.words)
  | _ => (chanMod s u c (fun x => { x with words := x.words.drop n }), (chanGet s u c).words.take n)

def chanPush (s : State) (u : Unit) (c : ChanRef) (ws : List Word) : State := chanMod s u c (fun x => { x with words := x.words ++ ws })

/-- The queue operands of an instruction with the words each moves for n lanes. -/
structure QUse where
  c : ChanRef
  pop : Bool
  n : Nat
  deriving DecidableEq, Repr

def queueUses (u : Unit) (os : List Opd) (lanes : Nat) : List QUse :=
  os.flatMap (fun o =>
    if isQ o.f then
      match u.chanOf o.f with
      | some c =>
        (if o.rd then [{ c := c, pop := true, n := lanes * o.sh.words }] else []) ++ (if o.wr then [{ c := c, pop := false, n := lanes * o.sh.words }] else [])
      | none => []
    else [])

def sumUses (us : List QUse) (c : ChanRef) (pop : Bool) : Nat := (us.filter (fun x => decide (x.c = c ∧ x.pop = pop))).foldl (fun n x => n + x.n) 0

/-- The faults of queue operands (R244, R246). -/
def queueFault (s : State) (u : Unit) (os : List Opd) (lanes : Nat) : Option Cause :=
  if os.any (fun o => isQ o.f && (o.rd || o.wr) && (u.chanOf o.f).isNone) then some .queue
  else
    let us := queueUses u os lanes
    if us.any (fun x => !chanAdmits s u x.c) then some .prot
    else if us.any (fun x => !x.pop && (match x.c with | .mbox _ => true | .inbox => true | _ => false)) then some .queue
    else if us.any (fun x => decide (chanDepth u x.c < sumUses us x.c true) || decide (chanDepth u x.c < sumUses us x.c false)) then some .queue
    else none

/-- The context header in a slot, as the dispatcher of a die last read it (R264). -/
def hdrOfSlot (s : State) (die slot : Nat) : Option CtxHdr := (s.die die).disp.hdrs.find? (fun h => decide (h.slot = slot))

/-- Whether a context is being saved on a die: no unit of it issues or is placed (R282 rank 4, R384). -/
def preempting (s : State) (die asid : Nat) : Bool :=
  match (s.die die).disp.pre with
  | none => false
  | some slot => match hdrOfSlot s die slot with
    | some h => decide (h.asid = asid)
    | none => false

/-- A unit that nothing holds up: it runs, no halt is set, and its context is not being saved (R27). -/
def Unit.goes (u : Unit) (s : State) : Bool :=
  decide (u.ctl.run = .ready) && !u.ctl.halted && !u.ctl.haltFlag && (u.isSup || !preempting s u.place.die u.ident.asid)

/-! ## The queue of a flipping page (R298, R299; log entry 108) -/

/-- The access that waited is still to be made, and nothing else holds it up: what arrived later at the page is behind it. -/
def PageWait.leads (s : State) (w : PageWait) : Bool :=
  !deviceWaits s && (match w with
    | .req _ _ => false
    | .dev p g => (s.unit? p).elim false (fun u => u.goes s && u.book.stall.any (fun x => decide (x.1 = g)))
    | .cmd id => s.cmds.any (fun c => decide (c.id = id ∧ c.state = .running))
    | .ray id l => s.batches.any (fun b => decide (b.id = id) && b.rays.any (fun r => decide (r.lane = l) && (match r.state with | .running | .waiting | .closing _ => true | _ => false)))
    | .job p => (s.unit? p).elim false (fun u => u.goes s) && (s.jobOf p).isSome)

/-- It is still to be made at some time. -/
def PageWait.alive (s : State) (w : PageWait) : Bool :=
  match w with
  | .req _ _ => true
  | .dev p g => (s.unit? p).elim false (fun u => u.book.stall.any (fun x => decide (x.1 = g)))
  | .cmd id => s.cmds.any (fun c => decide (c.id = id))
  | .ray id _ => s.batches.any (fun b => decide (b.id = id))
  | .job p => (s.jobOf p).isSome

/-- An access that waited for a flip before this one has still to be made. -/
def pageBehind (s : State) (w : PageWait) : Bool :=
  s.pkg.heldReqs.contains w && (s.pkg.heldReqs.takeWhile (fun x => decide (x ≠ w))).any (fun x => x.leads s)

/-- Once no flip is in progress the access is made, and its place in the queue is free. -/
def pageLeave (s : State) (w : PageWait) : State :=
  if deviceWaits s then s else { s with pkg := { s.pkg with heldReqs := s.pkg.heldReqs.filter (fun x => decide (x ≠ w)) } }

/-- An access that waits while a flip is in progress takes its place in the queue. -/
def pageNote (s : State) (w : PageWait) : State :=
  if deviceWaits s && !s.pkg.heldReqs.contains w then { s with pkg := { s.pkg with heldReqs := s.pkg.heldReqs ++ [w] } } else s

/-- A step of an engine's work in its turn at the queue; stays says whether the step has left the work as it was. -/
def pageTurn (s : State) (w : PageWait) (stays : State → State → Bool) (f : State → State) : State :=
  if pageBehind s w then s
  else
    let s := pageLeave s w
    let t := f s
    if stays s t then pageNote t w else t

/-- Whether a waiter's unit can still be served (R27, R245). -/
def waiterReady (s : State) (w : QWait) : Bool := (s.unit? w.place).elim false (fun u => u.goes s)

/-- Whether an instruction must wait for others at a channel (R245): one that has blocked, until it is the first of all that have; one that issues
anew, while one that moves words the same way is blocked (log entry 98). -/
def overtaken (s : State) (ws : List QWait) (p : Place) (g : Nat) (pop : Bool) : Bool :=
  let q := ws.filter (waiterReady s)
  let mine (w : QWait) : Bool := decide (w.place = p ∧ w.gang = g)
  if q.any mine then !(q.head?.elim false mine) else q.any (fun w => decide (w.pop = pop))

/-- Whether every queue operand can move its words now (R245). -/
def queueReady (s : State) (u : Unit) (g : Nat) (us : List QUse) : Bool :=
  us.all (fun x =>
    let c := chanGet s u x.c
    !overtaken s c.waiters u.place g x.pop &&
    (if x.pop then decide (sumUses us x.c true ≤ c.words.length) else decide (c.words.length + sumUses us x.c false ≤ chanDepth u x.c)))

def addWait (ws : List QWait) (w : QWait) : List QWait := if ws.contains w then ws else ws ++ [w]
def dropWait (ws : List QWait) (w : QWait) : List QWait := ws.filter (fun x => decide (x ≠ w))

/-- The pc of a gang. -/
def Unit.gangPc (u : Unit) (g : Nat) : DWord := (u.slice ((u.gangSlices g).headD 0)).pc

/-- The unit as the instruction at its gang's pc sees it: one that has blocked keeps the bindings with which it issued (R243). -/
def Unit.boundAt (u : Unit) (g : Nat) (pc : DWord) : Unit :=
  match u.book.held.find? (fun h => decide (h.gang = g ∧ h.pc = pc)) with
  | some h => u.modRegs (fun r => { r with q := h.q })
  | none => u

/-- A blocked instruction keeps the bindings of its issue (R243). -/
def holdBinding (s : State) (u : Unit) (g : Nat) : State :=
  let h : QHeld := { gang := g, pc := u.gangPc g, q := u.regs.q }
  s.modUnit u.place (fun x => if x.book.held.any (fun y => decide (y.gang = h.gang ∧ y.pc = h.pc)) then x else x.modBook (fun b => { b with held := b.held ++ [h] }))

/-- Take a place in the order of every channel the instruction blocks on, with the bindings of its issue. -/
def queueBlock (s : State) (u : Unit) (g : Nat) (us : List QUse) : State :=
  us.foldl (fun s x => chanMod s u x.c (fun c => { c with waiters := addWait c.waiters { place := u.place, gang := g, pop := x.pop } })) (holdBinding s u g)

def queueUnblock (s : State) (u : Unit) (g : Nat) (us : List QUse) : State :=
  us.foldl (fun s x => chanMod s u x.c (fun c => { c with waiters := dropWait c.waiters { place := u.place, gang := g, pop := x.pop } })) s

/-- Cut a list of words into values of n words each. -/
def chunk (n : Nat) : Nat → List Word → List Nat
  | 0, _ => []
  | k + 1, ws => ofWords (ws.take n) :: chunk n k (ws.drop n)

/-- The values of the source operands, one list per operand, aligned with the lanes. A queue register pops for every lane before the next
operand is read (R32). -/
def readAllOpds (s : State) (u : Unit) (sx : Bool) (lanes : List Nat) : List Opd → State × List (List Nat)
  | [] => (s, [])
  | o :: os =>
    if !o.rd then readAllOpds s u sx lanes os
    else
      let (s, vs) : State × List Nat :=
        if isQ o.f then
          match u.chanOf o.f with
          | some c => let (s, ws) := chanPop s u c (lanes.length * o.sh.words); (s, chunk o.sh.words lanes.length ws)
          | none => (s, lanes.map (fun _ => 0))
        else (s, lanes.map (readOpd s u o sx))
      let (s, r) := readAllOpds s u sx lanes os
      (s, vs :: r)

/-- What a channel keeps when only the first `done` lanes of an instruction have completed: the words that the other lanes popped return, in the
order in which their reissue pops them (R149, R207). -/
def keepWords (c : ChanRef) (u : Unit) (lanes done : Nat) : List Opd → List Word → List Word
  | [], ws => ws
  | o :: os, ws =>
    if o.rd && isQ o.f && decide (u.chanOf o.f = some c) then
      let n := lanes * o.sh.words
      (ws.take n).drop (done * o.sh.words) ++ keepWords c u lanes done os (ws.drop n)
    else keepWords c u lanes done os ws

/-- Give back the words that undone lanes popped; s0 is the state before the instruction popped any. -/
def unpop (s0 s : State) (u : Unit) (os : List Opd) (lanes done : Nat) : State :=
  (dedup ((queueUses u os lanes).filterMap (fun x => if x.pop then some x.c else none))).foldl (fun s c =>
    let total := sumUses (queueUses u os lanes) c true
    let ws0 := (chanGet s0 u c).words
    match c with
    | .inbox =>
      -- the words return; that their items have been dequeued stays as it was counted (R407, R409)
      let box := inboxOf s u
      putInbox s u { box with words := keepWords c u lanes done os ws0, left := box.left + (total - sumUses (queueUses u os done) c true) }
    | _ =>
      let pushed := if done = 0 then [] else (chanGet s u c).words.drop (ws0.length - total)
      chanMod s u c (fun x => { x with words := keepWords c u lanes done os ws0 ++ pushed })) s

/-- Give back a word popped through a queue register with this selector. -/
def unpopWord (s : State) (u : Unit) (sel w : Word) : State :=
  match chanRef sel with
  | none => s
  | some .inbox =>
    let box := inboxOf s u
    putInbox s u { box with words := w :: box.words, left := box.left + 1 }
  | some c => chanMod s u c (fun x => { x with words := w :: x.words })

/-- What the engine work of a thread that does not complete has popped returns, and the work ends. -/
def dropJob (s : State) (u : Unit) : State :=
  match s.jobOf u.place with
  | none => s
  | some j =>
    let s := s.modQuad u.place.die (quadOf u.place.core) (fun q => { q with jobs := q.jobs.filter (fun x => decide (x.place ≠ u.place)) })
    j.back.reverse.foldl (fun s x => unpopWord s u x.1 x.2) s

/-! ## Writing -/

/-- Write a group of words from register i up in a lane. -/
def Regs.setVs (r : Regs) (lane i : Nat) : List Word → Regs
  | [] => r
  | x :: xs => Regs.setVs (r.setV lane i x) lane (i + 1) xs

def Regs.setKs (r : Regs) (i : Nat) : List Word → Regs
  | [] => r
  | x :: xs => Regs.setKs (r.setK i x) (i + 1) xs

/-- Write a value to an operand that is no queue register, for one lane (R33, R36). -/
def Regs.putOpd (r : Regs) (f : Fld) (sh : Shape) (lane v : Nat) : Regs :=
  if isV f then r.setVs lane f.toNat (wordsOf sh.words v)
  else if isK f then r.setKs (f.toNat - 0x80) (wordsOf sh.words v)
  else if isP f then r.setP (f.toNat - 0xD0) lane (decide (v ≠ 0))
  else r

def Regs.putLanes (r : Regs) (f : Fld) (sh : Shape) : List Nat → List Nat → Regs
  | l :: ls, v :: vs => Regs.putLanes (r.putOpd f sh l v) f sh ls vs
  | _, _ => r

/-- Write the destination values of the lanes: a queue register pushes them in lane order (R32, R36, R38). -/
def writeDst (s : State) (u : Unit) (o : Opd) (lanes : List Nat) (vs : List Nat) : State :=
  if isQ o.f then
    match u.chanOf o.f with
    | some c => chanPush s u c (vs.flatMap (fun v => wordsOf o.sh.words v))
    | none => s
  else s.modUnit u.place (fun x => x.modRegs (fun r => r.putLanes o.f o.sh lanes vs))

end Sys2Proof.Machine
end

