-- ==== Sys2Proof/Machine/Ops.lean ====
section
/-! DEFINITION. The frame of every instruction: who issues, the checks of R63, taking a fault (R6, R260, R387), waiting, completing (R18, R31,
R138, R142, R401), dooming a transaction (R222, R223), and returning a unit to its program (R389). -/

namespace Sys2Proof.Machine

abbrev Res := Host.Outcome State Fault Refusal

/-! ## Who issues -/

/-- One issue of a gang or thread: the unit as it stands, its gang's live slices, the pc, and the active lanes that have not completed yet. -/
structure Issue where
  u : Unit
  gang : Nat
  slices : List Nat
  pc : DWord
  lanes : List Nat
  deriving DecidableEq, Repr

def Issue.p (i : Issue) : Place := i.u.place

/-- A lane is enabled by the guard (R7, R64). -/
def guardOn (r : Regs) (lane : Nat) : Bool := !modeGen r.mode || (r.getP (modeGuard r.mode) lane != modeGneg r.mode)

/-- The lanes of a gang that are active, under the guard when the instruction reads it, and that have not completed the instruction (R149). -/
def actLanes (u : Unit) (slices : List Nat) (guarded : Bool) : List Nat :=
  (lanesIn (fun i => (u.slice i).active) slices).filter (fun l => (!guarded || guardOn u.regs l) && !u.ctl.done.getLsbD l)

/-- The issue of a gang of the unit at a place. -/
def issueAt (s : State) (p : Place) (g : Nat) (guarded : Bool) : Option Issue :=
  match s.unit? p with
  | none => none
  | some u =>
    match u.gangSlices g with
    | [] => none
    | i :: is => some { u := u.boundAt g (u.slice i).pc, gang := g, slices := i :: is, pc := (u.slice i).pc, lanes := actLanes u (i :: is) guarded }

/-- The issue that cur names. -/
def issueOf (s : State) (guarded : Bool) : Option Issue :=
  match s.cur with
  | .unit p g => issueAt s p g guarded
  | _ => none

/-- A lane of a unit as a master (R165, R427). A supervisor thread may use every window: tile and accumulator windows reach the quad of its die whose engines
its commands use (DEDUCED, log entry 121). -/
def whoOf (s : State) (u : Unit) (lane : Nat) : Who :=
  { die := u.place.die, quad := quadOf u.place.core, core := if u.engine = .wave ∨ u.engine = .swarm then some u.place.core else none, asid := asidOf s u,
    sup := u.isSup, cclass := u.ident.cclass, ls := if u.isSup then none else some u.place.core, tile := true, acc := decide (u.engine = .mcc ∨ u.engine = .sup),
    phys := u.isSup, me := some (u.place, lane) }

/-! ## Stops and faults -/

/-- What a fault of an instruction reports (R260). -/
structure FaultInfo where
  cause : Cause
  va : DWord
  imm : BitVec 8
  detail : DWord
  stream : Bool
  /-- the unit freezes whatever the cause's own response (R396) -/
  frozen : Bool := false
  deriving DecidableEq, Repr

def fault (c : Cause) : FaultInfo := { cause := c, va := 0, imm := 0, detail := 0, stream := false }
def faultVa (c : Cause) (va : DWord) : FaultInfo := { fault c with va := va }

/-- Why an instruction does not complete, with the state it leaves and the lanes that have not completed. -/
inductive Stop where
  | flt (f : FaultInfo) (undone : List Nat) (s : State)
  | wait (r : Stall) (undone : List Nat) (s : State)
  deriving DecidableEq, Repr

abbrev Run := Except Stop State

/-- An access's error as the end of the instruction. -/
def Err.stop (e : Err) (undone : List Nat) (s : State) : Stop :=
  match e with
  | .flt c va => .flt (faultVa c va) undone s
  | .wait r => .wait r undone s

def lift {α : Type} (undone : List Nat) (s : State) (x : Except Err α) : Except Stop α :=
  match x with
  | .ok a => .ok a
  | .error e => .error (e.stop undone s)

/-! ## Transactions: dooming (R222, R223) -/

/-- Doom a lane's transaction: its logs, locks and Risers go, and it leaves the active mask of its slice. -/
def doomLane (s : State) (p : Place) (lane cause : Nat) (code : BitVec 8) : State :=
  match s.unit? p with
  | none => s
  | some u =>
    let t := smGet LaneTx.idle u.tx lane
    if t.inTx && !t.doomed then
      let s := freeRisers s p lane
      s.modUnit p (fun u =>
        let i := laneSlice lane
        { u with
          tx := smSet LaneTx.idle u.tx lane { t with doomed := true, cause := cause, code := code, reads := [], writes := [], locks := [], risers := [] },
          slices := modAt u.slices i (fun sl => { sl with active := sl.active &&& ~~~(laneBit lane) }) })
    else s

def doomLanes (s : State) (p : Place) (lanes : List Nat) (cause : Nat) : State := lanes.foldl (fun s l => doomLane s p l cause 0) s

/-- The lanes of a unit that are in a transaction and not doomed. -/
def Unit.txLanes (u : Unit) : List Nat := u.tx.filterMap (fun (l, t) => if t.inTx && !t.doomed then some l else none)

/-- The doomed lanes of a unit that had transactions at an issue, where it does not complete, leave for their TXEs. -/
def doomedLeave (s : State) (u : Unit) : State := if u.txLanes.isEmpty then s else s.modUnit u.place Unit.doomGo

/-! ## Taking a fault -/

def laneMaskOf (is : List Nat) : LaneMask := maskOf (is.flatMap (fun i => [4 * i, 4 * i + 1, 4 * i + 2, 4 * i + 3]))

/-- The lanes of a gang that the reissue leaves out, after an issue that leaves some lanes undone. -/
def doneAfter (iss : Issue) (undone : List Nat) (done : LaneMask) : LaneMask := done ||| (maskOf iss.lanes &&& ~~~(maskOf undone))

/-- What a gang's instruction that ends without completing gives up: its places in the orders of queues, its bindings, its engine work with the words
that it popped, and a place at the reservation table or at a swap of planes (R243, R245, R322 to R326, R331). -/
def quitWaits (s : State) (u : Unit) (g : Nat) : State :=
  let s := leaveQueues (if u.engine = .mcc then leaveEngine (dropJob s u) u.place else s) u.place (fun w => decide (w.place = u.place ∧ w.gang = g))
  s.modUnit u.place (fun x => x.modBook (fun b => { b with held := b.held.filter (fun h => decide (h.gang ≠ g)) }))

/-- The same for every gang of a unit whose pcs are set from outside (R53, R389). -/
def quitAll (s : State) (u : Unit) : State :=
  let s := leaveQueues (if u.engine = .mcc then leaveEngine (dropJob s u) u.place else s) u.place (fun w => decide (w.place = u.place))
  s.modUnit u.place (fun x => x.modBook (fun b => { b with held := [] }))

/-- Taking a fault (R6, R260, R387): the unit parks, freezes or stops at the faulting instruction, with the lanes that did not complete; its
transactions are doomed; and the packet goes to the supervisor. The unfinished mask is the faulting instruction's (R380), also while lanes of another gang
wait at a MIGR, SPAWN or CALLAT (R149): those stay undone for their own reissue (DESIGN CHOICE, log entry 122). -/
def takeFault (s : State) (iss : Issue) (f : FaultInfo) (undone : List Nat) : State :=
  let u := iss.u
  let s := (quitWaits s u iss.gang).modUnit u.place (fun x => x.modCtl (fun c => { c with
    run := if f.frozen then .frozen else f.cause.runState, cause := BitVec.ofNat 8 f.cause.code, unfinished := maskOf undone, done := doneAfter iss undone c.done,
    fpc := iss.pc, factive := maskOf iss.lanes ||| (c.done &&& maskOf (lanesIn (fun i => (u.slice i).active) iss.slices)) }))
  let pk : Packet := { cause := f.cause, halted := u.ctl.haltFlag, tx := false, asid := asidOf s u, imm := f.imm, kind := if f.stream then 5 else masterKind u.engine,
                       place := placeWord u.place (ownPkg s), serial := packetSerial u, pc := iss.pc, va := f.va, unfinished := maskOf undone, detail := f.detail, frozen := f.frozen }
  let s := doomedLeave (doomLanes s u.place u.txLanes 5) u
  sendPacket s u.place.die (packetCore u.place) pk

/-- The packet of a fault that a transaction takes (R223): flagged, and the unit goes on. -/
def txPacket (s : State) (u : Unit) (c : Cause) (pc va : DWord) (lane : Nat) : State :=
  let pk : Packet := { cause := c, halted := u.ctl.haltFlag, tx := true, asid := asidOf s u, imm := 0, kind := masterKind u.engine,
                       place := placeWord u.place (ownPkg s), serial := packetSerial u, pc := pc, va := va, unfinished := maskOf [lane], detail := 0 }
  sendPacket s u.place.die (packetCore u.place) pk

/-! ## Waiting and completing -/

/-- The unfinished mask with the lanes of the gang's slices in it replaced (R149, R380). -/
def unfinishedAfter (iss : Issue) (undone : List Nat) (m : LaneMask) : LaneMask := (m &&& ~~~(laneMaskOf iss.slices)) ||| maskOf undone

/-- The issue leaves the gang waiting with a stall reason (R282); a save meanwhile writes its lanes as unfinished (R149). -/
def blocked (s : State) (iss : Issue) (r : Stall) (undone : List Nat) : State :=
  doomedLeave (s.modUnit iss.u.place (fun u =>
    { u with ctl := { u.ctl with done := doneAfter iss undone u.ctl.done, unfinished := unfinishedAfter iss undone u.ctl.unfinished }, book := { u.book with stall := smPut u.book.stall iss.gang r.rank } })) iss.u

/-- The next pc of a slice that completes the instruction at its pc and does not transfer control; then the end of a body (R142). -/
def Slice.next (sl : Slice) : Slice := ({ sl with pc := sl.pc + 4 } : Slice).loopEnd sl.pc

/-- One slice of the gang after the instruction. moved: the instruction has set its pc itself. -/
def advanceSlice (iss : Issue) (moved : Bool) (u : Unit) (i : Nat) : Unit :=
  let sl := u.slice i
  if sl.live = 0 then u
  else
    let old := iss.u.slice i
    let sl := if sl.active = 0 ∧ old.active ≠ 0 then sl else if moved then sl.loopEnd old.pc else sl.next
    let sl := { sl with rext := [], lext := [] }
    let u := { u with slices := setAt u.slices i sl }
    if sl.active = 0 ∧ u.doomedIn i ≠ 0 then u.toTxe i else { u with slices := setAt u.slices i sl.arrive }

/-- The gang completes an instruction (R401): its slices advance, arrive and split. -/
def finish (iss : Issue) (moved : Bool) (u : Unit) : Unit :=
  let u := iss.slices.foldl (advanceSlice iss moved) u
  let u := { u with
    ctl := { u.ctl with done := u.ctl.done &&& ~~~(laneMaskOf iss.slices), unfinished := u.ctl.unfinished &&& ~~~(laneMaskOf iss.slices), skipBp := u.ctl.skipBp.filter (fun x => decide (x.1 ≠ iss.gang)) },
    book := { u.book with retired := u.book.retired + 1, stall := smDel u.book.stall iss.gang, gwait := smDel u.book.gwait iss.gang, modeSince := smDel u.book.modeSince iss.gang, promoted := u.book.promoted.filter (fun g => decide (g ≠ iss.gang)),
                          yielded := u.book.yielded.filter (fun g => decide (g ≠ iss.gang)), held := u.book.held.filter (fun h => decide (h.gang ≠ iss.gang)) } }
  Unit.pruneDone (Unit.normalise (u.split iss.gang))

def complete (s : State) (iss : Issue) (moved : Bool) : State := s.modUnit iss.u.place (finish iss moved)

/-! ## The checks of R63 -/

/-- Which engines execute an instruction (R63 stage 2, R160, R427). -/
inductive Engines where
  | all
  | waveOnly
  | mccOnly
  /-- not a supervisor thread (R427) -/
  | notSup
  /-- not a supervisor thread, not an MCC thread (MIGR) -/
  | notSupMcc
  deriving DecidableEq, Repr

def Engines.allow (x : Engines) (e : Engine) : Bool :=
  match x with
  | .all => true
  | .waveOnly => decide (e = .wave)
  | .mccOnly => decide (e = .mcc)
  | .notSup => decide (e ≠ .sup)
  | .notSupMcc => decide (e = .wave ∨ e = .swarm)

/-- What R63 checks of an instruction, and how it issues. -/
structure Desc where
  engines : Engines := .all
  /-- needs supervisor mode (stage 3) -/
  priv : Bool := false
  /-- a reserved sub-field is set (stage 4) -/
  bad : Bool := false
  /-- the types it accepts, when it reads the type (stage 5) -/
  types : Option (List Nat) := none
  /-- it reads the scope; a barrier operation does not take scope 5 (R14) -/
  scope : Bool := false
  barrier : Bool := false
  /-- its operands, in the order in which it names its sources -/
  opds : List Opd := []
  /-- registers that it reads without naming them (R48) -/
  reads : List Opd := []
  /-- R30 does not bind its k destination -/
  freeClass : Bool := false
  /-- the guard shapes its lanes (R64) -/
  guarded : Bool := true
  /-- it is not executed once per strand although its operands are uniform -/
  perGang : Bool := false
  /-- it sets the pcs itself -/
  moves : Bool := false
  /-- a lane in a transaction is doomed by it (R222) -/
  unlogged : Bool := false
  /-- it runs although no lane is active -/
  always : Bool := false
  /-- it hands its work to the matrix engine, and completes when the engine is done -/
  holds : Bool := false
  /-- its destination is the token of the commands that it issues: pending for other instructions, not for its own reissue (R48, R228) -/
  tokens : Bool := false

/-- The type codes. -/
def intTypes : List Nat := [0, 1, 2, 3, 9, 10, 11, 12]
def allTypes : List Nat := List.range 15
def word32Types : List Nat := [0, 1, 4]

def is64 (ty : Nat) : Bool := decide (ty = 2 ∨ ty = 3)
/-- Signed integer types: the types under which constants and short loads sign-extend (R38, R206). -/
def signedTy (ty : Nat) : Bool := decide (ty = 0 ∨ ty = 2 ∨ ty = 9 ∨ ty = 11)

/-- Stages 2 to 6 of R63: the first check that fails. -/
def checks (u : Unit) (d : Desc) : Option Cause :=
  let m := u.regs.mode
  if !d.engines.allow u.engine then some .illegal
  else if d.priv && !u.isSup then some .priv
  else if d.bad then some .illegal
  else if (match d.types with | none => false | some ts => !ts.contains (modeType m)) then some .illegal
  else if d.scope && (decide (6 ≤ modeScope m) || (d.barrier && decide (modeScope m = 5))) then some .illegal
  else if !(d.opds.all (fun o => o.ok u)) || (!d.freeClass && !classOk u d.opds) then some .operand
  else none

/-- Whether the instruction reads or writes a register that holds a pending token (R48). -/
def namesPending (s : State) (u : Unit) (d : Desc) : Bool :=
  if s.cmds.isEmpty && s.batches.isEmpty then false
  else
    let fs := pendingFields s u
    (d.opds ++ d.reads).any (fun o => (o.rd || o.wr) && fs.any (fun f => decide (o.f.toNat ≤ f.toNat ∧ f.toNat < o.f.toNat + o.sh.words) && (isV f == isV o.f)))

/-- The pending tokens for which an issue must wait: all, but for the lanes of a command instruction that wait for a slot (R228). -/
def waitsToken (s : State) (iss : Issue) (d : Desc) : Bool :=
  namesPending s iss.u d && !(d.tokens && decide (iss.u.ctl.done &&& laneMaskOf iss.slices ≠ 0))

/-! ## The first read of a token (R193) -/

/-- An operand names the token's register, in a lane that it was written for. -/
def TokenDue.named (e : TokenDue) (iss : Issue) (o : Opd) : Bool :=
  decide (o.f.toNat ≤ e.f.toNat ∧ e.f.toNat < o.f.toNat + o.sh.words) && (isV e.f == isV o.f) && (isK e.f || decide (e.lanes &&& maskOf iss.lanes ≠ 0))

/-- The completed tokens that this instruction reads first, or overwrites unread. -/
def dueTokens (iss : Issue) (d : Desc) : List TokenDue := iss.u.book.tokens.filter (fun e => (d.opds ++ d.reads).any (fun o => (o.rd || o.wr) && e.named iss o))

/-- The lanes of an issue have met a token. -/
def TokenDue.meet (e : TokenDue) (iss : Issue) : Option TokenDue :=
  let left := if isK e.f then 0 else e.lanes &&& ~~~(maskOf iss.lanes)
  if left = 0 then none else some { e with lanes := left }

/-- Before the instruction's effect: the acquire of each token that it reads, at the scope of the completion. -/
def meetTokens (s : State) (iss : Issue) (d : Desc) : State :=
  let due := dueTokens iss d
  let read := due.filter (fun e => (d.opds ++ d.reads).any (fun o => o.rd && e.named iss o))
  let s := read.foldl (fun s e => acquire s (whoOf s iss.u 0) e.scope) s
  s.modUnit iss.p (fun u => u.modBook (fun b => { b with tokens := b.tokens.filterMap (fun e => if due.contains e then e.meet iss else some e) }))

/-- An instruction's effect with the tokens that it meets; one that does not complete has met none. -/
def withTokens (s : State) (iss : Issue) (d : Desc) (run : State → Run) : Run :=
  if (dueTokens iss d).isEmpty then run s
  else
    let back (t : State) : State := t.modUnit iss.p (fun u => u.modBook (fun b => { b with tokens := iss.u.book.tokens }))
    match run (meetTokens s iss d) with
    | .ok t => .ok t
    | .error (.flt f undone t) => .error (.flt f undone (back t))
    | .error (.wait r undone t) => .error (.wait r undone (back t))

/-! ## Uniform instructions once per strand (R31) -/

/-- How often the gang's slices have issued the uniform instruction at this pc before. -/
def Issue.pass (i : Issue) : Nat := smGet 0 (i.u.slice (i.slices.headD 0)).passes i.pc.toNat

def Issue.strand (i : Issue) : Nat := (i.u.slice (i.slices.headD 0)).strand

/-- The value recorded when the strand executed this dynamic instance. -/
def Issue.shared (i : Issue) : Option DWord :=
  (i.u.book.udone.find? (fun x => decide (x.strand = i.strand ∧ x.pc = i.pc.toNat ∧ x.n = i.pass))).map (·.val)

/-- The gang passes the uniform instruction. -/
def countPass (s : State) (iss : Issue) : State :=
  s.modUnit iss.u.place (fun u => { u with slices := iss.slices.foldl (fun ss i => modAt ss i (fun sl => { sl with passes := smPut sl.passes iss.pc.toNat (iss.pass + 1) })) u.slices })

/-- The strand has executed this dynamic instance, with a value for its other gangs. -/
def recordShared (s : State) (iss : Issue) (v : DWord) : State :=
  s.modUnit iss.u.place (fun u => u.modBook (fun b => { b with udone := { strand := iss.strand, pc := iss.pc.toNat, n := iss.pass, val := v } :: b.udone }))

/-! ## The uniform unit (R281) -/

/-- The instruction executes on the uniform unit of its pair of cores: its operands are uniform, it acts for a strand, and the strand has not
executed it yet (R30, R31). -/
def usesUniform (iss : Issue) (d : Desc) : Bool :=
  allUniform iss.u d.opds && (!d.perGang || d.always) && iss.shared.isNone && !iss.lanes.isEmpty

/-- The lower core of the pair that shares a uniform unit with a core. -/
def pairCore (core : Nat) : Nat := core / 2 * 2

def Issue.uwait (i : Issue) : UWait := { place := i.u.place, gang := i.gang, pc := i.pc }

/-- A gang that still waits for the uniform unit at the instruction with which it came. -/
def UWait.waits (w : UWait) (s : State) : Bool :=
  (s.unit? w.place).elim false (fun u => u.goes s && decide (u.gangPc w.gang = w.pc) && decide (smGet 0 u.book.stall w.gang = Stall.structural.rank))

/-- The uniform unit takes this instruction now: it has executed none in this clock, and no gang has come earlier. -/
def uniformFree (s : State) (iss : Issue) (d : Desc) : Bool :=
  !usesUniform iss d ||
    (let k := s.core iss.u.place.die (pairCore iss.u.place.core)
     !k.uniUsed && decide (((k.uniQ.filter (fun w => decide (w = iss.uwait) || w.waits s)).headD iss.uwait) = iss.uwait))

/-- The gang takes its place in the order of the uniform unit. -/
def awaitUniform (s : State) (iss : Issue) : State :=
  s.modCore iss.u.place.die (pairCore iss.u.place.core) (fun k =>
    { k with uniQ := let q := k.uniQ.filter (fun w => decide (w = iss.uwait) || w.waits s); if q.contains iss.uwait then q else q ++ [iss.uwait] })

/-- The uniform unit has executed the instruction in this clock. -/
def useUniform (s : State) (iss : Issue) (d : Desc) : State :=
  if usesUniform iss d then
    s.modCore iss.u.place.die (pairCore iss.u.place.core) (fun k => { k with uniUsed := true, uniQ := k.uniQ.filter (fun w => decide (w ≠ iss.uwait)) })
  else s

/-! ## The frame -/

/-- The end of an issue. -/
def settleRun (iss : Issue) (d : Desc) (r : Run) : State :=
  match r with
  | .ok s => if d.holds && (s.jobOf iss.u.place).isSome then blocked s iss .load iss.lanes else complete (useUniform s iss d) iss d.moves
  | .error (.flt f undone s) => takeFault s iss f undone
  | .error (.wait st undone s) => blocked s iss st undone

/-- One issue of an instruction whose checks have passed: the queue operands, which without an active lane it does not touch (R64, R245), then its
effect on the lanes. -/
def issueBody (s : State) (iss : Issue) (d : Desc) (body : Issue → State → Run) : Run :=
  if iss.lanes.isEmpty then body iss s else
  match queueFault s iss.u d.opds iss.lanes.length with
  | some c => .error (.flt (fault c) iss.lanes s)
  | none =>
    let us := queueUses iss.u d.opds iss.lanes.length
    let back (undone : List Nat) (s' : State) : State := unpop s s' iss.u d.opds iss.lanes.length (iss.lanes.length - undone.length)
    if us.isEmpty then body iss s
    else if queueReady s iss.u iss.gang us then
      match body iss (queueUnblock s iss.u iss.gang us) with
      | .ok s' => .ok s'
      | .error (.flt f undone s') => .error (.flt f undone (back undone s'))
      | .error (.wait r undone s') => .error (.wait r undone (back undone s'))
    else .error (.wait .queue iss.lanes (queueBlock s iss.u iss.gang us))

/-- The active lanes of the strand that stand at the instance of the instruction that the gang issues: those of its own gang, and of the gangs that have
come to it. -/
def Issue.atInstance (i : Issue) (d : Desc) : List Nat :=
  let others := i.u.gangs.filter (fun g => decide (g ≠ i.gang) && (i.u.gangSlices g).all (fun k =>
    let sl := i.u.slice k
    decide (sl.strand = i.strand ∧ sl.pc = i.pc ∧ smGet 0 sl.passes i.pc.toNat = i.pass)))
  i.lanes ++ (actLanes i.u (others.flatMap i.u.gangSlices) d.guarded).filter (fun l => !(d.unlogged && i.u.txLanes.contains l))

/-- The lane for which a uniform instruction makes its accesses: the lowest active one of its strand (R191), among those that stand at it (log entry 99). -/
def Issue.uniLane (i : Issue) (d : Desc) : List Nat := (i.atInstance d).foldl (fun b l => match b with | [] => [l] | m :: _ => if l < m then [l] else b) []

/-- A uniform instruction: once for the strand, by its first gang with an active lane (R31). Inside a transaction its access enters the log of the one
lane that makes it, a choice of the model where R221 names no lane (DEDUCED, log entry 99). -/
def uniformBody (s : State) (iss : Issue) (d : Desc) (body : Issue → State → Run) : Run :=
  if iss.shared.isSome || iss.lanes.isEmpty then .ok (countPass s iss)
  else
    match body { iss with lanes := iss.uniLane d } s with
    | .ok s => .ok (recordShared (countPass s iss) iss 0)
    | .error (.flt f undone s) => .error (.flt f (if undone.isEmpty then [] else iss.lanes) s)
    | .error (.wait r undone s) => .error (.wait r (if undone.isEmpty then [] else iss.lanes) s)

/-- One instruction of the gang or thread that cur names: the checks of R63 in their order, the pending tokens of R48, the dooming of R222, the
uniform unit where the instruction needs it (R281), then the instruction's own effect. -/
def frame (s : State) (d : Desc) (body : Issue → State → Run) : Res :=
  match issueOf s d.guarded with
  | none => .fault .noAgent
  | some iss =>
    match checks iss.u d with
    | some c => .next (takeFault s iss (fault c) iss.lanes)
    | none =>
      if waitsToken s iss d then .next (blocked s iss .token iss.lanes)
      else
        let doomed := if d.unlogged then iss.lanes.filter (fun l => iss.u.txLanes.contains l) else []
        let s := doomLanes s iss.u.place doomed 5
        let iss := { iss with lanes := iss.lanes.filter (fun l => !doomed.contains l) }
        let uniform := allUniform iss.u d.opds && !d.perGang
        if !uniformFree s iss d then .next (blocked (awaitUniform s iss) iss .structural iss.lanes)
        else if uniform then .next (settleRun iss d (withTokens s iss d (fun s => uniformBody s iss d body)))
        else if iss.lanes.isEmpty && !d.always then .next (complete s iss false)
        else .next (settleRun iss d (withTokens s iss d (fun s => issueBody s iss d body)))

/-- Where one lane of such an instruction meets a fault or must wait, it has changed nothing in any lane (R6; R207 and R188 state otherwise for loads and
stores only). -/
def wholeLanes (s : State) (iss : Issue) (r : Run) : Run :=
  match r with
  | .ok t => .ok t
  | .error (.flt f _ _) => .error (.flt f iss.lanes s)
  | .error (.wait st _ _) => .error (.wait st iss.lanes s)

/-- R30: in a wave, sources of uniform class alone with a destination of lane class: one result, written for every active lane. -/
def onceForAll (u : Unit) (os : List Opd) : Bool := u.isWave && os.any (fun o => o.wr && !isUniform o.f) && os.all (fun o => !o.rd || isUniform o.f)

/-- The values of the sources for the lanes of an issue. -/
def sources (s : State) (iss : Issue) (d : Desc) : State × List (List Nat) :=
  readAllOpds s iss.u (d.types.isSome && signedTy (modeType iss.u.regs.mode)) iss.lanes d.opds

def col (vs : List (List Nat)) (i : Nat) : List Nat := vs.getD i []

/-- OR flags into fstat (R41). -/
def orFlags (s : State) (p : Place) (f : BitVec 5) : State :=
  if f = 0 then s else s.modUnit p (fun u => u.modRegs (fun r => { r with fstat := r.fstat ||| f }))

/-- An instruction that computes one value per lane from its sources: op gets the lane's source values and answers the result and its flags. -/
def lanewise (s : State) (d : Desc) (out : Opd) (op : Issue → List Nat → Nat × BitVec 5) : Res :=
  let d := { d with opds := d.opds ++ [out] }
  frame s d (fun iss s =>
    let (s, vs) := sources s iss d
    let rs := (List.range iss.lanes.length).map (fun k => op iss (vs.map (fun c => c.getD k 0)))
    let s := orFlags s iss.u.place (rs.foldl (fun f r => f ||| r.2) 0)
    .ok (writeDst s iss.u out iss.lanes (rs.map (·.1))))

/-! ## Returning a unit to its program (R389) -/

/-- Whether a unit stands where the supervisor may replay, resume or redirect it. -/
def Control.faulted (c : Control) : Bool := decide (c.run = .parked ∨ c.run = .frozen ∨ c.run = .stopped)

/-- A unit becomes ready; a set halt flag makes it halted instead (R159). -/
def Control.ready (c : Control) : Control := { c with run := .ready, halted := c.haltFlag }

/-- Replay: the instruction at pc reissues for the unfinished lanes only. -/
def replayUnit (u : Unit) : Unit := u.modCtl Control.ready

/-- Resume: the unfinished mask is cleared, and a pc still at the faulting instruction reissues it for every active lane. -/
def resumeUnit (u : Unit) : Unit :=
  { u with ctl := { u.ctl.ready with unfinished := 0, done := 0 }, book := { u.book with sleeps := u.book.sleeps.map (fun x => { x with woken := true }) } }

/-- Redirect into a user handler (R45, R46, R389). -/
def redirectUnit (u : Unit) (target : DWord) : Unit :=
  let m := u.ctl.factive
  let un := u.ctl.unfinished
  let pc := loWord u.ctl.fpc
  let save := if u.isWave then (List.range 8).map (fun i => u.regs.getK (56 + i)) else ((List.range 4).map (fun i => u.regs.getK (12 + i))) ++ List.replicate 4 0
  let cause : Word := BitVec.ofNat 32 u.ctl.cause.toNat
  let regs :=
    if u.isWave then
      u.regs.setKs 56 [m.extractLsb' 0 32, m.extractLsb' 32 32, m.extractLsb' 64 32, un.extractLsb' 0 32, un.extractLsb' 32 32, un.extractLsb' 64 32, cause, pc]
    else u.regs.setKs 12 [if (u.slice 0).active ≠ 0 then 1 else 0, 1, cause, pc]
  { u with
    regs := regs,
    slices := u.slices.map (fun sl => { sl with pc := target, active := sl.live, atRegang := false }),
    ctl := { u.ctl.ready with redirected := true, redirSave := save, done := 0, unfinished := 0, skipBp := [] }, book := { u.book with stall := [], held := [], sleeps := [], modeSince := [] } }

/-- Return from a user handler (R389 action 4). -/
def returnUnit (u : Unit) (target : DWord) : Unit :=
  let m : LaneMask := if u.isWave then (u.regs.getK 58) ++ (u.regs.getK 57) ++ (u.regs.getK 56) else BitVec.ofNat 96 ((u.regs.getK 12).toNat % 2)
  let regs := if u.isWave then u.regs.setKs 56 (u.ctl.redirSave.take 8) else u.regs.setKs 12 (u.ctl.redirSave.take 4)
  { u with
    regs := regs,
    slices := u.slices.zipIdx.map (fun (sl, i) => { sl with pc := target, active := (m.extractLsb' (4 * i) 4) &&& sl.live, atRegang := false }),
    ctl := { u.ctl.ready with redirected := false, done := 0, unfinished := 0, skipBp := [], mxBusy := u.ctl.mxBusy && decide (target = u.ctl.mxPc) },
    book := { u.book with held := [], sleeps := [], modeSince := [] } }

end Sys2Proof.Machine
end

