-- ==== Sys2Proof/Machine/IntAlu.lean ====
section
/-! DEFINITION. Opcodes 0x20 to 0x5D without LANE and BCAST: arithmetic, compares, predicates, logic, shifts, moves and addresses, under the integer
types and, for the generic opcodes, under the float types (R75 to R94, R106, R115 to R117). -/

namespace Sys2Proof.Machine

/-! ## Operands under a type -/

/-- The mode register of the unit that cur names. -/
def curMode (s : State) : BitVec 16 := (issueOf s false).elim 0 (fun i => i.u.regs.mode)

def curType (s : State) : Nat := modeType (curMode s)

/-- The width of an element in bits (R75, R108). -/
def elemBits (ty : Nat) : Nat :=
  if is64 ty then 64 else if ty = 5 ∨ ty = 6 ∨ ty = 9 ∨ ty = 10 then 16 else if ty = 7 ∨ ty = 8 ∨ ty = 11 ∨ ty = 12 then 8 else if ty = 13 ∨ ty = 14 then 4 else 32

def elemCount (ty : Nat) : Nat := if is64 ty then 1 else 32 / elemBits ty

def isFloatTy (ty : Nat) : Bool := decide (4 ≤ ty ∧ ty ≤ 8) || decide (ty = 13)

/-- The format of a float type. -/
def floatFmt (ty : Nat) : Fmt :=
  if ty = 5 then fp16 else if ty = 6 then bf16 else if ty = 7 then e4m3 else if ty = 8 then e5m2 else if ty = 13 then e2m1 else fp32

/-- The float types of the generic opcodes (R115). -/
def genericFloat : List Nat := [4, 5, 6]
def genericTypes : List Nat := intTypes ++ genericFloat
def scalarInt : List Nat := [0, 1, 2, 3]

/-- An element read as an exact integer, signed under the i types (R75). -/
def elemInt (ty x : Nat) : Int := if signedTy ty then sint (elemBits ty) x else (x : Int)

/-- The smallest and largest value of a type. -/
def typeMin (ty : Nat) : Int := if signedTy ty then -(2 ^ (elemBits ty - 1) : Nat) else 0
def typeMax (ty : Nat) : Int := if signedTy ty then (2 ^ (elemBits ty - 1) : Nat) - 1 else (2 ^ elemBits ty : Nat) - 1

/-- Fit of R76, as bits. -/
def fit (ty : Nat) (sat : Bool) (x : Int) : Nat :=
  let y := if sat then max (typeMin ty) (min x (typeMax ty)) else x
  (y.emod (2 ^ elemBits ty : Nat)).toNat

/-- A value with its flags. -/
abbrev VF := Nat × BitVec 5

def FR.vf (r : FR) : VF := (r.v, r.fl)

/-- Apply an element operation to every element of typed values. -/
def perElem (ty : Nat) (f : List Nat → VF) (vs : List Nat) : VF :=
  let w := elemBits ty
  (List.range (elemCount ty)).foldr
    (fun e acc => let r := f (vs.map (fun v => v / 2 ^ (w * e) % 2 ^ w)); (r.1 % 2 ^ w + 2 ^ w * acc.1, r.2 ||| acc.2)) (0, 0)

/-- An instruction with a typed destination and typed sources, computed per element (R75, R79). -/
def typedOp (s : State) (types : List Nat) (d : Fld) (opds : List Opd) (f : Nat → FMode → List Nat → VF) : Res :=
  lanewise s { types := some types, opds := opds } (dst d (wide (is64 (curType s))))
    (fun iss vs => let ty := modeType iss.u.regs.mode; perElem ty (f ty (fmodeOf iss.u.regs.mode)) vs)

def tsrc (s : State) (f : Fld) : Opd := src f (wide (is64 (curType s)))

/-- A destination that is read before it is written (R77). -/
def rwOpd (f : Fld) (sh : Shape) : Opd := { f := f, sh := sh, rd := true, wr := true, rule := .noQueue }

/-- An arithmetic opcode: its integer function through Fit, and its float function (R80, R115). -/
def arith (iop : List Int → Int) (fop : Fmt → FMode → List Nat → FR) (ty : Nat) (m : FMode) (xs : List Nat) : VF :=
  if isFloatTy ty then (fop (floatFmt ty) m xs).vf else (fit ty m.sat (iop (xs.map (elemInt ty))), 0)

def x0 {α : Type} [Inhabited α] (xs : List α) : α := xs.getD 0 default
def x1 {α : Type} [Inhabited α] (xs : List α) : α := xs.getD 1 default
def x2 {α : Type} [Inhabited α] (xs : List α) : α := xs.getD 2 default

/-! ## Arithmetic (R80 to R83, R115, R116) -/

def execAdd (d a b : Fld) (s : State) : Res :=
  typedOp s genericTypes d [tsrc s a, tsrc s b] (arith (fun x => x0 x + x1 x) (fun f m x => f.add m (x0 x) (x1 x)))

def execSub (d a b : Fld) (s : State) : Res :=
  typedOp s genericTypes d [tsrc s a, tsrc s b] (arith (fun x => x0 x - x1 x) (fun f m x => f.sub m (x0 x) (x1 x)))

def execMul (d a b : Fld) (s : State) : Res :=
  typedOp s genericTypes d [tsrc s a, tsrc s b] (arith (fun x => x0 x * x1 x) (fun f m x => f.mul m (x0 x) (x1 x)))

def execMad (d a b : Fld) (s : State) : Res :=
  typedOp s genericTypes d [tsrc s a, tsrc s b, rwOpd d (wide (is64 (curType s)))]
    (arith (fun x => x0 x * x1 x + x2 x) (fun f m x => f.mad m (x0 x) (x1 x) (x2 x)))

/-- MIN or MAX of two elements, with no Fit (R80, R116). -/
def elemMinMax (mx : Bool) (ty : Nat) (ftz : Bool) (a b : Nat) : Nat :=
  if isFloatTy ty then (floatFmt ty).minmax mx ftz a b
  else if (if mx then decide (elemInt ty b < elemInt ty a) else decide (elemInt ty a < elemInt ty b)) then a else b

def execMin (d a b : Fld) (s : State) : Res :=
  typedOp s genericTypes d [tsrc s a, tsrc s b] (fun ty m x => (elemMinMax false ty m.ftz (x0 x) (x1 x), 0))

def execMax (d a b : Fld) (s : State) : Res :=
  typedOp s genericTypes d [tsrc s a, tsrc s b] (fun ty m x => (elemMinMax true ty m.ftz (x0 x) (x1 x), 0))

/-- NEG and ABS of a float (R115): exact, reading sat and ftz. -/
def Fmt.signOp (f : Fmt) (m : FMode) (g : XR → XR) (a : Nat) : FR := f.round .rne m.sat m.ftz false (g (f.decodeFtz m.ftz a))

def XR.abs : XR → XR
  | .nan => .nan
  | .inf _ => .inf false
  | .fin _ n e => .fin false n e

def execNeg (d a : Fld) (s : State) : Res :=
  typedOp s genericTypes d [tsrc s a] (arith (fun x => -(x0 x)) (fun f m x => f.signOp m XR.negate (x0 x)))

def execAbs (d a : Fld) (s : State) : Res :=
  typedOp s genericTypes d [tsrc s a] (arith (fun x => ((x0 x).natAbs : Int)) (fun f m x => f.signOp m XR.abs (x0 x)))

/-- The signed 8-bit immediate. -/
def simm (i : BitVec 8) : Int := i.toInt

def execAddi (d a : Fld) (i : BitVec 8) (s : State) : Res :=
  typedOp s scalarInt d [tsrc s a] (fun ty m x => (fit ty m.sat (elemInt ty (x0 x) + simm i), 0))

def execMuli (d a : Fld) (i : BitVec 8) (s : State) : Res :=
  typedOp s scalarInt d [tsrc s a] (fun ty m x => (fit ty m.sat (elemInt ty (x0 x) * simm i), 0))

def execClamp (d a b : Fld) (s : State) : Res :=
  typedOp s genericTypes d [tsrc s a, tsrc s b, rwOpd d (wide (is64 (curType s)))]
    (fun ty m x => (elemMinMax false ty m.ftz (elemMinMax true ty m.ftz (x2 x) (x0 x)) (x1 x), 0))

def execMulh (d a b : Fld) (s : State) : Res :=
  typedOp s scalarInt d [tsrc s a, tsrc s b]
    (fun ty _ x => (((elemInt ty (x0 x) * elemInt ty (x1 x)) / (2 ^ elemBits ty : Nat)).emod (2 ^ elemBits ty : Nat) |>.toNat, 0))

/-- The quotient of R81, as bits. -/
def divInt (ty : Nat) (sat : Bool) (a b : Int) : Nat :=
  if b = 0 then
    (if sat && signedTy ty then fit ty false (if 0 ≤ a then typeMax ty else typeMin ty) else 2 ^ elemBits ty - 1)
  else fit ty sat (Int.tdiv a b)

def execDiv (d a b : Fld) (s : State) : Res :=
  typedOp s (scalarInt ++ genericFloat) d [tsrc s a, tsrc s b]
    (fun ty m x => if isFloatTy ty then ((floatFmt ty).div m (x0 x) (x1 x)).vf else (divInt ty m.sat (elemInt ty (x0 x)) (elemInt ty (x1 x)), 0))

def execRem (d a b : Fld) (s : State) : Res :=
  typedOp s scalarInt d [tsrc s a, tsrc s b] (fun ty _ x => (fit ty false (Int.tmod (elemInt ty (x0 x)) (elemInt ty (x1 x))), 0))

/-- The sum of absolute differences of the elements of two registers (R82). -/
def sadSum (ty a b : Nat) : Nat :=
  let w := elemBits ty
  (List.range (elemCount ty)).foldl (fun n e => n + (elemInt ty (a / 2 ^ (w * e) % 2 ^ w) - elemInt ty (b / 2 ^ (w * e) % 2 ^ w)).natAbs) 0

def execSad (d a b : Fld) (s : State) : Res :=
  lanewise s { types := some [0, 1, 9, 10, 11, 12], opds := [src a .one, src b .one, rwOpd d .one] } (dst d .one)
    (fun iss x => let m := iss.u.regs.mode; (fit 1 (modeSat m) ((x2 x + sadSum (modeType m) (x0 x) (x1 x) : Nat) : Int), 0))

def execAddc (d a b : Fld) (s : State) : Res :=
  lanewise s { types := some [0, 1], opds := [src a .one, src b .one, rwOpd d .pair] } (dst d .pair)
    (fun _ x => (x0 x + x1 x + x2 x / 2 ^ 32 % 2, 0))

/-! ## Compares and predicates (R84, R85, R117) -/

/-- A relation by the sign of the difference. -/
inductive Rel where
  | eq | ne | lt | le | gt | ge
  deriving DecidableEq, Repr

def Rel.holds (r : Rel) (c : Int) : Bool :=
  match r with
  | .eq => decide (c = 0)
  | .ne => decide (c ≠ 0)
  | .lt => decide (c < 0)
  | .le => decide (c ≤ 0)
  | .gt => decide (0 < c)
  | .ge => decide (0 ≤ c)

/-- The ordered compares, which raise nv for a NaN (R114). -/
def Rel.ordered : Rel → Bool
  | .eq | .ne => false
  | _ => true

/-- What a compare writes for an element (R84). -/
def truthElem (ty : Nat) (b : Bool) : Nat := if b then (if elemCount ty = 1 then 1 else 2 ^ elemBits ty - 1) else 0

def compareElem (r : Rel) (ty : Nat) (m : FMode) (a b : Nat) : VF :=
  if isFloatTy ty then
    let f := floatFmt ty
    let x := f.decodeFtz m.ftz a
    let y := f.decodeFtz m.ftz b
    if x.isNan || y.isNan then (truthElem ty (decide (r = .ne)), if r.ordered then fNv else 0)
    else (truthElem ty (r.holds (x.cmp y)), 0)
  else (truthElem ty (r.holds (elemInt ty a - elemInt ty b)), 0)

/-- A compare: typed sources, a single destination (R84, R106). -/
def compareOp (s : State) (types : List Nat) (d : Fld) (opds : List Opd) (f : Nat → FMode → List Nat → VF) : Res :=
  lanewise s { types := some types, opds := opds } (dst d .one)
    (fun iss vs => let ty := modeType iss.u.regs.mode; perElem ty (f ty (fmodeOf iss.u.regs.mode)) vs)

def compareRel (s : State) (r : Rel) (d a b : Fld) : Res :=
  compareOp s genericTypes d [tsrc s a, tsrc s b] (fun ty m x => compareElem r ty m (x0 x) (x1 x))

def execCeq (d a b : Fld) (s : State) : Res := compareRel s .eq d a b
def execCne (d a b : Fld) (s : State) : Res := compareRel s .ne d a b
def execClt (d a b : Fld) (s : State) : Res := compareRel s .lt d a b
def execCle (d a b : Fld) (s : State) : Res := compareRel s .le d a b
def execCgt (d a b : Fld) (s : State) : Res := compareRel s .gt d a b
def execCge (d a b : Fld) (s : State) : Res := compareRel s .ge d a b

def execCun (d a b : Fld) (s : State) : Res :=
  compareOp s genericFloat d [tsrc s a, tsrc s b]
    (fun ty _ x => (truthElem ty (((floatFmt ty).decode (x0 x)).isNan || ((floatFmt ty).decode (x1 x)).isNan), 0))

/-- The immediate sign-extended to the type's width and read under the type (R84). -/
def immUnder (ty : Nat) (i : BitVec 8) : Int := elemInt ty (i.toInt.emod (2 ^ elemBits ty : Nat)).toNat

def execCeqi (d a : Fld) (i : BitVec 8) (s : State) : Res :=
  compareOp s scalarInt d [tsrc s a] (fun ty _ x => (truthElem ty (decide (elemInt ty (x0 x) = immUnder ty i)), 0))

def execClti (d a : Fld) (i : BitVec 8) (s : State) : Res :=
  compareOp s scalarInt d [tsrc s a] (fun ty _ x => (truthElem ty (decide (elemInt ty (x0 x) < immUnder ty i)), 0))

/-- The truth of a 32-bit value (R85). -/
def truth (x : Nat) : Bool := decide (x ≠ 0)
def bitOf (b : Bool) : Nat := if b then 1 else 0

/-- An instruction that reads no type and whose operands are single registers. -/
def plainOp (s : State) (d : Fld) (opds : List Opd) (f : List Nat → Nat) : Res :=
  lanewise s { opds := opds } (dst d .one) (fun _ x => (f x, 0))

def execPand (d a b : Fld) (s : State) : Res := plainOp s d [src a .one, src b .one] (fun x => bitOf (truth (x0 x) && truth (x1 x)))
def execPor (d a b : Fld) (s : State) : Res := plainOp s d [src a .one, src b .one] (fun x => bitOf (truth (x0 x) || truth (x1 x)))
def execPxor (d a b : Fld) (s : State) : Res := plainOp s d [src a .one, src b .one] (fun x => bitOf (truth (x0 x) ^^ truth (x1 x)))
def execPnot (d a : Fld) (s : State) : Res := plainOp s d [src a .one] (fun x => bitOf (!truth (x0 x)))

def execClass (d a b : Fld) (s : State) : Res :=
  lanewise s { types := some genericFloat, opds := [src a .one, src b .one] } (dst d .one)
    (fun iss x =>
      let ty := modeType iss.u.regs.mode
      perElem ty (fun y => (truthElem ty ((x1 x).testBit ((floatFmt ty).classOf (x0 y))), 0)) [x0 x])

def execTstb (d a : Fld) (i : BitVec 5) (s : State) : Res := plainOp s d [src a .one] (fun x => bitOf ((x0 x).testBit i.toNat))

def execPmov (d a b : Fld) (s : State) : Res :=
  plainOp s d [src a .one, src b .one, rwOpd d .one] (fun x => if truth (x1 x) then x0 x else x2 x)

/-! ## Logic, shifts and bit fields (R86 to R89) -/

/-- A bitwise opcode: pairs under i64 and n64, single registers under every other type (R86). -/
def logicOp (s : State) (d : Fld) (opds : List Opd) (f : Nat → List Nat → Nat) : Res :=
  let t := wide (is64 (curType s))
  lanewise s { types := some allTypes, opds := opds } (dst d t) (fun _ x => (f (32 * t.words) x, 0))

def notBits (w x : Nat) : Nat := 2 ^ w - 1 - x % 2 ^ w

def execAnd (d a b : Fld) (s : State) : Res := logicOp s d [tsrc s a, tsrc s b] (fun _ x => x0 x &&& x1 x)
def execOr (d a b : Fld) (s : State) : Res := logicOp s d [tsrc s a, tsrc s b] (fun _ x => x0 x ||| x1 x)
def execXor (d a b : Fld) (s : State) : Res := logicOp s d [tsrc s a, tsrc s b] (fun _ x => x0 x ^^^ x1 x)
def execNot (d a : Fld) (s : State) : Res := logicOp s d [tsrc s a] (fun w x => notBits w (x0 x))
def execAndn (d a b : Fld) (s : State) : Res := logicOp s d [tsrc s a, tsrc s b] (fun w x => x0 x &&& notBits w (x1 x))

inductive ShiftOp where
  | shl | shr | sar | rol
  deriving DecidableEq, Repr

/-- A shift of w bits by c (R87). -/
def shiftBits (o : ShiftOp) (w x c : Nat) : Nat :=
  match o with
  | .shl => if c < w then (x * 2 ^ c) % 2 ^ w else 0
  | .shr => if c < w then x / 2 ^ c else 0
  | .sar => ((sint w x / (2 ^ (if c < w then c else w) : Nat)).emod (2 ^ w : Nat)).toNat
  | .rol => let k := c % w; ((x * 2 ^ k) % 2 ^ w) ||| (x / 2 ^ (w - k))

def shiftReg (s : State) (o : ShiftOp) (d a b : Fld) : Res :=
  let t := wide (is64 (curType s))
  lanewise s { types := some scalarInt, opds := [src a t, src b .one] } (dst d t) (fun _ x => (shiftBits o (32 * t.words) (x0 x) (x1 x), 0))

def shiftImm (s : State) (o : ShiftOp) (d a : Fld) (c : Nat) : Res :=
  let t := wide (is64 (curType s))
  lanewise s { types := some scalarInt, opds := [src a t] } (dst d t) (fun _ x => (shiftBits o (32 * t.words) (x0 x) c, 0))

def execShl (d a b : Fld) (s : State) : Res := shiftReg s .shl d a b
def execShr (d a b : Fld) (s : State) : Res := shiftReg s .shr d a b
def execSar (d a b : Fld) (s : State) : Res := shiftReg s .sar d a b
def execRol (d a b : Fld) (s : State) : Res := shiftReg s .rol d a b
def execShli (d a : Fld) (i : BitVec 6) (s : State) : Res := shiftImm s .shl d a i.toNat
def execShri (d a : Fld) (i : BitVec 6) (s : State) : Res := shiftImm s .shr d a i.toNat
def execSari (d a : Fld) (i : BitVec 6) (s : State) : Res := shiftImm s .sar d a i.toNat

/-- The number of one bits among the low n bits. -/
def popCount : Nat → Nat → Nat
  | 0, _ => 0
  | n + 1, x => x % 2 + popCount n (x / 2)

/-- The low n bits in reverse order. -/
def bitRev : Nat → Nat → Nat
  | 0, _ => 0
  | n + 1, x => x % 2 * 2 ^ n + bitRev n (x / 2)

/-- The zero bits above the highest one bit of w bits (R88). -/
def leadingZeros (w x : Nat) : Nat := if x = 0 then w else w - 1 - Nat.log2 x

/-- POPC and CLZ: a typed source and a single destination. -/
def countOp (s : State) (d a : Fld) (f : Nat → Nat → Nat) : Res :=
  let t := wide (is64 (curType s))
  lanewise s { types := some scalarInt, opds := [src a t] } (dst d .one) (fun _ x => (f (32 * t.words) (x0 x), 0))

def execPopc (d a : Fld) (s : State) : Res := countOp s d a (fun w x => popCount w x)
def execClz (d a : Fld) (s : State) : Res := countOp s d a leadingZeros

def execBrev (d a : Fld) (s : State) : Res :=
  typedOp s scalarInt d [tsrc s a] (fun ty _ x => (bitRev (elemBits ty) (x0 x), 0))

/-- The field that b selects: its position and length, or none when it is empty (R89). -/
def bitField (b : Nat) : Option (Nat × Nat) :=
  let pos := nbits b 7 0
  let len := nbits b 15 8
  if len = 0 ∨ 32 ≤ pos then none else some (pos, min (pos + len) 32 - pos)

def bfeVal (signed : Bool) (x b : Nat) : Nat :=
  match bitField b with
  | none => 0
  | some (pos, n) =>
    let f := x / 2 ^ pos % 2 ^ n
    if signed then (sext n 32 f).toNat else f

def bfiVal (y x b : Nat) : Nat :=
  match bitField b with
  | none => y
  | some (pos, n) => (putBits (BitVec.ofNat 32 y) (pos + n - 1) pos x).toNat

def execBfe (d a b : Fld) (s : State) : Res :=
  lanewise s { types := some [0, 1], opds := [src a .one, src b .one] } (dst d .one)
    (fun iss x => (bfeVal (decide (modeType iss.u.regs.mode = 0)) (x0 x) (x1 x), 0))

def execBfi (d a b : Fld) (s : State) : Res := plainOp s d [src a .one, src b .one, rwOpd d .one] (fun x => bfiVal (x2 x) (x0 x) (x1 x))

/-! ## Moves, permutes and packing (R90 to R93) -/

def execMov (d a : Fld) (s : State) : Res := logicOp s d [tsrc s a] (fun _ x => x0 x)

def execMovl (d : Fld) (i : BitVec 16) (s : State) : Res := plainOp s d [] (fun _ => i.toNat)
def execMovh (d : Fld) (i : BitVec 16) (s : State) : Res := plainOp s d [rwOpd d .one] (fun x => i.toNat * 65536 + x0 x % 65536)
def execMovs (d : Fld) (i : BitVec 16) (s : State) : Res := plainOp s d [] (fun _ => (sext 16 32 i.toNat).toNat)

/-- PRMT (R92): the bytes of the pool that four selectors name. -/
def permute (pool sel : Nat) : Nat :=
  ofBytes ((List.range 4).map (fun i =>
    let k := sel / 16 ^ i % 16
    let b := pool / 256 ^ (k % 8) % 256
    BitVec.ofNat 8 (if 8 ≤ k then (if 128 ≤ b then 0xFF else 0) else b)))

def execPrmt (d a b : Fld) (s : State) : Res := plainOp s d [src a .pair, src b .one] (fun x => permute (x0 x) (x1 x))

/-- PACK (R93): two wider values narrowed through Fit. -/
def packVal (ty : Nat) (sat : Bool) (a b : Nat) : Nat :=
  if ty = 9 ∨ ty = 10 then
    let rd (x : Nat) : Int := elemInt (if ty = 9 then 0 else 1) x
    fit ty sat (rd a) + 65536 * fit ty sat (rd b)
  else
    let rd (x : Nat) : Int := elemInt (if ty = 11 then 9 else 10) x
    fit ty sat (rd (a % 65536)) + 256 * fit ty sat (rd (a / 65536)) + 65536 * fit ty sat (rd (b % 65536)) + 16777216 * fit ty sat (rd (b / 65536))

def execPack (d a b : Fld) (s : State) : Res :=
  lanewise s { types := some [9, 10, 11, 12], opds := [src a .one, src b .one] } (dst d .one)
    (fun iss x => (packVal (modeType iss.u.regs.mode) (modeSat iss.u.regs.mode) (x0 x) (x1 x), 0))

/-! ## Address arithmetic (R94) -/

def addrOp (s : State) (d : Fld) (opds : List Opd) (f : List Nat → Int) : Res :=
  lanewise s { opds := opds } (dst d .pair) (fun _ x => ((f x).emod (2 ^ 64 : Nat) |>.toNat, 0))

def execAdda (d a b : Fld) (s : State) : Res := addrOp s d [src a .pair, src b .one] (fun x => ((x0 x : Nat) : Int) + sint 32 (x1 x))
def execAddai (d a : Fld) (i : BitVec 8) (s : State) : Res := addrOp s d [src a .pair] (fun x => ((x0 x : Nat) : Int) + simm i)
def execSuba (d a b : Fld) (s : State) : Res := addrOp s d [src a .pair, src b .pair] (fun x => ((x0 x : Nat) : Int) - x1 x)
def execClta (d a b : Fld) (s : State) : Res := plainOp s d [src a .pair, src b .pair] (fun x => bitOf (decide (x0 x < x1 x)))
def execCeqa (d a b : Fld) (s : State) : Res := plainOp s d [src a .pair, src b .pair] (fun x => bitOf (decide (x0 x = x1 x)))

end Sys2Proof.Machine
end

