-- ==== Sys2Proof/Machine/CrossLane.lean ====
section
/-! DEFINITION. LANE, BCAST and opcodes 0x80 to 0x8B: instructions that wait for their strand and execute once for it (R95 to R105, R451, R452). -/

namespace Sys2Proof.Machine

/-! ## The frame of a strand -/

/-- The strand-wide issue: every live slice of the strand, its lanes active under the guard; under the gang of its lowest slice. -/
def Issue.strandWide (i : Issue) : Issue :=
  let is := i.u.strandSlices i.strand
  { i with gang := (i.u.slice (is.headD 0)).gang, slices := is, lanes := actLanes i.u is true }

/-- Every gang of the strand stands at this instruction (R95). -/
def Issue.gathered (i : Issue) : Bool := (i.u.strandSlices i.strand).all (fun k => decide ((i.u.slice k).pc = i.pc))

/-- Every gang of a strand completes the instruction. -/
def completeStrand (s : State) (w : Issue) : State :=
  (dedup (w.slices.map (fun k => (w.u.slice k).gang))).foldl
    (fun s g => complete s { w with gang := g, slices := w.slices.filter (fun k => decide ((w.u.slice k).gang = g)) } false) s

/-- One instruction that acts on its strand (R95, R97, R98): it waits for the strand's other gangs, then executes once. The body gets the strand-wide
issue; with no active lane it writes nothing. -/
def strandFrame (s : State) (d : Desc) (body : Issue → State → Run) : Res :=
  match issueOf s true with
  | none => .fault .noAgent
  | some iss =>
    match checks iss.u d with
    | some c => .next (takeFault s iss (fault c) iss.lanes)
    | none =>
      let w := iss.strandWide
      if namesPending s iss.u d then .next (blocked s iss .token iss.lanes)
      else if !iss.gathered then .next (blocked s iss .register iss.lanes)
      else if w.lanes.isEmpty then .next (completeStrand s w)
      else
        match withTokens s w d (fun s => issueBody s w d body) with
        | .ok s => .next (completeStrand s w)
        | .error (.flt f undone s) => .next (takeFault s iss f undone)
        | .error (.wait r undone s) => .next (blocked s iss r undone)

/-! ## Reading another lane -/

def liveLane (u : Unit) (j : Nat) : Bool := (u.slice (j / 4)).live.getLsbD (j % 4) && decide (j / 4 < u.slices.length)

/-- Operand a of lane j (R96): 0 when the lane is not live. A lane of another strand is read as it stands (log entry 20). -/
def readLane (s : State) (u : Unit) (a : Opd) (j : Nat) : Nat := if liveLane u j then readOpd s u a false j else 0

/-- The values of an operand in the lanes of a strand. -/
def laneVals (s : State) (w : Issue) (a : Opd) (sx : Bool) : List Nat := w.lanes.map (readOpd s w.u a sx)

/-- The value of a uniform-class operand. -/
def uniVal (s : State) (w : Issue) (b : Opd) (sx : Bool) : Nat := readOpd s w.u b sx (w.lanes.headD 0)

def noQ (f : Fld) (sh : Shape) : Opd := (src f sh).must .noQueue
def uni (f : Fld) (sh : Shape) : Opd := (src f sh).must .uniform

/-- Write the same value for every lane of the strand: once to a k register. -/
def writeSame (s : State) (w : Issue) (d : Opd) (v : Nat) : State := writeDst s w.u d w.lanes (w.lanes.map (fun _ => v))

/-- A thread takes any class for the operand that a wave takes only from the uniform class; it may be a queue register (R30). -/
def execLane (d a b : Fld) (s : State) : Res :=
  let (oa, ob, od) := (noQ a .one, uni b .one, dst d .one)
  strandFrame s { opds := [oa, ob, od], freeClass := true } (fun w s =>
    let (s, vs) := readAllOpds s w.u false w.lanes [ob]
    .ok (writeSame s w od (readLane s w.u oa ((col vs 0).headD 0))))

/-- BCAST (R95). DESIGN CHOICE (log entry 110): d must be of lane class, so every k destination in a wave raises FLT_OPERAND, also beside a uniform a; a
constant as d, of uniform class too, discards the result as R36 has it and raises nothing. -/
def execBcast (d a : Fld) (s : State) : Res :=
  let (oa, od) := (noQ a .one, (dst d .one).must .lane)
  strandFrame s { opds := [oa, od] } (fun w s => .ok (writeSame s w od (readOpd s w.u oa false (w.lanes.headD 0))))

/-! ## Shuffles (R99) -/

/-- A shuffle: the source lane of each lane, none for a lane outside 0 to 95. -/
def shuffle (s : State) (bad : Bool) (d a : Fld) (more : List Opd) (pick : State → Issue → Nat → Option Nat) : Res :=
  let (oa, od) := (noQ a .one, (dst d .one).must .lane)
  strandFrame s { engines := .waveOnly, bad := bad, opds := [oa] ++ more ++ [od] } (fun w s =>
    .ok (writeDst s w.u od w.lanes (w.lanes.map (fun l =>
      match pick s w l with
      | some j => if j < 96 then readLane s w.u oa j else readOpd s w.u oa false l
      | none => readOpd s w.u oa false l))))

def execShfl (d a b : Fld) (s : State) : Res :=
  shuffle s false d a [noQ b .one] (fun s w l => some (readOpd s w.u (noQ b .one) false l))

def execShflx (d a b : Fld) (s : State) : Res :=
  shuffle s false d a [uni b .one] (fun s w l => some (l ^^^ (uniVal s w (uni b .one) false % 128)))

/-- imm8 of SHFLU and SHFLD outside 1 to 95 is reserved (R99). -/
def shiftBad (i : BitVec 8) : Bool := decide (i.toNat < 1 ∨ 95 < i.toNat)

def execShflu (d a : Fld) (i : BitVec 8) (s : State) : Res :=
  shuffle s (shiftBad i) d a [] (fun _ _ l => if i.toNat ≤ l then some (l - i.toNat) else none)

def execShfld (d a : Fld) (i : BitVec 8) (s : State) : Res :=
  shuffle s (shiftBad i) d a [] (fun _ _ l => some (l + i.toNat))

/-! ## Votes (R100, R103, R104) -/

/-- The strand's lanes for which a predicate on the operand holds. -/
def votersOf (s : State) (w : Issue) (a : Opd) : List Nat := w.lanes.filter (fun l => truth (readOpd s w.u a false l))

def execVote (d a : Fld) (s : State) : Res :=
  let (oa, od) := (noQ a .one, dst d (if isK d then .mask else .one))
  strandFrame s { engines := .waveOnly, opds := [oa, od], freeClass := true } (fun w s =>
    let vs := votersOf s w oa
    .ok (writeSame s w od (if isK d then (maskOf vs).toNat else vs.length)))

def execVany (d a : Fld) (s : State) : Res :=
  let (oa, od) := (noQ a .one, dst d .one)
  strandFrame s { engines := .waveOnly, opds := [oa, od], freeClass := true } (fun w s => .ok (writeSame s w od (bitOf (!(votersOf s w oa).isEmpty))))

def execVall (d a : Fld) (s : State) : Res :=
  let (oa, od) := (noQ a .one, dst d .one)
  strandFrame s { engines := .waveOnly, opds := [oa, od], freeClass := true } (fun w s =>
    .ok (writeSame s w od (bitOf (decide ((votersOf s w oa).length = w.lanes.length)))))

/-- MATCH (R103). DESIGN CHOICE (log entry 110): a lane-class d raises the fault that R103 names; a constant as d discards the result as R36 has it. -/
def execMatchLanes (d a b : Fld) (s : State) : Res :=
  let t := wide (is64 (curType s))
  let (oa, ob, od) := (noQ a t, uni b t, dst d .mask)
  strandFrame s { engines := .waveOnly, types := some allTypes, opds := [oa, ob, od], freeClass := true } (fun w s =>
    let sx := signedTy (modeType w.u.regs.mode)
    let v := uniVal s w ob sx
    .ok (writeSame s w od (maskOf (w.lanes.filter (fun l => decide (readOpd s w.u oa sx l = v)))).toNat))

def execElect (d a : Fld) (s : State) : Res :=
  let (oa, od) := (noQ a .one, dst d .one)
  strandFrame s { engines := .waveOnly, opds := [oa, od], freeClass := true } (fun w s =>
    let e := (votersOf s w oa).head?
    if isK d then .ok (writeSame s w od (e.getD 0xFFFFFFFF))
    else .ok (writeDst s w.u od w.lanes (w.lanes.map (fun l => bitOf (decide (e = some l))))))

/-! ## Reductions and scans (R101, R102) -/

def reduceTypes : List Nat := [0, 1, 2, 3, 4]

/-- One step of a fold other than integer addition: codes 0 add (f32), 1 min, 2 max, 3 and, 4 or, 5 xor. -/
def foldStep (ty op : Nat) (m : FMode) (x y : Nat) : VF :=
  match op with
  | 0 => (fp32.add m x y).vf
  | 1 => (elemMinMax false ty m.ftz x y, 0)
  | 2 => (elemMinMax true ty m.ftz x y, 0)
  | 3 => (x &&& y, 0)
  | 4 => (x ||| y, 0)
  | _ => (x ^^^ y, 0)

/-- The fold of values in lane order (R101); an integer sum is exact and fits once. -/
def foldLanes (ty op : Nat) (m : FMode) : List Nat → VF
  | [] => (0, 0)
  | x :: xs =>
    if op = 0 ∧ isFloatTy ty = false then (fit ty m.sat ((x :: xs).foldl (fun t y => t + elemInt ty y) 0), 0)
    else xs.foldl (fun acc y => let r := foldStep ty op m acc.1 y; (r.1, acc.2 ||| r.2)) (x, 0)

/-- The identity of an operation (R102). -/
def foldIdentity (ty op : Nat) : Nat :=
  if ty = 4 then (match op with | 1 => 0x7F800000 | 2 => 0xFF800000 | _ => 0)
  else match op with
    | 1 => fit ty false (typeMax ty)
    | 2 => fit ty false (typeMin ty)
    | 3 => 2 ^ elemBits ty - 1
    | _ => 0

def foldCodeOk (ty op : Nat) : Bool := decide (op ≤ 5) && (decide (ty ≠ 4) || decide (op ≤ 2))

def execRdx (d a b : Fld) (s : State) : Res :=
  let t := wide (is64 (curType s))
  let (oa, ob, od) := (noQ a t, uni b .one, dst d t)
  strandFrame s { engines := .waveOnly, types := some reduceTypes, opds := [oa, ob, od], freeClass := true } (fun w s =>
    let ty := modeType w.u.regs.mode
    let op := uniVal s w ob false
    if foldCodeOk ty op then
      let r := foldLanes ty op (fmodeOf w.u.regs.mode) (laneVals s w oa (signedTy ty))
      .ok (writeSame (orFlags s w.u.place r.2) w od r.1)
    else .error (.flt (fault .operand) w.lanes s))

def execScan (d a b : Fld) (s : State) : Res :=
  let t := wide (is64 (curType s))
  let (oa, ob, od) := (noQ a t, uni b .one, (dst d t).must .lane)
  strandFrame s { engines := .waveOnly, types := some reduceTypes, opds := [oa, ob, od] } (fun w s =>
    let ty := modeType w.u.regs.mode
    let c := uniVal s w ob false
    let op := c % 256
    let excl := decide (c / 256 % 2 = 1)
    if foldCodeOk ty op && decide (c / 512 = 0) then
      let vs := laneVals s w oa (signedTy ty)
      let rs := (List.range vs.length).map (fun p =>
        if excl then (if p = 0 then (foldIdentity ty op, 0) else foldLanes ty op (fmodeOf w.u.regs.mode) (vs.take p))
        else foldLanes ty op (fmodeOf w.u.regs.mode) (vs.take (p + 1)))
      .ok (writeDst (orFlags s w.u.place (rs.foldl (fun f r => f ||| r.2) 0)) w.u od w.lanes (rs.map (·.1)))
    else .error (.flt (fault .operand) w.lanes s))

/-! ## TOPK (R451, R452) -/

/-- Whether key x ranks strictly above key y. -/
def keyAbove (ty x y : Nat) : Bool :=
  if ty = 4 then (fp32.decode y).below (fp32.decode x) else decide (elemInt ty y < elemInt ty x)

/-- The lanes with a key that is no NaN, by key, descending, ties by lower lane. -/
def rankLanes (ty : Nat) (ks : List (Nat × Nat)) : List Nat :=
  (sortBy (fun (p q : Nat × Nat) => keyAbove ty p.2 q.2) (ks.filter (fun k => !(decide (ty = 4) && (fp32.decode k.2).isNan)))).map (·.1)

def execTopk (d a b : Fld) (s : State) : Res :=
  let (oa, ob, od) := (noQ a .one, uni b .one, dst d .one)
  strandFrame s { engines := .waveOnly, types := some [0, 1, 4], opds := [oa, ob, od], freeClass := true } (fun w s =>
    let ty := modeType w.u.regs.mode
    let n := min (uniVal s w ob false) 96
    let sel := (rankLanes ty (w.lanes.map (fun l => (l, readOpd s w.u oa false l)))).take n
    if isK d then .ok (writeSame s w od sel.length)
    else .ok (writeDst s w.u od w.lanes (w.lanes.map (fun l => sel.getD l 0xFFFFFFFF))))

end Sys2Proof.Machine
end

