-- ==== Sys2Proof/Machine/Control.lean ====
section
/-! DEFINITION. Opcodes 0x01 to 0x17: branches, divergence, loops, EXIT, the mode family and traps (R132 to R147, R156). -/

namespace Sys2Proof.Machine

/-! ## Fetching a word (R65) -/

/-- Fetch the instruction word at a VA for a unit: translated memory with execute permission; above it FLT_WINDOW, but for a supervisor thread in
the physical window, where R428 starts it (log entry 21). -/
def fetchWord (s : State) (u : Unit) (pc : DWord) : Except Err (State × Word) :=
  let va := pc.toNat
  if va % 4 ≠ 0 then .error (.flt .align pc)
  else if translatedVa va then (readLine s (whoOf s u 0) needX va 4).map (fun (s, x) => (s, BitVec.ofNat 32 x))
  else if 2 ^ 57 ≤ va then .error (.flt .prot pc)
  else if u.isSup && decide (0x100 ≤ va / 2 ^ 48 ∧ va / 2 ^ 48 < 0x120) then
    let s := physSettle s u.place.die (va % 2 ^ 53)
    (physRead s (va % 2 ^ 53) 4).map (fun x => (s, BitVec.ofNat 32 x))
  else .error (.flt .window pc)

/-! ## Branches -/

/-- A branch target computed from a word offset (R58). -/
def branchTarget {w : Nat} (pc : DWord) (off : BitVec w) : DWord := pc + 4 + 4 * off.signExtend 64

/-- Bits [63:57] of a target are set (R58, R134). -/
def targetHigh (t : DWord) : Bool := decide (2 ^ 57 ≤ t.toNat)

/-- Add a lane to the group of its target; groups keep the order of their lowest lanes. -/
def addGroup (gs : List (DWord × BitVec 4)) (t : DWord) (b : BitVec 4) : List (DWord × BitVec 4) :=
  if gs.any (fun g => decide (g.1 = t)) then gs.map (fun g => if g.1 = t then (g.1, g.2 ||| b) else g) else gs ++ [(t, b)]

/-- The target groups of slice i: its lanes that take the branch, by target (R134). -/
def targetGroups (i : Nat) (ts : List (Nat × DWord)) : List (DWord × BitVec 4) :=
  (ts.filter (fun x => decide (laneSlice x.1 = i))).foldl (fun gs x => addGroup gs x.2 (laneBit x.1)) []

/-- A slice at pc whose taken lanes have these targets (R132, R137). -/
def Slice.divide (sl : Slice) (pc : DWord) (gs : List (DWord × BitVec 4)) : Slice :=
  match gs with
  | [] => { sl with pc := pc + 4 }
  | (t, m) :: rest =>
    let n := sl.active &&& ~~~(gs.foldl (fun a g => a ||| g.2) 0)
    { sl with pc := t, active := m, rstack := rest.map (fun g => { pc := g.1, mask := g.2 }) ++ (if n = 0 then [] else [{ pc := pc + 4, mask := n }]) ++ sl.rstack }

/-- The gang takes a branch in the lanes of ts: nothing moves when a stack would overflow (R137). -/
def branchGang (s : State) (iss : Issue) (ts : List (Nat × DWord)) : Run :=
  let after (i : Nat) : Slice := (iss.u.slice i).divide iss.pc (targetGroups i ts)
  if iss.slices.any (fun i => decide (16 < (after i).rstack.length)) then .error (.flt (fault .divstack) iss.lanes s)
  else .ok (s.modUnit iss.u.place (fun u => { u with slices := iss.slices.foldl (fun ss i => modAt ss i (fun sl => sl.divide iss.pc (targetGroups i ts))) u.slices }))

/-- A branch of some lanes to one target (R58, R132). -/
def branchTo (s : State) (iss : Issue) (lanes : List Nat) (t : DWord) : Run :=
  if targetHigh t && !lanes.isEmpty then .error (.flt (faultVa .prot t) iss.lanes s)
  else branchGang s iss (lanes.map (fun l => (l, t)))

/-- The value that a strand reads once and all its gangs use (R31, R141). -/
def latch (s : State) (iss : Issue) (v : DWord) : State × DWord :=
  match iss.shared with
  | some x => (countPass s iss, x)
  | none => (recordShared (countPass s iss) iss v, v)

def uniformOpd (u : Unit) (f : Fld) : Bool := u.isWave && isUniform f

def curIsWave (s : State) : Bool := (issueOf s false).elim false (fun i => i.u.isWave)

/-- A fault leaves the state it found. -/
def keepOnFault (s : State) (r : Run) : Run :=
  match r with
  | .error (.flt f undone _) => .error (.flt f undone s)
  | x => x

def execBra (off : BitVec 24) (s : State) : Res :=
  frame s { moves := true } (fun iss s => branchTo s iss iss.lanes (branchTarget iss.pc off))

def execCall (off : BitVec 24) (s : State) : Res :=
  let link := dst 0 .pair
  frame s { moves := true, opds := [link] } (fun iss s =>
    (branchTo s iss iss.lanes (branchTarget iss.pc off)).map (fun s => writeDst s iss.u link iss.lanes (iss.lanes.map (fun _ => (iss.pc + 4).toNat))))

/-- BRT and BRF (R133): want says for which truth the branch is taken. -/
def condBranch (s : State) (d : Fld) (i : BitVec 16) (want : Bool) : Res :=
  let o := (src d .one).must .noQueue
  let uni := curIsWave s && isUniform d
  frame s { moves := true, opds := [o], perGang := true, always := uni } (fun iss s0 =>
    let t := branchTarget iss.pc i
    keepOnFault s0 (
      if uni then
        if iss.lanes.isEmpty then branchTo (countPass s0 iss) iss [] t
        else
          let (s, v) := latch s0 iss (BitVec.ofNat 64 (readOpd s0 iss.u o false (iss.lanes.headD 0)))
          branchTo s iss (if truth v.toNat = want then iss.lanes else []) t
      else branchTo s0 iss (iss.lanes.filter (fun l => truth (readOpd s0 iss.u o false l) == want)) t))

def execBrt (d : Fld) (i : BitVec 16) (s : State) : Res := condBranch s d i true
def execBrf (d : Fld) (i : BitVec 16) (s : State) : Res := condBranch s d i false

/-- BRI, CALLI and RET (R134). -/
def indirect (s : State) (a : Fld) (link : Option Fld) : Res :=
  let oa := src a .pair
  let ol := link.toList.map (fun d => dst d .pair)
  let uni := curIsWave s && isUniform a && ol.all (fun o => isUniform o.f)
  frame s { moves := true, opds := oa :: ol, perGang := true, always := uni } (fun iss s0 =>
    keepOnFault s0 (
      let (s, ts) : State × List (Nat × DWord) :=
        if uni then
          if iss.lanes.isEmpty then (countPass s0 iss, [])
          else let (s, v) := latch s0 iss (BitVec.ofNat 64 (readOpd s0 iss.u oa false (iss.lanes.headD 0))); (s, iss.lanes.map (fun l => (l, v)))
        else let (s, vs) := readAllOpds s0 iss.u false iss.lanes [oa]; (s, iss.lanes.zip ((col vs 0).map (BitVec.ofNat 64)))
      match ts.find? (fun x => decide (x.2.toNat % 4 ≠ 0)) with
      | some x => .error (.flt (faultVa .align x.2) iss.lanes s)
      | none =>
        match ts.find? (fun x => targetHigh x.2) with
        | some x => .error (.flt (faultVa .prot x.2) iss.lanes s)
        | none =>
          (branchGang s iss ts).map (fun s =>
            if uni && (iss.shared.isSome || iss.lanes.isEmpty) then s
            else ol.foldl (fun s o => writeDst s iss.u o iss.lanes (iss.lanes.map (fun _ => (iss.pc + 4).toNat))) s)))

def execBri (a : Fld) (s : State) : Res := indirect s a none
def execCalli (d a : Fld) (s : State) : Res := indirect s a (some d)
def execRet (a : Fld) (s : State) : Res := indirect s a none

/-! ## Divergence, gangs and loops -/

/-- An instruction without operands that acts on the slices of the gang as a whole, whatever the guard (R64). -/
def wholeFrame (s : State) (moves : Bool) (body : Issue → State → Run) : Res := frame s { guarded := false, always := true, moves := moves } body

/-- Change the slices of the gang. -/
def modSlices (s : State) (iss : Issue) (f : Slice → Slice) : State :=
  s.modUnit iss.u.place (fun u => { u with slices := iss.slices.foldl (fun ss i => modAt ss i f) u.slices })

def execJoinat (i : BitVec 16) (s : State) : Res :=
  wholeFrame s false (fun iss s =>
    if !iss.u.isWave then .ok s
    else if iss.slices.any (fun k => decide (16 ≤ (iss.u.slice k).rstack.length)) then .error (.flt (fault .divstack) iss.lanes s)
    else .ok (modSlices s iss (fun sl => { sl with rstack := { pc := branchTarget iss.pc i, mask := 0 } :: sl.rstack })))

def execRegang (s : State) : Res :=
  wholeFrame s false (fun iss s =>
    if !iss.u.isWave then .ok s
    else .error (.wait .barrier iss.lanes (modSlices s iss (fun sl => { sl with atRegang := true }))))

/-- Read one word of a single-register operand once for the gang, popping one word of a queue (R141, R158). -/
def readOnce (s : State) (iss : Issue) (o : Opd) : Except Stop (State × Nat) :=
  if isQ o.f then
    match queueFault s iss.u [o] 1 with
    | some c => .error (.flt (fault c) iss.lanes s)
    | none =>
      let us := queueUses iss.u [o] 1
      if queueReady s iss.u iss.gang us then
        let (s, vs) := readAllOpds (queueUnblock s iss.u iss.gang us) iss.u false [0] [o]
        .ok (s, (vs.headD []).headD 0)
      else .error (.wait .queue iss.lanes (queueBlock s iss.u iss.gang us))
  else .ok (s, readOpd s iss.u o false (iss.lanes.headD 0))

/-- Open a loop in a slice (R141). -/
def Slice.openLoop (sl : Slice) (pc last : DWord) (c : Word) : Slice :=
  if c = 0 then { sl with pc := last + 4 } else { sl with pc := pc + 4, lstack := { count := c, start := pc + 4, last := last } :: sl.lstack }

/-- The lowest active lane of slice i. -/
def lowestActive (u : Unit) (i : Nat) : Nat := (lanesIn (fun i => (u.slice i).active) [i]).headD (4 * i)

def execLoop (d : Fld) (i : BitVec 16) (s : State) : Res :=
  let o := src d .one
  let once := isQ d || isUniform d
  frame s { guarded := false, always := true, moves := true, perGang := true, opds := if isQ d then [] else [o] } (fun iss s0 =>
    let last := iss.pc + 4 + 4 * BitVec.ofNat 64 i.toNat
    let openAll (s : State) (c : Nat → Word) : Run :=
      if iss.slices.any (fun k => decide (c k ≠ 0) && decide (4 ≤ (iss.u.slice k).lstack.length)) then .error (.flt (fault .loop) iss.lanes s0)
      else .ok (s.modUnit iss.u.place (fun u => { u with slices := iss.slices.foldl (fun ss k => modAt ss k (fun sl => sl.openLoop iss.pc last (c k))) u.slices }))
    if once then
      match iss.shared with
      | some v => openAll (countPass s0 iss) (fun _ => loWord v)
      | none =>
        match readOnce s0 iss o with
        | .error e => .error e
        | .ok (s, v) => openAll (recordShared (countPass s iss) iss (BitVec.ofNat 64 v)) (fun _ => BitVec.ofNat 32 v)
    else openAll s0 (fun k => BitVec.ofNat 32 (readOpd s0 iss.u o false (lowestActive iss.u k))))

def execLbrk (s : State) : Res :=
  wholeFrame s true (fun iss s =>
    if iss.slices.any (fun k => (iss.u.slice k).lstack.isEmpty) then .error (.flt (fault .loop) iss.lanes s)
    else .ok (modSlices s iss (fun sl => match sl.lstack with
      | [] => sl
      | e :: es => { sl with lstack := es, pc := e.last + 4 })))

/-! ## NOP, LAND, YIELD, EXIT -/

def execNop (s : State) : Res := wholeFrame s false (fun _ s => .ok s)
def execLand (s : State) : Res := wholeFrame s false (fun _ s => .ok s)

/-- YIELD (R146): the gang stands last for the next selection. -/
def execYield (s : State) : Res :=
  match wholeFrame s false (fun _ s => .ok s), issueOf s false with
  | .next s', some iss => .next (s'.modUnit iss.u.place (fun u => u.modBook (fun b => { b with yielded := b.yielded.filter (fun g => decide (g ≠ iss.gang)) ++ [iss.gang] })))
  | r, _ => r

/-- The tickets of lanes. -/
def Unit.ticketsOf (u : Unit) (ls : List Nat) : List (Nat × Word) := u.tickets.filter (fun (l, _) => ls.contains l)

/-- A ticket that the blender cannot take: its wave waits as BLND does, or freezes for a fault of the spill area (R395, R396). -/
def ticketStop (e : Err) (undone : List Nat) (s : State) : Stop :=
  match e with
  | .wait r => .wait r undone s
  | .flt c va => .flt { faultVa c va with frozen := true } undone s

/-- Retire lanes whose tickets have been released: their Risers go (R144, R227). -/
def retireLanes (s : State) (u : Unit) (ls : List Nat) : State :=
  let s := ls.foldl (fun s l => freeRisers s u.place l) s
  s.modUnit u.place (fun u => u.retire ls)

/-- Whether a caller awaits the reply of the unit that cur names: its EXIT or MIGR then reads the scope (R155, R193). -/
def curHasCaller (s : State) : Bool := (issueOf s false).elim false (fun i => i.u.ident.caller.isSome)

def execExit (s : State) : Res :=
  frame s { scope := curHasCaller s, reads := if curHasCaller s then [src 0 .quad] else [] } (fun iss s =>
    let p := iss.u.place
    if iss.u.ident.caller.isSome && outbufFull s p.die p.core then .error (.wait .queue iss.lanes s)
    else if recWaits s iss.u then .error (.wait .load iss.lanes s)
    else
      let s := if iss.u.ident.caller.isSome then release s (whoOf s iss.u 0) (modeScope iss.u.regs.mode) else s
      match releaseTickets s iss.u (iss.u.ticketsOf iss.lanes) with
      | (s, some e) => .error (ticketStop e iss.lanes s)
      | (s, none) =>
        let s := retireLanes s iss.u iss.lanes
        match s.unit? p with
        | none => .ok s
        | some u => if u.liveSlices.isEmpty then .ok (exitUnit s u 0) else .ok s)

/-! ## The mode family (R40, R147) -/

/-- A gang of the strand that can come to this instruction by itself has not done so yet. -/
def strandBehind (iss : Issue) : Bool :=
  iss.u.gangs.any (fun g =>
    let sl := iss.u.slice ((iss.u.gangSlices g).headD 0)
    let n := smGet 0 sl.passes iss.pc.toNat
    decide (g ≠ iss.gang ∧ sl.strand = iss.strand ∧ n ≤ iss.pass ∧ ¬(n = iss.pass ∧ sl.pc = iss.pc)) && !sl.atRegang)

/-- The clock at which the gang's MODE began to wait for its strand. -/
def modeStart (s : State) (iss : Issue) : Nat := smGet s.pkg.clocks.toNat iss.u.book.modeSince iss.gang

/-- The mode of the whole wave changes (R40). The instruction waits until every gang of its strand has come to it, so that none executes what stands before
it under the new mode (DEDUCED from R439, R440 and R442 to R445, log entry 22), but for 65,536 clocks at most (DESIGN CHOICE, log entry 22). -/
def setMode (s : State) (iss : Issue) (f : BitVec 16 → BitVec 16) : Run :=
  let t := modeStart s iss
  if iss.u.isWave && strandBehind iss && decide (s.pkg.clocks.toNat < t + 65536) then
    .error (.wait .structural iss.lanes (s.modUnit iss.u.place (fun u => u.modBook (fun b => { b with modeSince := smPut b.modeSince iss.gang t }))))
  else .ok (s.modUnit iss.u.place (fun u => u.modRegs (fun r => { r with mode := f r.mode })))

/-- Each gang that issues a MODE instruction makes its change. -/
def modeOp (s : State) (f : BitVec 16 → BitVec 16) : Res :=
  wholeFrame s false (fun iss s => (setMode s iss f).map (fun s => if iss.u.isWave then countPass s iss else s))

def execMode (i : BitVec 16) (s : State) : Res := modeOp s (fun _ => i)
def execModet (t : BitVec 4) (s : State) : Res := modeOp s (fun m => putBits m 3 0 t.toNat)
def execModeg (e n : BitVec 1) (g : BitVec 3) (s : State) : Res :=
  modeOp s (fun m => putBits (putBits (putBits m 12 12 e.toNat) 11 11 n.toNat) 10 8 g.toNat)
def execModes (sc : BitVec 3) (s : State) : Res := modeOp s (fun m => putBits m 15 13 sc.toNat)
def execModer (r : BitVec 2) (s : State) : Res := modeOp s (fun m => putBits m 5 4 r.toNat)

/-- MODEW: in a wave a uniform instruction, executed once for its strand; in a thread a queue register gives one word, whatever the guard. -/
def execModew (a : Fld) (s : State) : Res :=
  let o := (src a .one).must .uniform
  frame s { guarded := false, always := true, opds := if isQ a && !curIsWave s then [] else [o] } (fun iss s =>
    match readOnce s iss o with
    | .error e => .error e
    | .ok (s1, v) => setMode s1 iss (fun _ => BitVec.ofNat 16 v))

/-! ## Traps (R156) -/

def trapWith (s : State) (c : Cause) (i : BitVec 8) : Res :=
  frame s {} (fun iss s => .error (.flt { fault c with imm := i } iss.lanes s))

def execTrap (i : BitVec 8) (s : State) : Res := trapWith s .trap i
def execBkpt (i : BitVec 8) (s : State) : Res := trapWith s .bkpt i

end Sys2Proof.Machine
end

