-- ==== Sys2Proof/Machine/Start.lean ====
section
/-! DEFINITION. Opcodes 0x18, 0x19, 0x1B, 0x1E and 0x1F: migration, spawning, tasks, sleep and halt (R148 to R152, R154, R155, R158, R159). -/

namespace Sys2Proof.Machine

/-! ## Checks of a landing entry (R148, R152) -/

/-- Fetch the word at an entry and check that it is LAND; the fault otherwise. -/
def landCheck (s : State) (u : Unit) (t : DWord) : Except Err State :=
  match fetchWord s u t with
  | .error e => .error e
  | .ok (s, w) => if w = 0x0E000000 then .ok s else .error (.flt .migr t)

/-- The template of an entry: none in the context, or one that breaks a range, is FLT_MIGR (R276). minRegs: 80 for a MIGR. -/
def needTemplate (s : State) (u : Unit) (t : DWord) (minRegs : Nat) : Except Err (State × Template) :=
  match templateFor s u.place.die u.ident.asid t with
  | .error e => .error e
  | .ok (s, some x) => if x.valid && decide (minRegs ≤ x.regs) then .ok (s, x) else .error (.flt .migr t)
  | .ok (_, none) => .error (.flt .migr t)

/-! ## MIGR -/

/-- The registers of the swarm thread that a wave lane becomes (R151). -/
def migrRegs (u : Unit) (lane : Nat) : Regs :=
  { blankRegs with
    v := (List.range (min 64 u.ident.regs)).foldl (fun m i => smSet 0 m i (u.regs.getV lane i)) [],
    k := (List.range 16).foldl (fun m i => smSet 0 m i (u.regs.getK i)) [],
    p := (List.range 8).map (fun i => if u.regs.getP i lane then 1 else 0), mode := u.regs.mode, fstat := u.regs.fstat }

/-- One wave lane moves to the lowest free thread of its core, and its ticket is released; the error that holds it back otherwise (R149, R378, R394). -/
def migrateLane (s : State) (u : Unit) (t : DWord) (lane : Nat) : Except (Err × State) State :=
  let p := u.place
  match freeThread s p.die p.core, takeRec s p.die u.ident.asid 2 with
  | some th, some _ =>
    match releaseTickets s u (u.ticketsOf [lane]) with
    | (s, some e) => .error (e, s)
    | (s, none) =>
      match takeRec s p.die u.ident.asid 2 with
      | none => .error (.wait .structural, s)
      | some (s, r) =>
        let q : Place := { die := p.die, core := p.core, unit := 0x40 + th }
        let s := addUnit s q .swarm u.ident.asid (fun x =>
          { x with ident := { x.ident with entry := t, lds := u.ident.lds, prio := u.ident.prio, cclass := u.ident.cclass, kind := u.ident.kind, recIdx := some r, origin := t },
                   regs := migrRegs u lane, slices := threadSlices t })
        .ok (retireLanes s u [lane])
  | _, _ => .error (.wait .structural, s)

/-- Lanes migrate in order until one is held back: the lanes that are left, and why. -/
def migrateLanes (s : State) (u : Unit) (t : DWord) : List Nat → Except (Err × State × List Nat) State
  | [] => .ok s
  | l :: ls =>
    match migrateLane s u t l with
    | .error (e, s) => .error (e, s, l :: ls)
    | .ok s => migrateLanes s u t ls

/-- The slices of a waiting MIGR or EXIT that have lost their active lanes take R139 at once and may leave the gang. -/
def settleEmptied (s : State) (iss : Issue) : State :=
  s.modUnit iss.u.place (fun u =>
    Unit.normalise (Unit.split { u with slices := iss.slices.foldl (fun ss i => modAt ss i (fun sl => if sl.live ≠ 0 ∧ sl.active = 0 then sl.arrive else sl)) u.slices } iss.gang))

/-- The 384-byte migration slots of a context (R263, R278): v0 to v79, p0 to p7, then the byte that says that the slot is taken, the flags and the
mode register (log entry 17). -/
def migSlotVa (h : CtxHdr) (i : Nat) : Nat := h.mig.toNat + 384 * i

/-- Write a migrating thread into the lowest free migration slot. -/
def takeMigSlot (s : State) (die asid : Nat) (vs : List Word) (p : BitVec 8) (fstat : BitVec 5) (mode : BitVec 16) : Option (State × Nat) :=
  (takeFree s die asid (·.nmig) (fun h i => migSlotVa h i + 321) 1 1).map (fun (s, i) =>
    ((ctxOf s die asid).elim s (fun h => sysPut s (sysWho die asid) (migSlotVa h i) 326 (packAt [(0, ofWords vs), (320, p.toNat), (321, 1), (322, fstat.toNat), (324, mode.toNat)])), i))

def freeMigSlot (s : State) (die asid i : Nat) : State :=
  match ctxOf s die asid with
  | none => s
  | some h => sysPut s (sysWho die asid) (migSlotVa h i + 321) 1 0

/-- v0 to v63 and k0 to k15 of a swarm thread as v0 to v79 of its lane (R151). -/
def threadWords (u : Unit) : List Word := (List.range 64).map (fun i => u.regs.getV 0 i) ++ (List.range 16).map (fun i => u.regs.getK i)

def threadPreds (u : Unit) : BitVec 8 := BitVec.ofNat 8 ((rangeWhere 8 (fun i => u.regs.getP i 0)).foldl (fun m i => m + 2 ^ i) 0)

/-- A swarm thread leaves for the bin of its target (R150). -/
def migrateThread (s : State) (iss : Issue) (x : Template) : Run :=
  let u := iss.u
  let p := u.place
  let waitFor (r : Stall) : Run := .error (.wait r iss.lanes s)
  if u.ident.caller.isSome && outbufFull s p.die p.core then waitFor .queue
  else
    match takeMigSlot s p.die u.ident.asid (threadWords u) (threadPreds u) u.regs.fstat u.regs.mode with
    | none => waitFor .structural
    | some (s', i) =>
      match binRecord s' p.die (quadOf p.core) u.ident.asid x { v := threadWords u, p := threadPreds u, ticket := none, mig := some i } with
      | none => waitFor .structural
      | some s' =>
        let s' := if u.ident.caller.isSome then release s' (whoOf s' u 0) (modeScope u.regs.mode) else s'
        .ok (removeUnit (sendReply s' u) u 2)

/-- The registers that MIGR copies (R48, R151). -/
def migrReads : List Opd := [src 0 .hex, src 16 .hex, src 32 .hex, src 48 .hex, src 0x80 .hex]

def execMigr (off : BitVec 24) (s : State) : Res :=
  frame s { engines := .notSupMcc, unlogged := true, scope := curHasCaller s, reads := migrReads } (fun iss s =>
    let t := branchTarget iss.pc off
    let u := iss.u
    if (iss.lanes.any (fun l => !(u.slice (laneSlice l)).lstack.isEmpty)) then .error (.flt (fault .loop) iss.lanes s)
    else
      match landCheck s u t with
      | .error e => .error (e.stop iss.lanes s)
      | .ok s =>
        if u.isWave then
          match migrateLanes s u t iss.lanes with
          | .ok s => .ok s
          | .error (e, s, ls) => .error (ticketStop e ls (settleEmptied s iss))
        else
          match needTemplate s u t 80 with
          | .error e => .error (e.stop iss.lanes s)
          | .ok (s, x) => migrateThread s iss x) |> dropEmpty
where
  /-- A wave all of whose lanes have migrated has ended (R149, R144). -/
  dropEmpty (r : Res) : Res :=
    match r, issueOf s false with
    | .next s', some iss =>
      match s'.unit? iss.u.place with
      | some u => if u.liveSlices.isEmpty && decide (u.ident.serial = iss.u.ident.serial) then .next (exitUnit s' u 2) else r
      | none => r
    | r, _ => r

/-! ## SPAWN (R152) -/

/-- Check every entry before a record is placed. -/
def spawnChecks (s : State) (u : Unit) : List DWord → Except Err State
  | [] => .ok s
  | t :: ts =>
    match landCheck s u t with
    | .error e => .error e
    | .ok s =>
      match needTemplate s u t 0 with
      | .error e => .error e
      | .ok (s, _) => spawnChecks s u ts

/-- Place records in lane order until a lane must wait. -/
def spawnLanes (s : State) (u : Unit) : List (Nat × DWord × Nat) → State × List Nat
  | [] => (s, [])
  | (l, t, ws) :: rest =>
    match needTemplate s u t 0 with
    | .error _ => (s, l :: rest.map (·.1))
    | .ok (s, x) =>
      match binRecord s u.place.die (quadOf u.place.core) u.ident.asid x { v := wordsOf 4 ws, p := 0, ticket := none, mig := none } with
      | none => (s, l :: rest.map (·.1))
      | some s => spawnLanes s u rest

def execSpawn (d a : Fld) (s : State) : Res :=
  let (od, oa) := (src d .quad, src a .pair)
  frame s { engines := .notSup, unlogged := true, opds := [od, oa] } (fun iss s0 =>
    let (s, vs) := readAllOpds s0 iss.u false iss.lanes [od, oa]
    let ts := (col vs 1).map (BitVec.ofNat 64)
    match ts.find? (fun t => decide (t.toNat % 4 ≠ 0)) with
    | some t => .error (.flt (faultVa .align t) iss.lanes s0)
    | none =>
      match spawnChecks s iss.u (dedup ts) with
      | .error e => .error (e.stop iss.lanes s0)
      | .ok s =>
        match spawnLanes (release s (whoOf s iss.u 0) 1) iss.u (iss.lanes.zip (ts.zip (col vs 0))) with
        | (s, []) => .ok s
        | (s, ls) => .error (.wait .structural ls s))

/-! ## CALLAT (R154, R155) -/

/-- A task queue that a target word names. -/
inductive TaskQ where
  | core (die core : Nat)
  | mcc (die quad : Nat)
  | sup (die sc : Nat)
  deriving DecidableEq, Repr

/-- The queue of a target word, or the fault of R155. -/
def taskTarget (w : Word) (sup : Bool) : Except Cause TaskQ :=
  let core := bits w 7 0
  let die := bits w 9 8
  let mcc := bit w 10
  if bits w 31 11 ≠ 0 ∨ 243 < core ∨ (240 ≤ core ∧ mcc = true) then .error .operand
  else if 240 ≤ core then (if sup then .ok (.sup die (core - 240)) else .error .priv)
  else if mcc then .ok (.mcc die (core / 4)) else .ok (.core die core)

def tasksOf (s : State) : TaskQ → List Task
  | .core d c => (s.core d c).tasks
  | .mcc d q => (s.quad d q).tasks
  | .sup d i => (s.sup d i).tasks

def modTasks (s : State) (q : TaskQ) (f : List Task → List Task) : State :=
  match q with
  | .core d c => s.modCore d c (fun k => { k with tasks := f k.tasks })
  | .mcc d i => s.modQuad d i (fun k => { k with tasks := f k.tasks })
  | .sup d i => s.modSup d i (fun k => { k with tasks := f k.tasks })

/-- Check the lanes of a CALLAT: target, entry, and the read of entry − 8. -/
def callChecks (s : State) (u : Unit) : List (Nat × DWord × Word) → Except Err State
  | [] => .ok s
  | (l, e, w) :: rest =>
    match taskTarget w u.isSup with
    | .error c => .error (.flt c 0)
    | .ok _ =>
      if e.toNat % 4 ≠ 0 then .error (.flt .align e)
      else
        match load s (whoOf s u l) (e - 8).toNat 8 with
        | .error x => .error x
        | .ok (s, _) => callChecks s u rest

/-- Send the tasks of the lanes in order until a queue is full (R155). -/
def callLanes (s : State) (p : Place) (d : Fld) : List (Nat × DWord × Word × Nat) → State × List Nat
  | [] => (s, [])
  | (l, e, w, args) :: rest =>
    match s.unit? p, taskTarget w (decide (240 ≤ p.core)) with
    | some u, .ok q =>
      if 64 ≤ (tasksOf s q).length then (s, l :: rest.map (·.1))
      else
        -- an agent without a core has no scope 0 (R15)
        let sc0 := modeScope u.regs.mode
        let scope := if sc0 = 0 ∧ (whoOf s u l).core.isNone = true then 1 else sc0
        let t : Task := { entry := e, args := wordsOf 4 args, asid := asidOf s u, lds := u.ident.lds, tag := u.book.calls, callerPlace := senderWord s u,
                          callerSerial := senderSerial u, held := none, heldVa := 0, frozen := false, fromSup := u.isSup, scope, refusal := none }
        let s := modTasks s q (· ++ [t])
        let s := writeDst s u (dst d .one) [l] [u.book.calls.toNat]
        callLanes (s.modUnit p (fun u => u.modBook (fun b => { b with calls := b.calls + 1 }))) p d rest
    | _, _ => (s, l :: rest.map (·.1))

def execCallat (d a b : Fld) (s : State) : Res :=
  let (od, oa, ob) : Opd × Opd × Opd := ({ f := d, sh := .quad, rd := true, wr := true, rule := .any }, src a .pair, src b .one)
  frame s { unlogged := true, scope := true, opds := [od, oa, ob] } (fun iss s0 =>
    let (s, vs) := readAllOpds s0 iss.u false iss.lanes [od, oa, ob]
    let es := (col vs 1).map (BitVec.ofNat 64)
    let ws := (col vs 2).map (BitVec.ofNat 32)
    match callChecks s iss.u (iss.lanes.zip (es.zip ws)) with
    | .error e => .error (e.stop iss.lanes s0)
    | .ok s =>
      let s := release s (whoOf s iss.u 0) (modeScope iss.u.regs.mode)
      match callLanes s iss.u.place d (iss.lanes.zip (es.zip (ws.zip (col vs 0)))) with
      | (s, []) => .ok s
      | (s, ls) => .error (.wait .queue ls s))

/-! ## SLEEP (R158) -/

/-- The sleep of a gang that stands at this SLEEP. -/
def sleepOf (u : Unit) (g : Nat) (pc : DWord) : Option Sleep := u.book.sleeps.find? (fun x => decide (x.gang = g ∧ x.pc = pc))

def dropSleep (s : State) (iss : Issue) : State :=
  s.modUnit iss.u.place (fun u => u.modBook (fun b => { b with sleeps := b.sleeps.filter (fun x => decide (x.gang ≠ iss.gang)) }))

/-- SLEEP: at once when the inbox holds a word; else until the gang's entry is woken by a message, the time limit or the supervisor. A thread's SLEEP that
completes at once neither pops nor checks a queue register that its operand names (DESIGN CHOICE, log entry 123). -/
def execSleep (a : Fld) (s : State) : Res :=
  let o := (src a .one).must .uniform
  frame s { perGang := true, opds := if isQ a && !curIsWave s then [] else [o] } (fun iss s =>
    match sleepOf iss.u iss.gang iss.pc with
    | some z => if z.woken then .ok (dropSleep s iss) else .error (.wait .queue iss.lanes s)
    | none =>
      if !(inboxOf s iss.u).words.isEmpty then .ok (endRun s iss.u)
      else
        match readOnce s iss o with
        | .error e => .error e
        | .ok (s, n) =>
          let z : Sleep := { gang := iss.gang, pc := iss.pc, limit := decide (n ≠ 0), until_ := nowOf s iss.u.place.die + BitVec.ofNat 64 n, woken := false }
          let s := endActivation (endRun s iss.u) iss.u.place 1
          .error (.wait .queue iss.lanes (s.modUnit iss.u.place (fun u => u.modBook (fun b => { b with sleeps := b.sleeps.filter (fun x => decide (x.gang ≠ iss.gang)) ++ [z] })))))

/-! ## HALT (R159) -/

/-- The unit that a selector names, as dw_sel does (R52). -/
def haltTarget (w : Word) : Place := { die := bits w 25 24, core := bits w 23 16, unit := bits w 7 0 }

/-- The halt flag of the unit that FORK or a save suspended last at the placement that a selector names, in what the dispatcher keeps and in the flag byte of
the record (R55, R159, R380). -/
def flagSaved (s : State) (p : Place) (on : Bool) : State :=
  let d := p.die
  ((s.die d).disp.saved.filter (fun v => decide (v.place = p) && !v.captured)).getLast?.elim s (fun v =>
    let s := s.modDisp d (fun x => { x with saved := x.saved.map (fun y => if y.asid = v.asid ∧ y.serial = v.serial then
      { y with unit := y.unit.map (fun u => u.modCtl (fun c => { c with haltFlag := on, halted := on && c.halted })) } else y) })
    match unitRecVa s d v.asid v.recIdx with
    | some va => let w := sysWho d v.asid
                 let b := sysGet s w (va + 2) 1
                 sysPut s w (va + 2) 1 (b / 2 * 2 + (if on then 1 else 0))
    | none => s)

/-- HALT's effect on one unit (R159): a unit that issues takes the halt at its next boundary, and HALT waits for it; a parked, frozen, stopped or
suspended unit takes only the flag, one that is saved in its record; a selector that names no unit has no effect. The unit is the one that the selector
names when the instruction issues again (log entry 100). -/
def haltLane (s : State) (iss : Issue) (w op : Word) : Run :=
  if bits w 31 26 ≠ 0 ∨ bits w 15 8 ≠ 0 ∨ 1 < op.toNat then .error (.flt (fault .operand) iss.lanes s)
  else
    let p := haltTarget w
    match (if p.core < 240 then s.unit? p else none) with
    | none => .ok (if p.core < 240 then flagSaved s p (decide (op = 0)) else s)
    | some u =>
      if op = 1 then .ok (s.modUnit p (fun u => u.modCtl (fun c => { c with haltFlag := false, halted := false })))
      else
        let s := s.modUnit p (fun u => u.modCtl (fun c => { c with haltFlag := true }))
        if u.ctl.run = .ready ∧ u.ctl.halted = false then .error (.wait .structural iss.lanes s) else .ok s

def execHalt (a b : Fld) (s : State) : Res :=
  let (oa, ob) := (src a .one, src b .one)
  frame s { priv := true, opds := [oa, ob] } (fun iss s0 =>
    let (s, vs) := readAllOpds s0 iss.u false iss.lanes [oa, ob]
    keepOnFault s0 (haltLane s iss (BitVec.ofNat 32 ((col vs 0).headD 0)) (BitVec.ofNat 32 ((col vs 1).headD 0))))

end Sys2Proof.Machine
end

