-- ==== Sys2Proof/Machine/Async.lean ====
section
/-! DEFINITION. Opcodes 0xE0 to 0xE7: asynchronous commands, their blocks and tokens, and buffer handles (R228 to R239, R305). -/

namespace Sys2Proof.Machine

/-! ## Issue (R228) -/

/-- The fields of a command for this unit, before it is numbered. -/
def newCmd (s : State) (u : Unit) (d : Fld) (op : Nat) (va : DWord) (lanes : LaneMask) (entry : Option Nat) : Cmd :=
  { id := s.seq, die := u.place.die, quad := quadOf u.place.core, issuer := u.place, serial := u.ident.serial, sup := u.isSup, asid := asidOf s u,
    cclass := u.ident.cclass, grid := u.ident.grid, token := d, lanes := lanes, scope := modeScope u.regs.mode, op := op, recVa := va, state := .running,
    img := none, tdesc := 0, next := 0, src := 0, dst := 0, srcHalf := none, dstHalf := none, contribs := [], entry := entry }

/-- The command slots of a quad that are taken: 16 at most. -/
def cmdsOn (s : State) (die quad : Nat) : Nat := (s.cmds.filter (fun c => decide (c.die = die ∧ c.quad = quad))).length

/-- The command entry that an issue takes (R378); a supervisor thread has no Flask. -/
def entryFor (s : State) (u : Unit) (kind : Nat) : Option (State × Option Nat) :=
  if u.isSup then some (s, none) else (takeCmdEntry s u.place.die u.ident.asid kind).map (fun (s, i) => (s, some i))

/-- Put one command in flight; none while no slot or entry is free. -/
def issueCmd (s : State) (u : Unit) (d : Fld) (op : Nat) (va : DWord) (lanes : LaneMask) : Option State :=
  if 16 ≤ cmdsOn s u.place.die (quadOf u.place.core) then none
  else
    match entryFor s u 1 with
    | none => none
    | some (s, e) => some { s with cmds := s.cmds ++ [newCmd s u d op va lanes e], seq := s.seq + 1 }

/-- One command per lane, in lane order, until one must wait. -/
def issueLanes (s : State) (u : Unit) (d : Fld) (op : Nat) : List (Nat × DWord) → State × List Nat
  | [] => (s, [])
  | (l, va) :: rest =>
    match issueCmd s u d op va (maskOf [l]) with
    | none => (s, l :: rest.map (·.1))
    | some s => issueLanes s u d op rest

/-- What a strand's other gangs find recorded of its one command (R31): the command in flight, or the code its token took. -/
def inFlight (id : Nat) : DWord := BitVec.ofNat 64 (2 ^ 63 + id)

/-- A later gang of the strand takes the token of the command that the strand issued. -/
def joinCmd (s : State) (iss : Issue) (d : Fld) (v : DWord) : State :=
  if 2 ^ 63 ≤ v.toNat then
    let id := v.toNat - 2 ^ 63
    { s with cmds := s.cmds.map (fun c => if c.id = id then { c with lanes := c.lanes ||| maskOf iss.lanes } else c),
             batches := s.batches.map (fun b => if b.id = id then { b with lanes := b.lanes ||| maskOf iss.lanes } else b) }
  else s.modUnit iss.u.place (fun u => (u.modRegs (fun r => r.putToken d (maskOf iss.lanes) (loWord v))).modBook (fun b =>
    { b with tokens := b.tokens ++ [{ f := d, lanes := maskOf iss.lanes, scope := max 1 (modeScope iss.u.regs.mode) }] }))

/-- Issue of ACPY to ACOL: one command for the strand when a is of uniform class, else one per active lane. -/
def asyncOp (s : State) (op : Nat) (d a : Fld) : Res :=
  let (od, oa) : Opd × Opd := ((dst d .one).must .vk, src a .pair)
  frame s { scope := true, unlogged := true, always := true, perGang := true, tokens := true, opds := [oa, od] } (fun iss s0 =>
    let u := iss.u
    let once := uniformOpd u a
    match (if once then iss.shared else none) with
    -- a gang without an active lane takes no token (R31, R64)
    | some v => .ok (if iss.lanes.isEmpty then countPass s0 iss else joinCmd (countPass s0 iss) iss d v)
    | none =>
      if iss.lanes.isEmpty then .ok (if once then countPass s0 iss else s0)
      else
        let lanes := if once then iss.uniLane { unlogged := true } else iss.lanes
        let (s, vs) := readAllOpds s0 u false lanes [oa]
        let vas := (col vs 0).map (BitVec.ofNat 64)
        match vas.find? (fun v => decide (v.toNat % 64 ≠ 0)) with
        | some v => .error (.flt (faultVa .align v) iss.lanes s0)
        | none =>
          let s := release s (whoOf s u 0) (modeScope u.regs.mode)
          if once then
            match issueCmd s u d op (vas.headD 0) (maskOf iss.lanes) with
            | none => .error (.wait .structural iss.lanes s)
            | some s' => .ok (recordShared (countPass s' iss) iss (inFlight s.seq))
          else
            match issueLanes s u d op (iss.lanes.zip vas) with
            | (s, []) => .ok s
            | (s, ls) => .error (.wait .structural ls s))

def execAcpy (d a : Fld) (s : State) : Res := asyncOp s 1 d a
def execAten (d a : Fld) (s : State) : Res := asyncOp s 2 d a
def execAgth (d a : Fld) (s : State) : Res := asyncOp s 3 d a
def execAgtp (d a : Fld) (s : State) : Res := asyncOp s 4 d a
def execAsct (d a : Fld) (s : State) : Res := asyncOp s 5 d a
def execAcol (d a : Fld) (s : State) : Res := asyncOp s 6 d a

/-! ## The end of a command (R230, R193) -/

/-- Gangs that have not taken the token yet will take its code. -/
def settleShared (s : State) (id code : Nat) : State :=
  let f (u : Unit) : Unit := u.modBook (fun b => { b with udone := b.udone.map (fun x => if x.val = inFlight id then { x with val := BitVec.ofNat 64 code } else x) })
  { s with units := s.units.map f,
           dies := s.dies.map (fun d => { d with disp := { d.disp with saved := d.disp.saved.map (fun v => { v with unit := v.unit.map f }) } }) }

/-- The command writes its token: a release of what it wrote. The first read of the token is the acquire (R193). -/
def finishCmd (s : State) (c : Cmd) (code : Nat) : State :=
  let s := if 3 ≤ c.scope then drainWts s c.die (fun _ => true) else s
  endCmd (settleShared s c.id code) c code

/-! ## The command as a master (R165, R231) -/

/-- The command's own accesses: at the quad's engines, with the issuer's windows, in user mode whoever issued it (R427). -/
def whoEngine (asid die quad : Nat) (issuer : Place) (sup : Bool) (cclass : Nat) : Who :=
  { die := die, quad := quad, core := none, asid := asid, sup := false, cclass := cclass, ls := if sup then none else some issuer.core,
    tile := !sup, acc := decide (0xC0 ≤ issuer.unit ∧ issuer.unit < 0xC4), phys := false, me := none }

def whoCmd (c : Cmd) : Who := whoEngine c.asid c.die c.quad c.issuer c.sup c.cclass

def modCmd (s : State) (id : Nat) (f : Cmd → Cmd) : State := { s with cmds := s.cmds.map (fun c => if c.id = id then f c else c) }

/-- A fault of a command (R230, R231, R260): an uncorrectable error ends it with code 4; another parks or freezes it at its block. -/
def cmdFault (s : State) (c : Cmd) (f : Cause) (va : DWord) : State :=
  let st : CmdState := if f = .ecc then .done 4 else if f.response = 0 then .parked f else .frozen f
  let s := modCmd s c.id (fun c => { c with state := st })
  sendPacket s c.die (if c.sup then packetCore c.issuer else c.quad % 4)
    { cause := f, halted := false, tx := false, asid := c.asid, imm := 0, kind := 3, place := placeWord c.issuer (ownPkg s),
      serial := if c.sup then BitVec.ofNat 32 c.issuer.unit else c.serial, pc := 0, va := va, unfinished := c.lanes, detail := c.recVa }

/-- An error of a command's access: a fault, or another try later. -/
def cmdErr (s : State) (c : Cmd) : Err → State
  | .flt f va => cmdFault s c f va
  | .wait _ => s

/-! ## Buffer handles (R236, R239, R305) -/

/-- The VA of a context's handle entry, none when the context has no table. -/
def handleVa (s : State) (die asid i : Nat) : Option Nat :=
  let htab := asidField s die asid 8
  if htab = 0 then none else some (htab + 32 * i)

/-- A handle entry: its halves, their size, and the live bit; none when it reads as invalid. -/
structure Handle where
  half0 : Nat
  half1 : Nat
  size : Nat
  live : Bool
  deriving DecidableEq, Repr

/-- Read bytes of the handle table at their home (R201, R305). -/
def readTable (s : State) (w : Who) : List (Nat × Nat) → Except Err (State × Nat)
  | [] => .ok (s, 0)
  | (va, n) :: ps =>
    match readHome s w needR va n with
    | .error e => .error e
    | .ok (s, v) => (readTable s w ps).map (fun r => (r.1, v + 256 ^ n * r.2))

def readHandle (s : State) (die asid i : Nat) : Except Err (State × Option Handle) :=
  match handleVa s die asid i with
  | none => .ok (s, none)
  | some va =>
    match (if translatedVa (va + 31) then readTable s (sysWho die asid) (piecesOf va 32) else sysRead s (sysWho die asid) va 32) with
    | .error e => .error e
    | .ok (s, x) =>
      .ok (s, if (fieldAt x 0x18 4).testBit 1 then some { half0 := fieldAt x 0 8, half1 := fieldAt x 8 8, size := fieldAt x 0x10 8, live := (fieldAt x 0x18 4).testBit 0 } else none)

def Handle.liveBase (h : Handle) : Nat := if h.live then h.half1 else h.half0
def Handle.shadowBase (h : Handle) : Nat := if h.live then h.half0 else h.half1

/-- An address field of a record: itself, or a handle reference resolved to the half it names; none when the reference is invalid. held: the half that
the command has read already, which it uses to its end (R236). -/
def resolveRef (s : State) (c : Cmd) (held : Option (Nat × Nat)) (isRef shadow : Bool) (x : Nat) : Except Err (State × Option (Nat × Option (Nat × Nat))) :=
  if !isRef then .ok (s, some (x, none))
  else if nbits x 31 12 ≠ 0 then .ok (s, none)
  else if held.isSome then .ok (s, held.map (fun h => (h.1 + nbits x 63 32, held)))
  else
    match readHandle s c.die c.asid (nbits x 11 0) with
    | .error e => .error e
    | .ok (s, none) => .ok (s, none)
    | .ok (s, some h) =>
      let b := if shadow then h.shadowBase else h.liveBase
      .ok (s, some (b + nbits x 63 32, some (b, b + h.size)))

/-- Whether n bytes at a lie in the half that a handle reference names. -/
def inHalf (h : Option (Nat × Nat)) (a : Int) (n : Nat) : Bool :=
  match h with
  | none => true
  | some (lo, hi) => decide ((lo : Int) ≤ a) && decide (a + n ≤ (hi : Int))

/-! ## Records (R229, R231 to R237) -/

def i64 (x : Nat) : Int := sint 64 x
def va64 (x : Int) : Nat := (x.emod (2 ^ 64 : Nat)).toNat

def Cmd.word (c : Cmd) (off n : Nat) : Nat := fieldAt (c.img.getD 0) off n
def Cmd.len (c : Cmd) : Nat := c.word 0x18 8

/-- Dimension j of an ATEN descriptor. -/
structure Dim where
  extent : Nat
  lo : Int
  sext : Nat
  clamp : Bool
  edge : Nat
  ss : Int
  ds : Int
  deriving DecidableEq, Repr

def dimOf (x j : Nat) : Dim :=
  let e := x / 256 ^ (0x20 + 32 * j)
  { extent := fieldAt e 0 4, lo := sint 32 (fieldAt e 4 4), sext := fieldAt e 8 4, clamp := decide (fieldAt e 12 4 = 1), edge := fieldAt e 12 4, ss := i64 (fieldAt e 16 8),
    ds := i64 (fieldAt e 24 8) }

def Cmd.ndim (c : Cmd) : Nat := fieldAt c.tdesc 0 1
def Cmd.dims (c : Cmd) : List Dim := (List.range c.ndim).map (dimOf c.tdesc)
def Cmd.esize (c : Cmd) : Nat := 2 ^ fieldAt c.tdesc 1 1

/-- The number of runs of dimension 0. -/
def Cmd.runs (c : Cmd) : Nat := (c.dims.drop 1).foldl (fun n d => n * d.extent) 1

/-- A descriptor that holds what R233 allows. R230 ends a command whose reserved field is nonzero; that the reserved bytes of the descriptor count as such is
the model's choice (R4 lets reserved bytes be ignored; log entry 105). -/
def atenOk (c : Cmd) : Bool :=
  let x := c.tdesc
  decide (1 ≤ c.ndim ∧ c.ndim ≤ 16 ∧ fieldAt x 1 1 ≤ 4 ∧ fieldAt x 2 6 = 0 ∧ fieldAt x 0x10 16 = 0) &&
    c.dims.all (fun d => decide (1 ≤ d.extent ∧ d.edge ≤ 1) && !(d.clamp && decide (d.sext = 0))) && decide (c.runs < 2 ^ 32)

def pageBytes (code : Nat) : Nat := if code = 0 then 4096 else if code = 1 then 65536 else 2097152

/-- Whether the fields of a record hold what its command allows, after its addresses are resolved. -/
def fieldsOk (c : Cmd) : Bool :=
  match c.op with
  | 1 => decide (c.word 0x20 32 = 0)
  | 2 => decide (c.word 0x20 8 % 32 = 0 ∧ c.word 0x28 24 = 0) && atenOk c
  | 3 | 5 => decide (1 ≤ c.word 0x28 8 ∧ c.word 0x28 8 ≤ 4096) && decide (c.word 0x38 8 = 4 ∨ c.word 0x38 8 = 8)
  | 4 =>
    let size := pageBytes (c.word 0x28 8)
    decide (c.word 0x28 8 ≤ 2 ∧ c.word 0x30 16 = 0 ∧ c.src % size = 0 ∧ c.dst % size = 0)
  | _ => decide (1 ≤ c.word 0x28 4 ∧ c.word 0x28 4 ≤ 4096 ∧ c.word 0x2C 4 < c.word 0x28 4 ∧ c.word 0x30 1 ≤ 4 ∧ c.word 0x31 1 ≤ 2 ∧ c.word 0x32 14 = 0)

/-- The number of blocks. -/
def Cmd.blocks (c : Cmd) : Nat :=
  match c.op with
  | 1 => (c.len + 4095) / 4096
  | 2 => c.runs
  | 6 => (c.len + 63) / 64
  | _ => c.len

/-- The range of source coordinates that a dimension reaches. -/
def Dim.reach (d : Dim) : Option (Int × Int) :=
  let hi := d.lo + (d.extent : Int) - 1
  let top : Int := (d.sext : Int) - 1
  if d.clamp then some (max 0 (min d.lo top), max 0 (min hi top))
  else if hi < 0 ∨ top < d.lo then none else some (max 0 d.lo, min hi top)

/-- The lowest offset and the end that a sum of strided coordinates reaches. -/
def spanOf (es : Nat) : List (Int × Int × Int) → Int × Int
  | [] => (0, es)
  | (st, lo, hi) :: r =>
    let (a, b) := spanOf es r
    (a + min (lo * st) (hi * st), b + max (lo * st) (hi * st))

/-- The extents of a command that its record alone fixes stay within the halves of its handle references (R305). An index list's are checked
entry by entry. -/
def extentsOk (c : Cmd) : Bool :=
  let at_ (h : Option (Nat × Nat)) (a n : Nat) : Bool := inHalf h a n
  match c.op with
  | 1 => at_ c.srcHalf c.src c.len && at_ c.dstHalf c.dst c.len
  | 2 =>
    let rs := c.dims.map (fun d => (d.ss, d.reach))
    let (dl, dh) := spanOf c.esize (c.dims.map (fun d => (d.ds, 0, (d.extent : Int) - 1)))
    inHalf c.dstHalf (c.dst + dl) (dh - dl).toNat &&
      (rs.any (fun r => r.2.isNone) ||
        (let (sl, sh) := spanOf c.esize (rs.map (fun r => (r.1, (r.2.getD (0, 0)).1, (r.2.getD (0, 0)).2)))
         inHalf c.srcHalf (c.src + sl) (sh - sl).toNat))
  | 3 => at_ c.dstHalf c.dst (c.len * c.word 0x28 8)
  | 4 => at_ c.dstHalf c.dst (c.len * pageBytes (c.word 0x28 8))
  | 5 => at_ c.srcHalf c.src (c.len * c.word 0x28 8)
  | _ => at_ c.srcHalf c.src (4 * c.len) && at_ c.dstHalf c.dst (4 * c.len * (if c.word 0x30 1 = 3 then c.word 0x28 4 else 1))

/-- An ATEN descriptor: its header, then an entry for each of its dimensions. -/
def readDesc (s : State) (c : Cmd) (d : Nat) : Except Err (State × Nat) :=
  match load s (whoCmd c) d 32 with
  | .error e => .error e
  | .ok (s, x) =>
    let n := fieldAt x 0 1
    if 1 ≤ n ∧ n ≤ 16 then (load s (whoCmd c) (d + 32) (32 * n)).map (fun r => (r.1, x + 2 ^ 256 * r.2)) else .ok (s, x)

/-- The command with its record read and its addresses resolved; none: the record is invalid. -/
def readRecord (s : State) (c : Cmd) : Except Err (State × Option Cmd) :=
  match load s (whoCmd c) c.recVa.toNat 64 with
  | .error e => .error e
  | .ok (s, r) =>
    let flags := fieldAt r 6 1
    if fieldAt r 4 2 ≠ c.op ∨ 4 ≤ flags ∨ fieldAt r 7 1 ≠ 0 then .ok (s, none)
    else
      match resolveRef s c c.srcHalf (flags.testBit 0) false (fieldAt r 8 8) with
      | .error e => .error e
      | .ok (s, none) => .ok (s, none)
      | .ok (s, some (a, ha)) =>
        match resolveRef s c c.dstHalf (flags.testBit 1) true (fieldAt r 0x10 8) with
        | .error e => .error e
        | .ok (s, none) => .ok (s, none)
        | .ok (s, some (b, hb)) =>
          let c := { c with img := some r, next := fieldAt r 0 4, src := a, dst := b, srcHalf := ha, dstHalf := hb }
          let d := fieldAt r 0x20 8
          let desc : Except Err (State × Nat) := if c.op = 2 ∧ d % 32 = 0 then readDesc s c d else .ok (s, 0)
          match desc with
          | .error e => .error e
          | .ok (s, x) =>
            let c := { c with tdesc := x }
            .ok (s, if fieldsOk c && extentsOk c && decide (c.next ≤ c.blocks) then some c else none)

/-! ## Collectives (R237) -/

/-- Whether scope sc of the command a contains the command b (R13, R15: an engine is a quad-level agent). -/
def cmdScopeHas (a b : Cmd) : Bool :=
  match max a.scope 1 with
  | 1 => decide (a.die = b.die ∧ a.quad = b.quad)
  | 2 => decide (a.die = b.die)
  | _ => true

def Cmd.key (c : Cmd) : Nat := c.word 0x20 8
def Cmd.nmemb (c : Cmd) : Nat := c.word 0x28 4
def Cmd.rank (c : Cmd) : Nat := c.word 0x2C 4

/-- What a member contributes. -/
def Cmd.contrib (c : Cmd) : Contrib := { rank := c.rank, base := c.src, die := c.die, quad := c.quad, issuer := c.issuer, sup := c.sup, cclass := c.cclass }

/-- The commands of the collective that a member belongs to, in order of their arrival. -/
def fellows (s : State) (c : Cmd) : List Cmd :=
  s.cmds.filter (fun x => decide (x.op = 6) && x.img.isSome && decide (x.asid = c.asid ∧ x.key = c.key) && (match x.state with | .done _ => false | _ => true) &&
    cmdScopeHas c x && cmdScopeHas x c)

/-- A member arrives: it takes up a complete collective that already counts it, among the members in flight or in what its save kept, or joins the one that
forms; code 3 on a mismatch. When the last member has come, every member knows all the contributions, each as the master that now makes it. -/
def joinCollective (s : State) (c : Cmd) : State × Cmd :=
  let fs := (fellows s c).filter (fun x => decide (x.id ≠ c.id))
  let mine (k : Contrib) : Bool := decide (k.rank = c.rank ∧ k.base = c.src)
  let anew (ks : List Contrib) : List Contrib := ks.map (fun k => if mine k then c.contrib else k)
  match fs.find? (fun x => x.contribs.any mine) with
  | some x => (fs.foldl (fun s y => modCmd s y.id (fun z => { z with contribs := anew z.contribs })) s, { c with contribs := anew x.contribs })
  | none =>
    if !c.contribs.isEmpty then (s, { c with contribs := anew c.contribs }) else
    let ms := fs.filter (fun x => x.contribs.isEmpty)
    match ms.head? with
    | none => (s, if c.nmemb = 1 then { c with contribs := [c.contrib] } else c)
    | some f =>
      if c.word 0x30 2 ≠ f.word 0x30 2 ∨ c.len ≠ f.len ∨ c.nmemb ≠ f.nmemb ∨ ms.any (fun x => decide (x.rank = c.rank)) then (s, { c with state := .done 3 })
      else if ms.length + 1 = c.nmemb then
        let all := sortBy (fun a b => decide (a.rank < b.rank)) ((c :: ms).map Cmd.contrib)
        (ms.foldl (fun s x => modCmd s x.id (fun y => { y with contribs := all })) s, { c with contribs := all })
      else (s, c)

/-! ## Blocks (R232 to R235) -/

/-- A block that does not complete: an error, or the code that ends the command. -/
inductive BlockEnd where
  | err (e : Err)
  | code (n : Nat)
  deriving DecidableEq, Repr

abbrev BlockRun (α : Type) := Except BlockEnd α

def tryLoad (s : State) (c : Cmd) (h : Option (Nat × Nat)) (a : Int) (n : Nat) : BlockRun (State × Nat) :=
  if !inHalf h a n then .error (.code 2)
  else match load s (whoCmd c) (va64 a) n with
    | .ok r => .ok r
    | .error e => .error (.err e)

def tryStore (s : State) (c : Cmd) (h : Option (Nat × Nat)) (a : Int) (n v : Nat) : BlockRun State :=
  if !inHalf h a n then .error (.code 2)
  else match store s (whoCmd c) (va64 a) n v with
    | .ok r => .ok r
    | .error e => .error (.err e)

/-- Copy n bytes, read whole before they are written. -/
def copyBlock (s : State) (c : Cmd) (a b : Int) (n : Nat) : BlockRun State :=
  match tryLoad s c c.srcHalf a n with
  | .error e => .error e
  | .ok (s, v) => tryStore s c c.dstHalf b n v

/-- The higher indices of run r, dimension 1 fastest. -/
def runIndex : List Dim → Nat → List (Dim × Int)
  | [], _ => []
  | d :: ds, r => (d, ((r % d.extent : Nat) : Int)) :: runIndex ds (r / d.extent)

/-- The source offset of an element, none when it is padding (R233). -/
def sourceOff : List (Dim × Int) → Option Int
  | [] => some 0
  | (d, i) :: r =>
    let x := d.lo + i
    let inside := decide (0 ≤ x) && decide (x ≤ (d.sext : Int) - 1)
    if !inside && !d.clamp then none
    else (sourceOff r).map (fun o => o + max 0 (min x ((d.sext : Int) - 1)) * d.ss)

/-- The padding element: pad's low bytes, repeated for 16-byte elements. -/
def padOf (c : Cmd) : Nat := let p := fieldAt c.tdesc 8 8; if c.esize = 16 then p + 2 ^ 64 * p else p % 256 ^ c.esize

/-- n elements of a run from index i of dimension 0. -/
def runFrom (s : State) (c : Cmd) (d0 : Dim) (hi : List (Dim × Int)) : Nat → Nat → BlockRun State
  | 0, _ => .ok s
  | n + 1, i =>
    let idx := (d0, (i : Int)) :: hi
    let dest := (c.dst : Int) + idx.foldl (fun o (d, x) => o + x * d.ds) 0
    let put (s : State) (v : Nat) : BlockRun State := tryStore s c c.dstHalf dest c.esize v
    let one : BlockRun State :=
      match sourceOff idx with
      | none => put s (padOf c)
      | some o =>
        match tryLoad s c c.srcHalf ((c.src : Int) + o) c.esize with
        | .error e => .error e
        | .ok (s, v) => put s v
    match one with
    | .error e => .error e
    | .ok s => runFrom s c d0 hi n (i + 1)

/-- One run of dimension 0 (R233). -/
def atenBlock (s : State) (c : Cmd) (r : Nat) : BlockRun State :=
  match c.dims with
  | [] => .ok s
  | d0 :: ds => runFrom s c d0 (runIndex ds r) d0.extent 0

/-- One entry of an index list: k, its index width w, sign-extended (R234). -/
def indexAt (s : State) (c : Cmd) (k w : Nat) : BlockRun (State × Nat) := tryLoad s c none ((c.word 0x20 8 : Int) + w * k) w

def gatherBlock (s : State) (c : Cmd) (k : Nat) : BlockRun State :=
  let b := c.word 0x28 8
  let st := i64 (c.word 0x30 8)
  let w := c.word 0x38 8
  match indexAt s c k w with
  | .error e => .error e
  | .ok (s, x) =>
    let o := sint (8 * w) x * st
    if c.op = 3 then copyBlock s c (c.src + o) ((c.dst : Int) + k * b) b else copyBlock s c ((c.src : Int) + k * b) (c.dst + o) b

/-- A page in pieces of 4 KiB, each read whole before it is written. -/
def copyPages (s : State) (c : Cmd) (a b : Int) : Nat → BlockRun State
  | 0 => .ok s
  | n + 1 =>
    match copyBlock s c a b 4096 with
    | .error e => .error e
    | .ok s => copyPages s c (a + 4096) (b + 4096) n

def pageBlock (s : State) (c : Cmd) (k : Nat) : BlockRun State :=
  let size := pageBytes (c.word 0x28 8)
  match indexAt s c k 4 with
  | .error e => .error e
  | .ok (s, x) => copyPages s c ((c.src : Int) + x * size) ((c.dst : Int) + k * size) (size / 4096)

/-- One block of a command that is no collective. -/
def plainBlock (s : State) (c : Cmd) (n : Nat) : BlockRun State :=
  match c.op with
  | 1 => copyBlock s c ((c.src : Int) + 4096 * n) ((c.dst : Int) + 4096 * n) (min 4096 (c.len - 4096 * n))
  | 2 => atenBlock s c n
  | 4 => pageBlock s c n
  | _ => gatherBlock s c n

/-- The state after a block, with prog written (R231). -/
def blockDone (s : State) (c : Cmd) (n : Nat) : BlockRun State :=
  match store s (whoCmd c) c.recVa.toNat 4 (n + 1) with
  | .error e => .error (.err e)
  | .ok s => .ok (modCmd s c.id (fun c => { c with next := n + 1, state := if n + 1 = c.blocks then .done 0 else c.state }))

def runPlain (s : State) (c : Cmd) : State :=
  match (match plainBlock s c c.next with | .error e => Except.error e | .ok s' => blockDone s' c c.next) with
  | .ok s' => s'
  | .error (.err e) => cmdErr s c e
  | .error (.code n) => modCmd s c.id (fun c => { c with state := .done n })

/-! ### A collective's block: every member's 64 elements are read before any member's result is written -/

/-- The elements of block n of the contributions, in rank order, each read as its own member does; the rank whose source faults is named. -/
def readContribs (s : State) (c : Cmd) (n k : Nat) : List Contrib → Except (Err × Nat) (State × List (Nat × List Nat))
  | [] => .ok (s, [])
  | x :: xs =>
    match load s (whoEngine c.asid x.die x.quad x.issuer x.sup x.cclass) (va64 ((x.base : Int) + 256 * n)) (4 * k) with
    | .error e => .error (e, x.rank)
    | .ok (s, v) =>
      match readContribs s c n k xs with
      | .error e => .error e
      | .ok (s, r) => .ok (s, (x.rank, (wordsOf k v).map (·.toNat)) :: r)

/-- What each member's destination receives: offset and value of each piece. -/
def collectiveOut (c : Cmd) (n : Nat) (xs : List (Nat × List Nat)) : List (Nat × Nat × Nat) :=
  let k := min 64 (c.len - 64 * n)
  let ws (l : List Nat) : Nat := ofWords (l.map (BitVec.ofNat 32))
  let ty := if c.word 0x31 1 = 0 then 0 else if c.word 0x31 1 = 1 then 1 else 4
  let m : FMode := { rm := .rne, sat := false, ftz := false }
  match c.word 0x30 1 with
  | 3 => xs.map (fun (r, l) => (r * c.len * 4 + 256 * n, 4 * k, ws l))
  | 4 => [(256 * n, 4 * k, ws ((xs.headD (0, [])).2))]
  | op => [(256 * n, 4 * k, ws ((List.range k).map (fun i => (foldLanes ty op m (xs.map (fun x => x.2.getD i 0))).1)))]

def checkOut (s : State) (c : Cmd) : List (Nat × Nat × Nat) → Except Err State
  | [] => .ok s
  | (o, n, _) :: r =>
    match storeCheck s (whoCmd c) (va64 ((c.dst : Int) + o)) n with
    | .error e => .error e
    | .ok s => checkOut s c r

def storeOut (s : State) (c : Cmd) : List (Nat × Nat × Nat) → Except Err State
  | [] => .ok s
  | (o, n, v) :: r =>
    match store s (whoCmd c) (va64 ((c.dst : Int) + o)) n v with
    | .error e => .error e
    | .ok s => storeOut s c r

/-- Check, then write, the results of the members at block n; the member that faults is named. -/
def checkMembers (s : State) (out : List (Nat × Nat × Nat)) : List Cmd → Except (Err × Cmd) State
  | [] => .ok s
  | c :: cs =>
    match checkOut s c out with
    | .error e => .error (e, c)
    | .ok s =>
      match storeCheck s (whoCmd c) c.recVa.toNat 4 with
      | .error e => .error (e, c)
      | .ok s => checkMembers s out cs

def storeMembers (s : State) (n : Nat) (out : List (Nat × Nat × Nat)) : List Cmd → State
  | [] => s
  | c :: cs =>
    let s' := match storeOut s c out with
      | .error e => cmdErr s c e
      | .ok s1 => match blockDone s1 c n with
        | .ok s2 => s2
        | .error (.err e) => cmdErr s c e
        | .error (.code k) => modCmd s c.id (fun c => { c with state := .done k })
    storeMembers s' n out cs

/-- A member of the collective is saved: it is issued again before the next block runs. -/
def memberSaved (s : State) (c : Cmd) : Bool :=
  s.dies.any (fun d => d.disp.saved.any (fun v => v.cmds.any (fun x => decide (x.op = 6 ∧ x.asid = c.asid) &&
    c.contribs.any (fun k => x.contribs.any (fun y => decide (y.rank = k.rank ∧ y.base = k.base))))))

/-- The next block of the collective: for the members that stand at the lowest block, all of which must run. -/
def runCollective (s : State) (c : Cmd) : State :=
  let ms := (fellows s c).filter (fun x => decide (x.contribs = c.contribs))
  let n := ms.foldl (fun n x => min n x.next) c.next
  let now := ms.filter (fun x => decide (x.next = n))
  if c.contribs.isEmpty || memberSaved s c || !(now.all (fun x => decide (x.state = .running))) then s
  else
    -- a broadcast reads rank 0's data only
    match readContribs s c n (min 64 (c.len - 64 * n)) (if c.word 0x30 1 = 4 then c.contribs.take 1 else c.contribs) with
    | .error (e, r) => cmdErr s ((now.find? (fun x => decide (x.rank = r))).getD c) e
    | .ok (s', xs) =>
      let out := collectiveOut c n xs
      match checkMembers s' out now with
      | .error (e, x) => cmdErr s x e
      | .ok s' => storeMembers s' n out now

/-! ## The command's steps -/

/-- Before its first block a command reads its record (R231). -/
def beginCmd (s : State) (c : Cmd) : State :=
  match readRecord s c with
  | .error e => cmdErr s c e
  | .ok (s, none) => modCmd s c.id (fun c => { c with state := .done 2 })
  | .ok (s, some c) =>
    let (s, c) := if c.op = 6 then joinCollective s c else (s, c)
    let c := if c.next = c.blocks ∧ c.state = .running then { c with state := .done 0 } else c
    modCmd s c.id (fun _ => c)

/-- COMMAND_BLOCK (R231 to R237): a running command reads its record, or completes its next block. -/
def execEvCommandBlock (id : Nat) (s : State) : Res :=
  match s.cmds.find? (fun c => decide (c.id = id)) with
  | none => .next s
  | some c =>
    if c.state ≠ .running then .next s
    else
      .next (pageTurn s (.cmd id) (fun a b => decide (a.cmds.find? (fun x => decide (x.id = id)) = b.cmds.find? (fun x => decide (x.id = id)))) (fun s =>
        if c.img.isNone then beginCmd s c else if c.op = 6 then runCollective s c else runPlain s c))

/-- TOKEN_WRITE (R230): a command all of whose blocks are done writes its token. -/
def execEvTokenWrite (id : Nat) (s : State) : Res :=
  match s.cmds.find? (fun c => decide (c.id = id)) with
  | none => .next s
  | some c =>
    match c.state with
    | .done code => .next (if deviceWaits s then s else finishCmd s c code)
    | _ => .next s

/-! ## PUB and HGET (R239, R306) -/

/-- One lane's PUB or HGET: the state and the base that it writes. -/
def handleOp (s : State) (u : Unit) (pub : Bool) (i : Nat) : Except Err (State × Nat) :=
  let asid := asidOf s u
  match readHandle s u.place.die asid i with
  | .error e => .error e
  | .ok (s, none) => .ok (s, 0)
  | .ok (s, some h) =>
    if !pub then .ok (s, h.liveBase)
    else
      match handleVa s u.place.die asid i with
      | none => .ok (s, 0)
      | some va =>
        match rmw s (sysWho u.place.die asid) 2 (va + 0x18) 4 (fun x => x ^^^ 1) with
        | .error e => .error e
        | .ok (s, old) => .ok (s, if old % 2 = 1 then h.half0 else h.half1)

/-- The accesses of PUB and HGET in order, each for the lanes that take its result. -/
def handleLanes (s : State) (u : Unit) (pub : Bool) (od : Opd) : List (List Nat × Nat) → Run
  | [] => .ok s
  | (ls, i) :: rest =>
    match handleOp s u pub i with
    | .error e => .error (e.stop ls s)
    | .ok (s, v) => handleLanes (writeDst s u od ls (ls.map (fun _ => v))) u pub od rest

def handleInstr (s : State) (pub : Bool) (d a : Fld) : Res :=
  let (od, oa) := (dst d .pair, src a .one)
  frame s { scope := true, unlogged := true, opds := [oa, od] } (fun iss s0 =>
    let (s, vs) := readAllOpds s0 iss.u false iss.lanes [oa]
    if (col vs 0).any (fun i => decide (4096 ≤ i)) then .error (.flt (fault .operand) iss.lanes s0)
    else
      let (w, sc) := (whoOf s iss.u 0, modeScope iss.u.regs.mode)
      let xs := if onceForAll iss.u [oa, od] then [(iss.lanes, (col vs 0).headD 0)] else (iss.lanes.map (fun l => [l])).zip (col vs 0)
      if pub then wholeLanes s iss (handleLanes (release s w sc) iss.u true od xs)
      else (wholeLanes s iss (handleLanes s iss.u false od xs)).map (fun s => acquire s w sc))

def execPub (d a : Fld) (s : State) : Res := handleInstr s true d a
def execHget (d a : Fld) (s : State) : Res := handleInstr s false d a

end Sys2Proof.Machine
end

