-- ==== Sys2Proof/Machine/Rays.lean ====
section
/-! DEFINITION. The intersection unit: batches, ray and raster records, the traversal table, the stack pool, starts, stops and completions
(opcodes 0xE8 to 0xEB; R335 to R347, R363 to R374). -/

namespace Sys2Proof.Machine

/-! ## Records (R345, R347, R359) -/

def Ray.get (r : Ray) (off n : Nat) : Nat := fieldAt r.img.toNat off n
def Ray.put (r : Ray) (off n v : Nat) : Ray := { r with img := putBits r.img (8 * (off + n) - 1) (8 * off) v }

def Ray.upc (r : Ray) : Nat := r.get 0x22 2 % 16384
def Ray.setUpc (r : Ray) (x : Nat) : Ray := r.put 0x22 2 (x % 16384)
def Ray.flag (r : Ray) (i : Nat) : Bool := (r.get 0x26 1).testBit i
def Ray.setFlag (r : Ray) (i : Nat) (b : Bool) : Ray :=
  let f := r.get 0x26 1
  r.put 0x26 1 (if b = f.testBit i then f else if b then f + 2 ^ i else f - 2 ^ i)

def Ray.level (r : Ray) : Nat := r.get 0x27 1
def Ray.nodeAt (r : Ray) : Nat := r.get 0x28 8
def Ray.ovf (r : Ray) : Nat := r.get 0x38 8
def Ray.ovfN (r : Ray) : Nat := r.get 0x42 2
def Ray.ovfCap (r : Ray) : Nat := r.get 0x44 2
def Ray.ncnt (r : Ray) : Nat := r.get 0x41 1
def Ray.m (r : Ray) (i : Nat) : Nat := r.get (0x5C + 2 * i) 2
def Ray.setM (r : Ray) (i v : Nat) : Ray := r.put (0x5C + 2 * i) 2 (v % 65536)

/-- All the entries of a ray's stack: those in the pool and those spilled. -/
def Ray.tdepth (r : Ray) : Nat := 8 * r.ovfN + r.pool.length

/-- The bytes of instance level k. -/
def instOff (k : Nat) : Nat := 0x80 + 0x20 * (k - 1)

/-- The depth at which the current level began (R354). -/
def Ray.base (r : Ray) : Nat := if r.level = 0 then 0 else r.get (instOff r.level + 0x1C) 2

/-- Fields of a tile word (R347). -/
def tileLev (t : Nat) : Nat := nbits t 17 16
def tileY (t : Nat) : Nat := nbits t 14 8
def tileX (t : Nat) : Nat := nbits t 6 0
def tileWord (x y lev : Nat) : Nat := lev * 65536 + y * 256 + x
def tileSize (lev : Nat) : Nat := 128 / 4 ^ lev
def tileReserved (t : Nat) : Bool := decide (t / 262144 ≠ 0) || t.testBit 15 || t.testBit 7

/-! ## Finding and changing rays -/

def Batch.ray? (b : Batch) (l : Nat) : Option Ray := b.rays.find? (fun r => decide (r.lane = l))
def batchOf (s : State) (id : Nat) : Option Batch := s.batches.find? (fun b => decide (b.id = id))
def modBatch (s : State) (id : Nat) (f : Batch → Batch) : State := { s with batches := s.batches.map (fun b => if b.id = id then f b else b) }
def setRay (s : State) (id : Nat) (r : Ray) : State := modBatch s id (fun b => { b with rays := b.rays.map (fun x => if x.lane = r.lane then r else x) })

def RayState.ended : RayState → Bool
  | .done | .stopped | .refused | .faulted | .eccEnded => true
  | _ => false

/-- The batch as a master: its accesses are those of the quad's engine, in user mode (R15, R165, R371). -/
def whoBatch (b : Batch) : Who :=
  { die := b.die, quad := b.quad, core := none, asid := b.asid, sup := false, cclass := b.cclass, ls := some b.issuer.core, tile := true,
    acc := decide (0xC0 ≤ b.issuer.unit ∧ b.issuer.unit < 0xC4), phys := false, me := none }

/-- The packet of a fault of a ray (R371, R372), for the supervisor core of the batch's own quad (R260). -/
def rayPacket (s : State) (b : Batch) (r : Ray) (c : Cause) (va : DWord) : State :=
  sendPacket s b.die (b.quad % 4)
    { cause := c, halted := false, tx := false, asid := b.asid, imm := 0, kind := 4, place := placeWord b.issuer (ownPkg s), serial := b.serial, pc := b.pc, va := va,
      unfinished := maskOf [r.lane], detail := r.recVa }

/-! ## The traversal table (R336 to R341) -/

/-- The physical address of a context's block in its die's table. -/
def travPa (s : State) (die slot : Nat) : Nat := paOf s die (bits (s.die die).regs.travTab 19 0 * 2 ^ 21 % 2 ^ 41) + slot * 65536

/-- A program as its descriptor gives it. -/
structure Prog where
  kind : Nat
  code : List Word
  deriving DecidableEq, Repr

/-- The program of a slot; none when its descriptor is not valid (R338). -/
def readProg (s : State) (die slot j : Nat) : Option Prog :=
  let base := travPa s die slot
  let d := freshRead s (base + 0x800 + 16 * j) 16
  let (c, n, k) := (fieldAt d 0 4, fieldAt d 4 4, fieldAt d 8 1)
  if j < 64 ∧ fieldAt d 9 1 = 1 ∧ fieldAt d 0xA 6 = 0 ∧ k ≤ 1 ∧ 1 ≤ n ∧ c + n ≤ 15616 then
    some { kind := k, code := (List.range n).map (fun i => BitVec.ofNat 32 (freshRead s (base + 0xC00 + 4 * (c + i)) 4)) }
  else none

/-- Fields of a layout entry (R340). -/
def layB (e : BitVec 256) (off : Nat) : Nat := fieldAt e.toNat off 1
def layBytes (e : BitVec 256) : Nat := 32 * layB e 0
def layChildren (e : BitVec 256) : Nat := layB e 1
def layQ8 (e : BitVec 256) : Bool := decide (layB e 2 = 1)
def layPtr (e : BitVec 256) : Nat := if layB e 3 = 1 then 4 else 8

/-- R341. -/
def layValid (e : BitVec 256) : Bool :=
  let b := layBytes e
  let n := layChildren e
  decide (layB e 0xA = 1 ∧ fieldAt e.toNat 0xB 21 = 0 ∧ 1 ≤ layB e 0 ∧ layB e 0 ≤ 8 ∧ 2 ≤ n ∧ n ≤ 8 ∧ layB e 2 ≤ 1 ∧ layB e 3 ≤ 1 ∧ layB e 9 = 0) &&
  decide (layB e 4 + n * layPtr e ≤ b ∧ layB e 4 % layPtr e = 0 ∧ layB e 5 + n * (if layQ8 e then 6 else 24) ≤ b ∧ layB e 5 % 4 = 0) &&
  (!layQ8 e || decide (layB e 6 + 16 ≤ b ∧ layB e 6 % 4 = 0)) && decide (layB e 7 < b ∧ layB e 8 + n ≤ b)

/-- The context slot whose block a batch uses. -/
def travSlot (s : State) (b : Batch) : Option Nat := (ctxOf s b.die b.asid).map (·.slot)

/-- The layout of an id as the run first read it (R339); none when it is not valid. -/
def layoutFor (s : State) (b : Batch) (r : Ray) (id : Nat) : Option (Ray × BitVec 256) :=
  let keep (r : Ray) (e : BitVec 256) : Option (Ray × BitVec 256) := if layValid e then some (r, e) else none
  match r.layouts.find? (fun x => decide (x.id = id)) with
  | some x => keep r x.entry
  | none =>
    match travSlot s b with
    | none => none
    | some slot =>
      if 64 ≤ id then none
      else
        let e := BitVec.ofNat 256 (freshRead s (travPa s b.die slot + 32 * id) 32)
        keep { r with layouts := { id := id, entry := e } :: r.layouts } e

/-! ## The stack pool (R364 to R366) -/

/-- Pool entries that a ray can take now: its reserve of four, then the shared ones. -/
def poolFree (b : Batch) (r : Ray) : Nat :=
  let live := b.rays.filter (fun x => !x.state.ended)
  let used := live.foldl (fun n x => n + (x.pool.length - 4)) 0
  (4 - r.pool.length) + (1024 - 4 * live.length - used)

/-- A ray that stalled for entries still lacks them. -/
def Ray.starved (b : Batch) (r : Ray) : Bool := decide (r.stalled = 1) && decide (poolFree b r < r.need)

/-- The entries a ray may take now: stalled rays resume in lane order (R367). -/
def poolGet (b : Batch) (r : Ray) : Nat :=
  if r.stalled = 1 ∧ b.rays.any (fun o => decide (o.lane < r.lane ∧ o.stalled = 1) && (decide (o.state = .running) || decide (o.state = .waiting)) && !o.starved b)
  then 0 else poolFree b r

/-- The most entries a ray's stack holds. -/
def Ray.limit (r : Ray) : Nat := if r.ovf = 0 then 8 else 8 * r.ovfCap + 8

/-- The 8 oldest pool entries written as a block to the overflow area. -/
def spillBlock (s : State) (w : Who) (r : Ray) : Except Err (State × Ray) :=
  match store s w (r.ovf + 64 * r.ovfN) 64 (ofWords ((r.pool.take 8).flatMap (fun e => [loWord e, hiWord e]))) with
  | .error e => .error e
  | .ok s => .ok (s, { (r.put 0x42 2 (r.ovfN + 1)) with pool := r.pool.drop 8 })

/-! ## Holding, ending and closing a ray (R367, R371, R372) -/

/-- A fault on the unit's own access to a record or overflow block: held for the supervisor, or the ray's end. -/
def ownFault (s : State) (b : Batch) (r : Ray) (c : Cause) (va : DWord) : State :=
  let back := match r.state with | .held _ => r.back | st => st
  let r' := if c = .page ∨ c = .bias ∨ c = .prot ∨ c = .window then { r with state := .held c, back := back }
            else { r with state := if c = .ecc then .eccEnded else .faulted, pool := [] }
  rayPacket (setRay s b.id r') b r c va

def ownErr (s : State) (b : Batch) (r : Ray) : Err → State
  | .flt c va => ownFault s b r c va
  | .wait _ => setRay s b.id r

/-- Spill until at most 8 entries remain (R367). -/
def spillDown (s : State) (w : Who) : Nat → Ray → Except (Err × State × Ray) (State × Ray)
  | 0, r => .ok (s, r)
  | f + 1, r =>
    if r.pool.length ≤ 8 ∨ r.ovfCap ≤ r.ovfN then .ok (s, r)
    else
      match spillBlock s w r with
      | .error e => .error (e, s, r)
      | .ok (s, r) => spillDown s w f r

/-- The 256 bytes that are written: a ray that never loaded its program keeps what it read but for its status and cause. The inline stack holds the ray's
entries and 0 above them (R465). -/
def recordOf (r : Ray) (status : Nat) : BitVec 2048 :=
  let r := r.put 0x24 1 status
  if r.code.isEmpty then r.img
  else
    let r := (r.put 0x40 1 (min r.pool.length 8)).put 0x46 2 r.tdepth
    (r.put 0xC0 64 (ofWords ((r.pool.take 8).flatMap (fun e => [loWord e, hiWord e])))).img

def Ray.final (r : Ray) (status : Nat) : RayState :=
  if status = 1 then .done else if status = 3 then .stopped else if r.get 0x25 1 = 0x11 then .eccEnded else .faulted

/-- Write the record of a ray that closes (R367), but for the origin, tmin and direction, which the unit never writes (R345). -/
def closeRay (s : State) (b : Batch) (r : Ray) (status : Nat) : State :=
  let r := { r with state := .closing status }
  match spillDown s (whoBatch b) (r.pool.length / 8 + 1) r with
  | .error (e, s, r) => ownErr s b r e
  | .ok (s', r) =>
    match store s' (whoBatch b) (r.recVa.toNat + 0x1C) 228 ((recordOf r status).toNat / 2 ^ 224) with
    | .error e => ownErr s' b r e
    | .ok s' => setRay s' b.id { r with state := r.final status, pool := [], img := recordOf r status }

/-- The entries that an unfinished push took go back to the pool. -/
def Ray.giveBack (r : Ray) : Ray := { r with pool := r.pool.take (r.pool.length - r.taken), taken := 0 }

/-- A ray stops by a fault (R371): its packet is sent and its record is written with status 2 and the cause. -/
def rayFault (s : State) (b : Batch) (r : Ray) (c : Cause) (va : DWord) : State :=
  let r := r.giveBack
  closeRay (rayPacket s b r c va) b (r.put 0x25 1 c.code) 2

/-! ## The start of a ray (R346, R369) -/

/-- A reserved field of a record is nonzero, or a field is out of range. -/
def recordBad (r : Ray) (kind : Nat) (resume : Bool) : Bool :=
  decide (16384 ≤ r.get 0x22 2) || decide (8 < r.get 0x40 1) || decide (r.ovfCap < r.ovfN) || (resume && decide (2 < r.level)) ||
  (if kind = 0 then decide (r.get 0x9F 1 ≠ 0) || decide (r.get 0xBF 1 ≠ 0) || decide (r.get 0x30 8 % 32 ≠ 0)
   else decide (r.get 0x1C 4 ≠ 0) || decide (r.get 0x30 8 ≠ 0) || decide (r.get 0x48 20 ≠ 0) || decide (r.get 0xBC 4 ≠ 0) ||
     tileReserved r.nodeAt || (List.range (min (r.get 0x40 1) 8)).any (fun j => tileReserved (r.get (0xC0 + 8 * j) 8)))

/-- The state with which TRACE and RAST begin (R369). -/
def freshRay (r : Ray) (kind : Nat) : Ray :=
  let r := (((r.setUpc 0).put 0x26 1 0).put 0x27 1 0).put 0x28 8 (if kind = 0 then r.get 0x30 8 else 0)
  let r := (((r.put 0x41 1 0).put 0x40 1 0).put 0x42 2 0).put 0x25 1 0
  if kind = 0 then (((r.put 0x48 4 0x7F800000).put 0x4C 4 0xFFFFFFFF).put 0x50 4 0xFFFFFFFF).put 0x54 8 0 else r

/-- The record has been read: the program is loaded and the run begins, or the ray is suspended with FLT_TRAV. -/
def beginRun (s : State) (b : Batch) (r : Ray) : State :=
  let s := needCtx s b.die b.asid
  match (travSlot s b).bind (fun slot => readProg s b.die slot (r.get 0x20 1)) with
  | none => rayFault s b r .trav 0
  | some p =>
    if recordBad r p.kind r.resume || (!r.resume && decide (p.kind ≠ (if b.raster then 1 else 0))) then rayFault s b r .trav 0
    else
      let r := { r with code := p.code, kind := p.kind, state := .running, stalled := 0, need := 0, taken := 0, node := none, cands := [],
                           pend := none, sinceBoundary := 0, layouts := [] }
      -- a batch that TRSM issued is a raster batch once it has a raster record (R373)
      let s := if p.kind = 1 then modBatch s b.id (fun x => { x with raster := true }) else s
      if r.resume then
        let es := (List.range (r.get 0x40 1)).map (fun j => BitVec.ofNat 64 (r.get (0xC0 + 8 * j) 8))
        if poolFree b r < es.length then setRay s b.id { r with state := .waiting, code := [], stalled := 1, need := es.length }
        else setRay s b.id { r with pool := es }
      else setRay s b.id (freshRay r p.kind)

/-- The start of a ray: the RMW of its status, then the reads of its record and program. -/
def startRay (s : State) (b : Batch) (r : Ray) : State :=
  let w := whoBatch b
  let ok (st : Nat) : Bool := if r.resume then decide (st = 2 ∨ st = 3) else decide (st = 0)
  let rmwd : Except Err (State × Nat) := if r.armed then .ok (s, if r.resume then 2 else 0) else rmw s w 2 (r.recVa.toNat + 0x24) 1 (fun st => if ok st then 4 else st)
  match rmwd with
  | .error e => ownErr s b r e
  | .ok (s, st) =>
    if !ok st then setRay s b.id { r with state := .refused }
    else
      let r := { r with armed := true }
      match load s w r.recVa.toNat 256 with
      | .error e => ownErr s b r e
      | .ok (s, x) => beginRun s b { r with img := BitVec.ofNat 2048 x }

/-- What the unit does next with a ray: something of its own, a micro-word, or nothing. -/
inductive RayNext where
  | own (s : State)
  | word (w : Word)
  | idle
  deriving DecidableEq, Repr

def rayNext (s : State) (id l : Nat) : RayNext :=
  match batchOf s id with
  | none => .idle
  | some b =>
    match b.ray? l with
    | none => .idle
    | some r =>
      match r.state with
      | .waiting => .own (startRay s b r)
      | .closing st => .own (closeRay s b r st)
      | .running =>
        match r.code[r.upc]? with
        | some w => .word w
        | none => .own (rayFault s b r .trav 0)
      | _ => .idle

/-! ## BATCH_COMPLETION (R370) -/

/-- The ray that spills: the one that holds the most entries, ties to the lowest lane. -/
def mostEntries : List Ray → Option Ray
  | [] => none
  | r :: rs => match mostEntries rs with
    | none => some r
    | some x => if r.pool.length < x.pool.length ∨ (r.pool.length = x.pool.length ∧ x.lane < r.lane) then some x else some r

/-- The token code of a batch all of whose rays have ended. -/
def batchCode (b : Batch) : Nat :=
  if b.cancelled then 1
  else if b.rays.any (fun r => decide (r.state = .eccEnded)) then 4
  else if b.rays.any (fun r => decide (r.state = .refused)) then 2
  else if b.rays.any (fun r => decide (r.state = .faulted)) then 5
  else 0

/-- The batch writes its token: its record and overflow writes are performed first, and the token is a release (R193, R370, R374). -/
def finishBatch (s : State) (b : Batch) (code : Nat) : State := endBatch (drainWts s b.die (fun _ => true)) b code

/-- Every ray has ended, and no pre-emption has to save one. -/
def batchOver (b : Batch) : Bool := b.rays.all (fun r => r.state.ended) && (b.cancelled || b.rays.all (fun r => decide (r.state ≠ .stopped)))

def execEvBatchCompletion (id : Nat) (s : State) : Res :=
  match batchOf s id with
  | none => .next s
  | some b => .next (if batchOver b && !deviceWaits s then finishBatch s b (batchCode b) else s)

/-! ## TRACE, RAST and TRSM (R335, R368) -/

def newRay (lane : Nat) (va : DWord) (resume : Bool) : Ray :=
  { lane := lane, recVa := va, state := .waiting, img := 0, pool := [], code := [], kind := 0, layouts := [], node := none, nodeVa := 0, nodeLay := 0, cands := [], pend := none,
    sinceBoundary := 0, stalled := 0, need := 0, taken := 0, armed := false, back := .waiting, resume := resume }

def batchesOn (s : State) (die quad : Nat) : Nat := (s.batches.filter (fun b => decide (b.die = die ∧ b.quad = quad))).length

def traceOp (s : State) (raster resumed : Bool) (d a : Fld) : Res :=
  let od := (dst d .one).must (if curIsWave s then .vOnly else .vk)
  let oa := (src a .pair).must .laneClass
  frame s { engines := .notSup, scope := true, unlogged := true, perGang := true, opds := [oa, od] } (fun iss s0 =>
    let u := iss.u
    let (s, vs) := readAllOpds s0 u false iss.lanes [oa]
    let vas := (col vs 0).map (BitVec.ofNat 64)
    match vas.find? (fun v => decide (v.toNat % 64 ≠ 0)) with
    | some v => .error (.flt (faultVa .align v) iss.lanes s0)
    | none =>
      let q := quadOf u.place.core
      let s := release s (whoOf s u 0) (modeScope u.regs.mode)
      if 4 ≤ batchesOn s u.place.die q then .error (.wait .structural iss.lanes s)
      else
        match takeCmdEntry s u.place.die u.ident.asid (if raster then 3 else 2) with
        | none => .error (.wait .structural iss.lanes s)
        | some (s, e) =>
          let b : Batch :=
            { id := s.seq, die := u.place.die, quad := q, issuer := u.place, serial := u.ident.serial, pc := iss.pc, asid := u.ident.asid, grid := u.ident.grid, token := d,
              lanes := maskOf iss.lanes, scope := modeScope u.regs.mode, raster := raster,
              rays := (iss.lanes.zip vas).map (fun (l, va) => newRay l va resumed), cancelled := false, stopping := false, cclass := u.ident.cclass, entry := some e }
          .ok { s with batches := s.batches ++ [b], seq := s.seq + 1 })

def execTrace (d a : Fld) (s : State) : Res := traceOp s false false d a
def execRast (d a : Fld) (s : State) : Res := traceOp s true false d a
def execTrsm (d a : Fld) (s : State) : Res := traceOp s false true d a

/-! ## ACAN (R238, R373) -/

/-- Cancel a batch: a ray without its start RMW and a held one end at once, a running one at its next boundary. -/
def cancelBatch (s : State) (id : Nat) : State :=
  modBatch s id (fun b => { b with
    cancelled := true,
    rays := b.rays.map (fun r => match r.state with
      | .waiting => if r.armed then r else { r with state := .done }
      | .held _ => { r with state := .done, pool := [] }
      | _ => r) })

/-- The commands and batches of a unit whose token is d, for one lane: a k register's token belongs to its command whole. -/
def cancelLane (s : State) (u : Unit) (d : Fld) (l : Nat) : State :=
  let hit (m : LaneMask) : Bool := isK d || m.getLsbD l
  let s := (s.cmds.filter (fun c => decide (c.token = d) && issuedBy u c.asid c.serial c.sup c.issuer && hit c.lanes)).foldl (fun s c => finishCmd s c 1) s
  (s.batches.filter (fun b => decide (b.token = d) && issuedBy u b.asid b.serial false b.issuer && hit b.lanes)).foldl (fun s b => cancelBatch s b.id) s

def execAcan (d : Fld) (s : State) : Res :=
  let o : Opd := { f := d, sh := .one, rd := false, wr := false, rule := .vk }
  frame s { opds := [o] } (fun iss s => .ok (iss.lanes.foldl (fun s l => cancelLane s iss.u d l) s))

end Sys2Proof.Machine
end

