-- ==== Sys2Proof/Machine/Micro.lean ====
section
/-! DEFINITION. The 24 micro-instructions of the intersection unit (R348 to R362). -/

namespace Sys2Proof.Machine

/-! ## The frame (R348, R350) -/

/-- How a micro-instruction ends. -/
inductive MicroEnd where
  /-- it completes; the micro-PC moves on by one -/
  | go (s : State) (r : Ray)
  /-- it completes at another micro-PC -/
  | jump (s : State) (r : Ray) (t : Nat)
  /-- it completes and the ray is done -/
  | finish (s : State) (r : Ray)
  | flt (c : Cause) (va : DWord)
  /-- it does not complete now: the ray as it waits, and the code of `Ray.stalled` -/
  | stall (r : Ray) (why : Nat)
  /-- a line is not to be had now -/
  | again
  deriving DecidableEq, Repr

def MicroEnd.ofErr : Err → MicroEnd
  | .flt c va => .flt c va
  | .wait _ => .again

/-- Which programs may hold an op (R348). -/
inductive Programs where
  | both | ray | raster
  deriving DecidableEq, Repr

def Programs.allow (p : Programs) (kind : Nat) : Bool :=
  match p with
  | .both => true
  | .ray => decide (kind = 0)
  | .raster => decide (kind = 1)

/-- What every boundary empties (R350). -/
def Ray.atBoundary (r : Ray) : Ray := { (r.setFlag 5 false) with node := none, cands := [], pend := none, sinceBoundary := 0 }

/-- The batch and running ray that cur names. -/
def rayCur (s : State) : Option (Batch × Ray) :=
  match s.cur with
  | .ray id l =>
    match batchOf s id with
    | none => none
    | some b =>
      match b.ray? l with
      | some r => if r.state = .running then some (b, r) else none
      | none => none
  | _ => none

/-- One micro-instruction of the ray that cur names. -/
def microFrame (s : State) (boundary : Bool) (ps : Programs) (body : State → Batch → Ray → MicroEnd) : Res :=
  match rayCur s with
  | none => .fault .noAgent
  | some (b, r) =>
    if boundary && (b.stopping || b.cancelled) then .next (closeRay s b r 3)
    else if !boundary && decide (256 ≤ r.sinceBoundary) then .next (rayFault s b r .trav 0)
    else
      let r0 := if boundary then r.atBoundary else r
      if !ps.allow r.kind then .next (rayFault s b r0 .trav 0)
      else
        let tick (r : Ray) : Ray := { r with stalled := 0, taken := 0, sinceBoundary := if boundary then 0 else r.sinceBoundary + 1 }
        match body s b r0 with
        | .go s r => .next (setRay s b.id ((tick r).setUpc (r.upc + 1)))
        | .jump s r t => if t < r.code.length then .next (setRay s b.id ((tick r).setUpc t)) else .next (rayFault s b r0 .trav 0)
        | .finish s r => .next (closeRay s b (tick r) 1)
        | .flt c va => .next (rayFault s b r0 c va)
        | .stall r n => .next (setRay s b.id { r with stalled := n })
        | .again => .next (setRay s b.id r0)

def trav : MicroEnd := .flt .trav 0

/-! ## Arithmetic (R353, R355) -/

def f32 (x : Nat) : XR := fp32.decode x

/-- Round of R111 under a mode, with neither sat nor ftz. -/
def rnd (rm : Rm) (x : XR) : Nat := (fp32.round rm false false false x).v

def nanF (x : Nat) : Bool := (f32 x).isNan
def ltX (a b : XR) : Bool := !a.isNan && !b.isNan && decide (a.cmp b < 0)
def leX (a b : XR) : Bool := !a.isNan && !b.isNan && decide (a.cmp b ≤ 0)
def ltF (a b : Nat) : Bool := ltX (f32 a) (f32 b)
def leF (a b : Nat) : Bool := leX (f32 a) (f32 b)

def minX (a b : XR) : XR := if a.isNan || b.isNan then .nan else if a.cmp b ≤ 0 then a else b
def maxX (a b : XR) : XR := if a.isNan || b.isNan then .nan else if b.cmp a ≤ 0 then a else b

/-- The exact sum of exact products, under a mode that fixes the sign of an exact zero. -/
def sumP (rm : Rm) (ps : List (XR × XR)) : XR := (XR.sum rm (ps.map (fun (a, b) => (a.mul b).1))).1

def one32 : XR := .fin false 1 0
def recip (d : Nat) : Nat := (fp32.divX { rm := .rne, sat := false, ftz := false } one32 (f32 d)).v

abbrev V3 := Nat × Nat × Nat

def Ray.vec (r : Ray) (off : Nat) : V3 := (r.get off 4, r.get (off + 4) 4, r.get (off + 8) 4)
def Ray.setVec (r : Ray) (off : Nat) (v : V3) : Ray := ((r.put off 4 v.1).put (off + 4) 4 v.2.1).put (off + 8) 4 v.2.2

/-- The origin and direction of the current ray (R345). -/
def Ray.org (r : Ray) : V3 := if r.level = 0 then r.vec 0 else r.vec (instOff r.level)
def Ray.dir (r : Ray) : V3 := if r.level = 0 then r.vec 0x10 else r.vec (instOff r.level + 0xC)

def subF (a b : Nat) : Nat := rnd .rne (XR.sum .rne [f32 a, (f32 b).negate]).1
def addF (a b : Nat) : Nat := rnd .rne (XR.sum .rne [f32 a, f32 b]).1
def mulF (a b : Nat) : Nat := rnd .rne ((f32 a).mul (f32 b)).1
def subV (a b : V3) : V3 := (subF a.1 b.1, subF a.2.1 b.2.1, subF a.2.2 b.2.2)

/-- A difference of two products, rounded once. -/
def det2 (a b c d : Nat) : Nat := rnd .rne (sumP .rne [(f32 a, f32 b), ((f32 c).negate, f32 d)])

def crossV (a b : V3) : V3 := (det2 a.2.1 b.2.2 a.2.2 b.2.1, det2 a.2.2 b.1 a.1 b.2.2, det2 a.1 b.2.1 a.2.1 b.1)
def dot3 (a b : V3) : Nat := rnd .rne (sumP .rne [(f32 a.1, f32 b.1), (f32 a.2.1, f32 b.2.1), (f32 a.2.2, f32 b.2.2)])

/-! ## Nodes (R342 to R344, R352) -/

/-- A ray's load of node, triangle or instance bytes (R371). -/
def rayLoad (s : State) (b : Batch) (va n : Nat) (k : State → Nat → MicroEnd) : MicroEnd :=
  match load s (whoBatch b) va n with
  | .error e => .ofErr e
  | .ok (s, x) => k s x

def execUNfet (s : State) : Res :=
  microFrame s true .ray (fun s b r =>
    if r.nodeAt % 32 ≠ 0 then trav
    else match layoutFor s b r (r.get 0x21 1) with
      | none => trav
      | some (r, e) => rayLoad s b r.nodeAt (layBytes e) (fun s x => .go s { r with node := some (bytesOf (layBytes e) x), nodeVa := BitVec.ofNat 64 r.nodeAt, nodeLay := e }))

/-- The layout that the node buffer was read under. -/
def Ray.lay (r : Ray) : Option (BitVec 256) := r.node.map (fun _ => r.nodeLay)

/-- The stored pointer of child c of a node: its VA, none when absent; FLT_TRAV for a va64 pointer above the address space (R342). -/
def childVa (r : Ray) (e : BitVec 256) (node c : Nat) : Except Cause (Option Nat) :=
  let n := layPtr e
  let v := fieldAt node (layB e 4 + n * c) n
  if v = 0 then .ok none
  else if n = 4 then .ok (some ((r.nodeVa + 32 * sext 32 64 v).toNat))
  else if 2 ^ 57 ≤ v then .error .trav
  else .ok (some (v / 32 * 32))

/-- The bounds of child c on axis k (R343). -/
def childBox (e : BitVec 256) (node c k : Nat) : Nat × Nat :=
  let bo := layB e 5
  if layQ8 e then
    let q := layB e 6
    let o := f32 (fieldAt node (q + 4 * k) 4)
    let sc := sint 8 (fieldAt node (q + 12 + k) 1)
    let bound (rm : Rm) (off : Nat) : Nat := rnd rm (XR.sum rm [o, .fin false (fieldAt node (bo + 6 * c + off + k) 1) sc]).1
    (bound .rdn 0, bound .rup 3)
  else (fieldAt node (bo + 24 * c + 4 * k) 4, fieldAt node (bo + 24 * c + 12 + 4 * k) 4)

/-- The near and far of one axis (R353); none: the child misses or a NaN arose. -/
def axis (o d lo hi : Nat) : Option (Nat × Nat) :=
  let (xo, xl, xh) := (f32 o, f32 lo, f32 hi)
  if (f32 d).isZero then (if ltX xo xl || ltX xh xo then none else some (0xFF800000, 0x7F800000))
  else
    let r := f32 (recip d)
    let arm (rm : Rm) (x : XR) : XR := ((XR.sum rm [x, xo.negate]).1.mul r).1
    let near := rnd .rdn (minX (arm .rdn xl) (arm .rdn xh))
    let far := rnd .rup (maxX (arm .rup xl) (arm .rup xh))
    if nanF near || nanF far then none else some (near, far)

def maxF (a b : Nat) : Nat := if ltF a b then b else a
def minF (a b : Nat) : Nat := if ltF b a then b else a

/-- The candidate that child c makes, if it is hit (R353). -/
def childHit (r : Ray) (e : BitVec 256) (node c va : Nat) : Option Cand :=
  let (o, d) := (r.org, r.dir)
  let ax (k ok dk : Nat) : Option (Nat × Nat) := let (lo, hi) := childBox e node c k; axis ok dk lo hi
  match ax 0 o.1 d.1, ax 1 o.2.1 d.2.1, ax 2 o.2.2 d.2.2 with
  | some x, some y, some z =>
    let (tmin, tmax, ht) := (r.get 0xC 4, r.get 0x1C 4, r.get 0x48 4)
    let tn := maxF (maxF (maxF x.1 y.1) z.1) tmin
    let tf := minF (minF (minF (minF x.2 y.2) z.2) tmax) ht
    if nanF tmin || nanF tmax || nanF ht || !leF tn tf then none
    else
      let leaf := (fieldAt node (layB e 7) 1).testBit c
      let cnt := fieldAt node (layB e 8 + c) 1
      some { va := BitVec.ofNat 64 va, leaf := leaf, inst := leaf && cnt.testBit 7, count := if leaf then cnt % 128 else 0, tn := BitVec.ofNat 32 tn }
  | _, _, _ => none

/-- The candidates of children from c on, in child order. A va64 pointer with a bit of [63:57] set is FLT_TRAV at BOXT, for every child that is present,
hit or missed (DESIGN CHOICE, log entry 127). -/
def boxChildren (r : Ray) (e : BitVec 256) (node : Nat) : Nat → Nat → Except Cause (List Cand)
  | 0, _ => .ok []
  | f + 1, c =>
    match childVa r e node c with
    | .error x => .error x
    | .ok va =>
      match boxChildren r e node f (c + 1) with
      | .error x => .error x
      | .ok rest => .ok ((match va with | some va => (childHit r e node c va).toList | none => []) ++ rest)

def execUBoxt (s : State) : Res :=
  microFrame s false .ray (fun s _ r =>
    match r.node, r.lay with
    | some bs, some e =>
      match boxChildren r e (ofBytes bs) (layChildren e) 0 with
      | .error c => .flt c 0
      | .ok cs => .go s { (r.setFlag 0 cs.isEmpty) with cands := cs }
    | _, _ => trav)

/-! ## The candidate list and the stack (R354, R364 to R366) -/

def execUOrdr (s : State) : Res :=
  microFrame s false .ray (fun s _ r => .go s { r with cands := sortBy (fun a b => ltF a.tn.toNat b.tn.toNat) r.cands })

/-- The stack entry of a candidate (R347). -/
def Cand.entry (c : Cand) : DWord :=
  BitVec.ofNat 64 (c.count * 2 ^ 57 + nbits c.va.toNat 56 5 * 32 + (if c.leaf then 16 else 0) + (if c.inst then 8 else 0))

/-- Push entries, the first of the list first. A breach of the limit of R364 comes before any is pushed; a ray that finds no entry keeps those it has
pushed and stalls (R365). -/
def pushAll (s : State) (b : Batch) (r : Ray) (es : List DWord) (k : Ray → Ray) : MicroEnd :=
  let rest := es.drop r.taken
  let n := poolGet b r
  if r.limit < r.tdepth + rest.length then trav
  else if n < rest.length then .stall { r with pool := r.pool ++ rest.take n, taken := r.taken + n, need := 1 } 1
  else .go s (k { r with pool := r.pool ++ rest })

def execUPush (s : State) : Res :=
  microFrame s false .ray (fun s b r => pushAll s b r ((r.cands.drop 1).reverse.map Cand.entry) (fun r => { r with cands := r.cands.take 1 }))

def execUNext (s : State) : Res :=
  microFrame s false .ray (fun s _ r =>
    match r.cands with
    | [] => .go s (r.setFlag 0 true)
    | c :: _ => .go s { ((((r.put 0x28 8 c.va.toNat).put 0x41 1 c.count).setFlag 1 c.leaf).setFlag 2 c.inst).setFlag 0 false with cands := [] })

/-- Take an entry (R354): for a raster program it is a tile word (R347, R349). -/
def takeEntry (r : Ray) (e : DWord) : Ray :=
  let r := r.setFlag 3 false
  if r.kind = 1 then (r.put 0x28 8 e.toNat).setFlag 4 (decide (tileLev e.toNat = 3))
  else (((r.put 0x28 8 (nbits e.toNat 56 5 * 32)).put 0x41 1 (nbits e.toNat 63 57)).setFlag 1 (bit e 4)).setFlag 2 (bit e 3)

def popTop (s : State) (r : Ray) : MicroEnd :=
  match r.pool.getLast? with
  | some e => .go s (takeEntry { r with pool := r.pool.dropLast } e)
  | none => .go s (r.setFlag 3 true)

def execUPop (s : State) : Res :=
  microFrame s true .both (fun s b r =>
    if r.tdepth = r.base then .go s (r.setFlag 3 true)
    else if r.pool.isEmpty && decide (0 < r.ovfN) then
      if poolGet b r < 8 then .stall { r with need := 8 } 1
      else rayLoad s b (r.ovf + 64 * (r.ovfN - 1)) 64 (fun s x =>
        popTop s { (r.put 0x42 2 (r.ovfN - 1)) with pool := (List.range 8).map (fun j => BitVec.ofNat 64 (fieldAt x (8 * j) 8)) })
    else popTop s r)

/-! ## Triangles and hits (R355, R356) -/

/-- The pending hit of a triangle, if it beats the best one. -/
def triHit (r : Ray) (x : Nat) : Option Hit :=
  let v (off : Nat) : V3 := (fieldAt x off 4, fieldAt x (off + 4) 4, fieldAt x (off + 8) 4)
  let (o, d) := (r.org, r.dir)
  let e1 := subV (v 12) (v 0)
  let e2 := subV (v 24) (v 0)
  let sv := subV o (v 0)
  let p := crossV d e2
  let q := crossV sv e1
  let det := dot3 e1 p
  if nanF det || (f32 det).isZero then none
  else
    let inv := recip det
    let u := mulF (dot3 sv p) inv
    let w := mulF (dot3 d q) inv
    let t := mulF (dot3 e2 q) inv
    let (tmin, tmax, ht) := (r.get 0xC 4, r.get 0x1C 4, r.get 0x48 4)
    if leF 0 u && leF 0 w && leF (addF u w) 0x3F800000 && leF tmin t && leF t tmax && ltF t ht then
      some { t := BitVec.ofNat 32 t, prim := BitVec.ofNat 32 (fieldAt x 0x24 4), u := BitVec.ofNat 32 u, v := BitVec.ofNat 32 w }
    else none

def execUTrit (s : State) : Res :=
  microFrame s true .ray (fun s b r =>
    if r.ncnt = 0 then .go s ((r.setFlag 5 false).setFlag 0 true)
    else rayLoad s b r.nodeAt 48 (fun s x =>
      let h := triHit r x
      let r := ((r.put 0x28 8 ((r.nodeAt + 48) % 2 ^ 64)).put 0x41 1 (r.ncnt - 1)).setFlag 5 h.isSome
      .go s { (r.setFlag 0 (decide (r.ncnt = 0))) with pend := h }))

/-- The instance id of the current level. -/
def Ray.instId (r : Ray) : Nat := if r.level = 0 then 0xFFFFFFFF else r.get (instOff r.level + 0x18) 4

/-- Commit the pending hit. -/
def commitHit (r : Ray) : Ray :=
  let r' := match r.pend with
    | some h => ((((r.put 0x48 4 h.t.toNat).put 0x4C 4 h.prim.toNat).put 0x50 4 r.instId).put 0x54 4 h.u.toNat).put 0x58 4 h.v.toNat
    | none => r
  r'.setFlag 5 false

def execUHit (s : State) : Res := microFrame s false .ray (fun s _ r => .go s (if r.flag 5 then commitHit r else r))
def execUAnyh (s : State) : Res := microFrame s false .ray (fun s _ r => if r.flag 5 then .finish s (commitHit r) else .go s r)
def execUTmax (s : State) : Res := microFrame s false .ray (fun s _ r => .go s (if r.get 0x4C 4 ≠ 0xFFFFFFFF then r.put 0x1C 4 (r.get 0x48 4) else r))

def execULeaf (a : BitVec 6) (s : State) : Res :=
  microFrame s false .ray (fun s _ r =>
    if r.flag 1 = false ∨ r.flag 2 = true ∨ 16 ≤ a.toNat then trav else .go s ((r.setM a.toNat r.ncnt).setFlag 0 (decide (r.ncnt = 0))))

/-! ## Instances (R344, R357) -/

/-- A row of the matrix applied to a vector, with or without the translation. -/
def matRow (x row : Nat) (v : V3) (shift : Bool) : Nat :=
  let e (c : Nat) : XR := f32 (fieldAt x (16 * row + 4 * c) 4)
  rnd .rne (sumP .rne ([(e 0, f32 v.1), (e 1, f32 v.2.1), (e 2, f32 v.2.2)] ++ (if shift then [(e 3, one32)] else [])))

def matVec (x : Nat) (v : V3) (shift : Bool) : V3 := (matRow x 0 v shift, matRow x 1 v shift, matRow x 2 v shift)

/-- The ray enters the instance whose record is x. -/
def enterInst (r : Ray) (x : Nat) : Ray :=
  let k := r.level + 1
  let o := instOff k
  let r := (r.setVec o (matVec x r.org true)).setVec (o + 0xC) (matVec x r.dir false)
  let r := (((r.put (o + 0x18) 4 (fieldAt x 0x38 4)).put (o + 0x1C) 2 r.tdepth).put (o + 0x1E) 1 (r.get 0x21 1)).put 0x27 1 k
  ((r.put 0x21 1 (fieldAt x 0x3C 1)).put 0x28 8 (fieldAt x 0x30 8)).setFlag 4 true

def execUInst (s : State) : Res :=
  microFrame s true .ray (fun s b r =>
    if r.flag 1 = false ∨ r.flag 2 = false ∨ 2 ≤ r.level ∨ r.nodeAt % 64 ≠ 0 then trav
    else rayLoad s b r.nodeAt 64 (fun s x =>
      let root := fieldAt x 0x30 8
      if root % 32 ≠ 0 ∨ 2 ^ 57 ≤ root ∨ fieldAt x 0x3D 3 ≠ 0 then trav
      else match layoutFor s b r (fieldAt x 0x3C 1) with
        | none => trav
        | some (r, _) => .go s (enterInst r x)))

def execUIpop (s : State) : Res :=
  microFrame s false .ray (fun s _ r =>
    if r.level = 0 then trav
    else
      let l := r.level - 1
      .go s ((((r.put 0x21 1 (r.get (instOff r.level + 0x1E) 1)).put 0x27 1 l).setFlag 4 (decide (0 < l))).setFlag 3 false))

/-! ## General micro-instructions (R358) -/

def execULdr (a b : BitVec 6) (i : BitVec 14) (s : State) : Res :=
  microFrame s false .both (fun s _ r =>
    let put (v : Nat) : MicroEnd := .go s ((r.setM a.toNat v).setFlag 0 (decide (v % 65536 = 0)))
    if 16 ≤ a.toNat then trav
    else match b.toNat with
      | 0 => put i.toNat
      | 1 =>
        match r.node with
        | some bs => if i.toNat % 2 = 0 ∧ i.toNat < bs.length then put (fieldAt (ofBytes bs) i.toNat 2) else trav
        | none => trav
      | 2 => put (BitVec.ofNat 16 (r.m a.toNat) + i.signExtend 16).toNat
      | _ => trav)

def execUFlg (i : BitVec 4) (s : State) : Res :=
  microFrame s false .both (fun s _ r =>
    let r := if bit i 2 then r.setFlag 6 (bit i 0) else r
    .go s (if bit i 3 then r.setFlag 7 (bit i 1) else r))

def execUBrc (n : BitVec 1) (flag : BitVec 3) (t : BitVec 14) (s : State) : Res :=
  microFrame s false .both (fun s _ r =>
    if r.code.length ≤ t.toNat then trav
    else if r.flag flag.toNat ≠ bit n 0 then .jump s r t.toNat else .go s r)

def execUJmp (t : BitVec 14) (s : State) : Res := microFrame s false .both (fun s _ r => .jump s r t.toNat)
def execUYld (s : State) : Res := microFrame s true .both (fun s _ r => .go s r)

def execUStat (a : BitVec 6) (i : BitVec 14) (s : State) : Res :=
  microFrame s false .both (fun s _ r => if 16 ≤ a.toNat then trav else .go s (r.put 0x7C 4 (65536 * r.m a.toNat + i.toNat)))

def execUDone (s : State) : Res := microFrame s false .both (fun s _ r => .finish s r)

/-- RESERVED_MICRO_OPERATION (R348): a word that breaks the encoding rules. -/
def execEvReservedMicroOperation (_w : Word) (s : State) : Res := microFrame s false .both (fun _ _ _ => trav)

/-! ## Raster programs (R359 to R363) -/

/-- The exact value of the plane at record offset off at the centre of pixel (x, y) of the tile. -/
def planeAt (rm : Rm) (r : Ray) (off x y : Nat) : XR :=
  let cx : XR := .fin false (2 * (r.get 0x18 2 + x) + 1) (-1)
  let cy : XR := .fin false (2 * (r.get 0x1A 2 + y) + 1) (-1)
  sumP rm [(f32 (r.get off 4), cx), (f32 (r.get (off + 4) 4), cy), (f32 (r.get (off + 8) 4), one32)]

/-- The values of a plane at the four corner pixels of the tile in node. -/
def cornersOf (rm : Rm) (r : Ray) (off : Nat) : List XR :=
  let t := r.nodeAt
  let (x, y, d) := (tileX t, tileY t, tileSize (tileLev t) - 1)
  [planeAt rm r off x y, planeAt rm r off (x + d) y, planeAt rm r off x (y + d), planeAt rm r off (x + d) (y + d)]

def minOf : List XR → XR
  | [] => .nan
  | [x] => x
  | x :: xs => minX x (minOf xs)

def maxOf : List XR → XR
  | [] => .nan
  | [x] => x
  | x :: xs => maxX x (maxOf xs)

def zeroX : XR := .fin false 0 0

def execUEdgt (s : State) : Res :=
  microFrame s false .raster (fun s _ r =>
    let es := [0x80, 0x8C, 0x98].map (cornersOf .rne r)
    .go s (((r.setFlag 0 (es.any (fun c => ltX (maxOf c) zeroX))).setFlag 1 (es.all (fun c => ltX zeroX (minOf c)))).setFlag 4 (decide (tileLev r.nodeAt = 3))))

/-- The offset of a tile's hierarchical depth word (R360). -/
def hzOff (lev x y : Nat) : Nat :=
  match lev with
  | 0 => 0x60000
  | 1 => 0x60010 + 4 * (y / 32 * 4 + x / 32)
  | 2 => 0x60100 + 4 * (y / 8 * 16 + x / 8)
  | _ => 0x61000 + 4 * (y / 2 * 64 + x / 2)

def execUDepz (s : State) : Res :=
  microFrame s false .raster (fun s b r =>
    let t := r.nodeAt
    let z := rnd .rdn (minOf (cornersOf .rdn r 0))
    .go s (r.setFlag 0 (nanF z || leF (tileGet s b.die b.quad (hzOff (tileLev t) (tileX t) (tileY t)) 4) z)))

def execUSplt (s : State) : Res :=
  microFrame s false .raster (fun s b r =>
    let t := r.nodeAt
    let lev := tileLev t
    if 3 ≤ lev then trav
    else
      let d := tileSize (lev + 1)
      let sub (j : Nat) : DWord := BitVec.ofNat 64 (tileWord (tileX t + d * (j % 4)) (tileY t + d * (j / 4)) (lev + 1))
      pushAll s b r ((List.range 16).reverse.map sub) id)

/-- Whether a tile covers a pixel. -/
def tileCovers (t x y : Nat) : Bool :=
  let d := tileSize (tileLev t)
  decide (tileX t ≤ x ∧ x < tileX t + d ∧ tileY t ≤ y ∧ y < tileY t + d)

/-- A ray has passed a pixel quad or has left the batch (R363). -/
def Ray.passed (r : Ray) (x y : Nat) : Bool :=
  match r.state with
  | .closing _ => true
  | .running => decide (r.ovfN = 0) && !tileCovers r.nodeAt x y && !(r.pool.any (fun e => tileCovers e.toNat x y))
  | st => st.ended

/-- No lower lane of the batch, and no earlier batch of the same agent on the quad, still has the pixel quad before it. -/
def emitTurn (s : State) (b : Batch) (r : Ray) (x y : Nat) : Bool :=
  (b.rays.filter (fun o => decide (o.lane < r.lane))).all (fun o => o.passed x y) &&
  (s.batches.filter (fun o => o.raster && decide (o.id < b.id ∧ o.die = b.die ∧ o.quad = b.quad ∧ o.asid = b.asid ∧ o.serial = b.serial))).all
    (fun o => o.rays.all (fun q => q.passed x y))

/-- Pixel (x, y) is inside the three edges (R362 step 1). -/
def insideEdges (r : Ray) (x y : Nat) : Bool :=
  [0x80, 0x8C, 0x98].all (fun off =>
    let e := planeAt .rne r off x y
    let (a, b) := (f32 (r.get off 4), f32 (r.get (off + 4) 4))
    ltX zeroX e || (e.isZero && (ltX zeroX a || (a.isZero && ltX zeroX b))))

/-- Steps 1 to 3 for pixel j of the quad at (x, y): its new tile memory, and whether it passes. -/
def emitPixel (s : State) (b : Batch) (r : Ray) (x y j : Nat) : State × Bool :=
  let (px, py) := (x + j % 2, y + j / 2)
  let p := 128 * py + px
  let z := rnd .rne (planeAt .rne r 0 px py)
  if insideEdges r px py && ltF z (tileGet s b.die b.quad (4 * p) 4) then
    let put (s : State) (off v : Nat) : State := tilePut s b.die b.quad (off + 4 * p) 4 v
    (put (put (put (put s 0 z) 0x10000 (r.get 0xC 4)) 0x20000 (rnd .rne (planeAt .rne r 0xA4 px py))) 0x30000 (rnd .rne (planeAt .rne r 0xB0 px py)), true)
  else (s, false)

/-- The greatest of some depth words (R116). -/
def maxDepth (xs : List Nat) : Nat :=
  match xs with
  | [] => 0
  | x :: xs => xs.foldl (fun m y => fp32.minmax true false m y) x

/-- Step 4: the hierarchical depth above the quad at (x, y). -/
def emitDepth (s : State) (b : Batch) (x y : Nat) : State :=
  let get (s : State) (off : Nat) : Nat := tileGet s b.die b.quad off 4
  let s := tilePut s b.die b.quad (hzOff 3 x y) 4 (maxDepth ((List.range 4).map (fun j => get s (4 * (128 * (y + j / 2) + x + j % 2)))))
  [2, 1, 0].foldl (fun s lev =>
    let d := tileSize (lev + 1)
    let (bx, byy) := (x / (4 * d) * (4 * d), y / (4 * d) * (4 * d))
    tilePut s b.die b.quad (hzOff lev x y) 4 (maxDepth ((List.range 16).map (fun j => get s (hzOff (lev + 1) (bx + d * (j % 4)) (byy + d * (j / 4))))))) s

def execUEmit (s : State) : Res :=
  microFrame s true .raster (fun s b r =>
    let t := r.nodeAt
    let (x, y) := (tileX t, tileY t)
    if tileLev t ≠ 3 then trav
    else if !emitTurn s b r x y then .stall r 2
    else
      let (s1, mask) : State × Nat := (List.range 4).foldl (fun (a : State × Nat) j => let (s, hit) := emitPixel a.1 b r x y j; (s, a.2 + (if hit then 2 ^ j else 0))) (s, 0)
      let s1 := emitDepth s1 b x y
      if mask = 0 then .go s1 r
      else
        match templateFor s b.die b.asid (BitVec.ofNat 64 (r.get 0x10 8)) with
        | .error e => .ofErr e
        | .ok (_, none) => .flt .migr 0
        | .ok (_, some tm) =>
          if !tm.valid then .flt .migr 0
          else
            let (s1, tk) := takeTicket s1 b.die b.quad (64 * (y / 2) + x / 2) mask
            let w (v : Nat) : Word := BitVec.ofNat 32 v
            match binRecord s1 b.die b.quad b.asid tm { v := [w (r.get 0x18 2 + x), w (r.get 0x1A 2 + y), w mask, w (r.get 0xC 4)], p := 0, ticket := some tk, mig := none } with
            | none => .stall r 3
            | some s1 => .go s1 r)

/-! ## STACK_SPILL (R365) -/

/-- A ray does not go on by itself: it still lacks pool entries, or its EMIT still waits for its turn. -/
def Ray.stuck (s : State) (b : Batch) (r : Ray) : Bool :=
  r.starved b || (decide (r.stalled = 2) && !emitTurn s b r (tileX r.nodeAt) (tileY r.nodeAt))

/-- The ray that spills when every running ray of a batch is stalled, at least one of them for an entry: the one that holds the most entries, of all that
have not ended. -/
def spiller (s : State) (b : Batch) : Option Ray :=
  let run := b.rays.filter (fun r => decide (r.state = .running) || (decide (r.state = .waiting) && decide (r.stalled ≠ 0)))
  if run.any (fun r => r.starved b) && run.all (fun r => r.stuck s b) then mostEntries (b.rays.filter (fun r => !r.state.ended)) else none

/-- STACK_SPILL (R365): the fullest ray spills a block, or raises FLT_TRAV where its overflow area is full. -/
def execEvStackSpill (id : Nat) (s : State) : Res :=
  match batchOf s id with
  | none => .next s
  | some b => match spiller s b with
    | none => .next s
    | some r =>
      if r.ovfN = r.ovfCap then .next (rayFault s b r .trav 0)
      else
        match spillBlock s (whoBatch b) r with
        | .error e => .next (ownErr s b r e)
        | .ok (s, r) => .next (setRay s id r)

end Sys2Proof.Machine
end

