-- ==== Sys2Proof/Machine/Preempt.lean ====
section
/-! DEFINITION. Saving: a unit, the commands and batches, a context on a die, and capture (R223, R283 to R285, R381 to R385). -/

namespace Sys2Proof.Machine

/-! ## Contexts on a die -/

/-- The units of a context on a die. -/
def ctxUnits (s : State) (die asid : Nat) : List Unit := s.units.filter (fun u => !u.isSup && decide (u.place.die = die ∧ u.ident.asid = asid))

/-! ## One unit (R223, R285, R379) -/

/-- Doom the transactions of a unit that is saved: cause conflict, not counted (R223). -/
def doomForSave (s : State) (p : Place) : State :=
  match s.unit? p with
  | none => s
  | some u =>
    let s := doomLanes s p u.txLanes 1
    s.modUnit p (fun x =>
      let x := { x with tx := x.tx.map (fun (q : Nat × LaneTx) => if u.txLanes.contains q.1 then (q.1, { q.2 with uncounted := true }) else q) }
      x.doomGo)

/-- What the dispatcher keeps of a saved unit. A swarm thread's or an MCC thread's launch has no prio (R279). stale: how many notifications of its counter
are queued already. -/
def savedUnit (u : Unit) (slot since : Nat) (fork : Option DWord) (stale : Nat) : Saved :=
  { asid := u.ident.asid, slot := slot, recIdx := u.ident.recIdx.getD 0, place := u.place, serial := u.ident.serial, engine := u.ident.engine,
    kind := quadKind (quadOf u.place.core), prio := if u.isWave then u.ident.prio else 0, regs := u.ident.regs, lds := u.ident.lds, fork := fork, stale := stale, forked := fork.isSome, captured := false, grid := u.ident.grid, since := since,
    unit := some u, cmds := [], batches := [], tokens := [] }

/-- The records of a unit's waiters are written anew in the waiter areas (R259). -/
def rewriteWaiters (s : State) (asid : Nat) (serial : Word) : State :=
  (List.range 4).foldl (fun s d =>
    ((s.die d).waiters.filter (fun w => decide (w.asid = asid ∧ w.serial = serial ∧ w.place.core < 240) && w.res.isNone)).foldl (fun s w => writeWaiter s d w) s) s

/-- A unit goes to its record and leaves the machine; it keeps its place in the dispatcher. -/
def saveUnit (s : State) (h : CtxHdr) (p : Place) (fork : Option DWord) : State :=
  let s := doomForSave s p
  match s.unit? p with
  | none => s
  | some u0 =>
    let s := dropJob s u0
    let u := (s.unit? p).getD u0
    let s := writeUnitRec s p.die (recVaOf h (u.ident.recIdx.getD 0)) u fork
    let s := rewriteWaiters (markWaiters s u.ident.asid u.ident.serial true) u.ident.asid u.ident.serial
    let s := s.modDisp p.die (fun d => { d with saved := d.saved ++ [savedUnit u h.slot s.seq fork (d.notes.countP (fun x => decide (x.1 = u.ident.asid ∧ some x.2 = fork)))] })
    { (dropQWaits s p).dropUnit p with seq := s.seq + 1 }

/-! ## Commands and batches (R381, R384 step 2) -/

/-- The unit record index of an issuer, resident or already saved. -/
def issuerRec (s : State) (die asid : Nat) (serial : Word) : Nat :=
  match s.units.find? (fun u => !u.isSup && decide (u.ident.asid = asid ∧ u.ident.serial = serial)) with
  | some u => u.ident.recIdx.getD 0
  | none => (((s.die die).disp.saved.find? (fun v => decide (v.asid = asid ∧ v.serial = serial))).map (·.recIdx)).getD 0

/-- The 512 bytes of a command entry. -/
def entryBytes (kind : Nat) (token : Fld) (scope state unit : Nat) (record : DWord) (lanes : LaneMask) (die quad : Nat) (rays : List Nat) : Nat :=
  packAt ([(0, kind), (1, token.toNat), (2, scope), (3, state), (4, unit), (8, record.toNat), (0x10, lanes.toNat), (0x1C, die * 256 + quad)] ++
    rays.zipIdx.map (fun (v, i) => (0x20 + 8 * i, v)))

def putEntry (s : State) (die asid : Nat) (e : Option Nat) (x : Nat) : State :=
  match ctxOf s die asid, e with
  | some h, some i => sysPut s (sysWho die asid) (cmdVaOf h i) 512 x
  | _, _ => s

def cmdStateCode (c : Cmd) : Nat :=
  match c.state with
  | .parked _ => 1
  | .frozen _ => 2
  | _ => 0

def saveCmd (s : State) (c : Cmd) : State :=
  putEntry s c.die c.asid c.entry (entryBytes 1 c.token c.scope (cmdStateCode c) (issuerRec s c.die c.asid c.serial) c.recVa c.lanes c.die c.quad [])

def Ray.isHeld (r : Ray) : Bool :=
  match r.state with
  | .held _ => true
  | _ => false

def saveBatch (s : State) (b : Batch) : State :=
  putEntry s b.die b.asid b.entry (entryBytes (if b.raster then 3 else 2) b.token b.scope (if b.rays.any Ray.isHeld then 3 else 0) (issuerRec s b.die b.asid b.serial) 0 b.lanes
    b.die b.quad (b.rays.map (fun r => if r.state = .stopped ∨ r.isHeld = true then r.recVa.toNat else 0)))

/-- A batch whose every ray has ended or is held. -/
def batchStill (b : Batch) : Bool := b.rays.all (fun r => r.state.ended || r.isHeld)

/-- The messages of a context leave the output buffers of a die's cores (R241). -/
def drainOuts (s : State) (die asid : Nat) : State :=
  (List.range 240).foldl (fun s c => drainOut s die c (fun it => decide (it.asid = asid))) s

/-- No ray of the context on a die still runs to its boundary, and the Flask can be written. -/
def stillOn (s : State) (die asid : Nat) : Bool := (s.batches.filter (fun b => decide (b.die = die ∧ b.asid = asid))).all batchStill && !deviceWaits s

/-- Commands and batches that have ended write their tokens; the others go to their entries (R384 step 2). Those are answered: they stay until the
units that issued them have been written with their pending tokens. -/
def saveCommands (s : State) (die asid : Nat) : State × List Cmd × List Batch :=
  let s := (s.cmds.filter (fun c => !c.sup && decide (c.die = die ∧ c.asid = asid))).foldl (fun s c => match c.state with | .done k => finishCmd s c k | _ => s) s
  let s := (s.batches.filter (fun b => decide (b.die = die ∧ b.asid = asid) && batchOver b)).foldl (fun s b => finishBatch s b (batchCode b)) s
  let mineC (c : Cmd) : Bool := !c.sup && decide (c.die = die ∧ c.asid = asid)
  let mineB (b : Batch) : Bool := decide (b.die = die ∧ b.asid = asid)
  let (cs, bs) := (s.cmds.filter mineC, s.batches.filter mineB)
  (bs.foldl saveBatch (cs.foldl saveCmd s), cs, bs)

/-! ## A context on a die (R384) -/

/-- Mark the rays of a context on a die to stop at their next boundaries (R373). -/
def stopRays (s : State) (die asid : Nat) : State :=
  { s with batches := s.batches.map (fun b => if b.die = die ∧ b.asid = asid then { b with stopping := true } else b) }

/-- Steps 1 to 5 of R384, once nothing of the context still runs to its boundary. -/
def saveContext (s : State) (die : Nat) (h : CtxHdr) : State :=
  let asid := h.asid
  let (s, cs, bs) := saveCommands (drainOuts s die asid) die asid
  let s := (ctxUnits s die asid).foldl (fun s u => saveUnit s h u.place none) s
  let s := { s with cmds := s.cmds.filter (fun c => !cs.any (fun x => decide (x.id = c.id))), batches := s.batches.filter (fun b => !bs.any (fun x => decide (x.id = b.id))) }
  let s := (List.range 60).foldl (fun s q => saveBins s die q h) s
  let s := saveTasks s die h
  let s := s.modDisp die (fun d => { d with
    saved := d.saved.map (fun v => if v.asid = asid then
      { v with cmds := v.cmds ++ cs.filter (fun c => decide (c.serial = v.serial)), batches := v.batches ++ bs.filter (fun b => decide (b.serial = v.serial)) } else v),
    slices := d.slices.filter (fun t => decide (t.slot ≠ h.slot)), hdrs := d.hdrs.map (fun x => if x.slot = h.slot then { x with fresh := true } else x) })
  (List.range 60).foldl (fun s q => saveResv (saveSlots s die q asid) die q asid) s

/-- The header of the slot that is pre-empted, and its rays told to stop. -/
def beginPre (s : State) (die slot : Nat) : State :=
  let s := if (hdrOfSlot s die slot).isNone then rereadCtx s die slot else s
  match hdrOfSlot s die slot with
  | some h => stopRays s die h.asid
  | none => s

/-- A pre-emption of a context slot begins (R283); a read of its header that a flip delays waits for PREEMPTION_COMPLETE (R298). -/
def startPre (s : State) (die slot : Nat) : State :=
  let s := s.modDisp die (fun d => { d with pre := some slot })
  if deviceWaits s then s else beginPre s die slot

/-- CTX_PRE (R283): ignored while a pre-emption is in progress. -/
def ctxPre (s : State) (die : Nat) (w : Word) : State :=
  if (s.die die).disp.pre.isSome then s else startPre (s.modRegs die (fun r => { r with ctxPreSlot := bits w 10 0 })) die (bits w 10 0)

def execEvCtxPre (die : Nat) (w : Word) (s : State) : Res := .next (ctxPre s die w)

/-- PREEMPTION_COMPLETE (R384): once every batch of the context has come to its boundaries, its cores' output buffers are drained of its messages (R241),
everything is saved and busy clears. -/
def execEvPreemptionComplete (die : Nat) (s : State) : Res :=
  match (s.die die).disp.pre with
  | none => .next s
  | some slot =>
    if deviceWaits s then .next s else
    let s := beginPre s die slot
    match hdrOfSlot s die slot with
    | none => .next (s.modDisp die (fun d => { d with pre := none }))
    | some h =>
      if stillOn s die h.asid then .next ((saveContext s die h).modDisp die (fun d => { d with pre := none })) else .next s

/-! ## Capture (R385) -/

/-- An empty core gives up what it holds of a context. -/
def emptyCore (s : State) (die core : Nat) : State :=
  let s := saveCoreBlock s die core
  let s := (s.core die core).l1.foldl (fun s l =>
    match (s.die die).l2.find? (fun x => sameLine x l && decide (x.owner = some core)) with
    | some x => (recallLine s die x).1
    | none => s) s
  (s.modCore die core (fun k => { k with l1 := [], owner := none, split := 0, lsUsed := false })).zeroRange (locLs die core 0) 524288

/-- The quad blocks and core blocks of a context on a die, written as if their owners changed. -/
def captureBlocks (s : State) (die asid : Nat) : State :=
  let s := (List.range 60).foldl (fun s q =>
    let o := (s.quad die q).chanOwner
    if bits o 15 0 = asid then (saveQuadBlock s die q asid).modQuad die q (fun k => { k with chanOwner := 0 }) else s) s
  (List.range 240).foldl (fun s c => if (s.core die c).owner = some asid then emptyCore s die c else s) s

/-- The dies on which the dispatcher holds a context of an ASID. -/
def diesOf (s : State) (asid : Nat) : List Nat := (List.range 4).filter (fun d => (ctxOf s d asid).isSome)

/-- CAPTURE (R385): the context is saved on every die, then its blocks; from then on it lives in its Flask alone. The event has its effect once
every ray of the context has stopped. -/
def execEvCapture (slot : Nat) (s : State) : Res :=
  match (List.range 4).filterMap (fun d => (hdrOfSlot s d slot).map (·.asid)) with
  | [] => .next s
  | asid :: _ =>
    let ds := diesOf s asid
    let s := ds.foldl (fun s d => stopRays s d asid) s
    if ds.all (fun d => stillOn s d asid) then
      let s := ds.foldl (fun s d => match ctxOf s d asid with | some h => saveContext s d h | none => s) s
      let s := ds.foldl (fun s d => captureBlocks s d asid) s
      .next (ds.foldl (fun s d => s.modDisp d (fun x => { x with saved := x.saved.map (fun v => if v.asid = asid then { v with captured := true } else v) })) s)
    else .next s

end Sys2Proof.Machine
end

