-- ==== Sys2Proof/Machine/Dispatcher.lean ====
section
/-! DEFINITION. The dispatcher: context headers, launch queues and records, dependences, conditions, grids and their completion, placement,
restoration, time slices, and FORK (R153, R262 to R275, R279, R283, R286, R386, R468). -/

namespace Sys2Proof.Machine

/-! ## Who reads (R262, R266, R270) -/

/-- The dispatcher reading what a context names: in user mode, without an L1 (log entry 25). -/
def dispWho (die asid : Nat) : Who := { sysWho die asid with sup := false }

/-- The packet of a launch dispatch or completion decrement that meets a fault (R270, R468): no unit issued it and it has no quad, so place and serial are
0 and it goes to supervisor core 0 (log entry 109). -/
def dispPacket (s : State) (die asid : Nat) (c : Cause) (va detail : DWord) : State :=
  sendPacket s die 0 { cause := c, halted := false, tx := false, asid := asid, imm := 0, kind := 6, place := 0, serial := 0, pc := 0, va := va, unfinished := 0, detail := detail }

/-! ## Doorbells (R266) -/

def addBell (s : State) (die slot prio : Nat) : State :=
  s.modDisp die (fun d => { d with bells := if d.bells.contains (slot, prio) then d.bells else d.bells ++ [(slot, prio)] })
def dropBell (s : State) (die slot prio : Nat) : State := s.modDisp die (fun d => { d with bells := d.bells.filter (fun b => decide (b ≠ (slot, prio))) })

/-! ## Saved units in a context's Flask (R386) -/

/-- The command that a Flask entry holds (R381); its op is that of its record (log entry 27). -/
def cmdOfEntry (s : State) (v : Saved) (cclass i x : Nat) : Cmd :=
  let va := fieldAt x 8 8
  { id := s.seq, die := fieldAt x 0x1C 4 / 256 % 4, quad := fieldAt x 0x1C 4 % 64, issuer := v.place, serial := v.serial, sup := false, asid := v.asid, cclass := cclass, grid := v.grid,
    token := BitVec.ofNat 8 (fieldAt x 1 1), lanes := BitVec.ofNat 96 (fieldAt x 0x10 12), scope := fieldAt x 2 1 % 8, op := sysGet s (dispWho 0 v.asid) (va + 4) 2,
    recVa := BitVec.ofNat 64 va, state := if fieldAt x 3 1 = 1 then .parked .page else if fieldAt x 3 1 = 2 then .frozen .prot else .running, img := none, tdesc := 0, next := 0,
    src := 0, dst := 0, srcHalf := none, dstHalf := none, contribs := [], entry := some i }

/-- The batch that a Flask entry holds. In state 3 its rays are held (R372); the entry does not say with which fault: FLT_PAGE (log entry 27). -/
def batchOfEntry (s : State) (v : Saved) (cclass i x : Nat) : Batch :=
  let lanes : LaneMask := BitVec.ofNat 96 (fieldAt x 0x10 12)
  let vas := (List.range 32).map (fun j => fieldAt x (0x20 + 8 * j) 8)
  { id := s.seq, die := fieldAt x 0x1C 4 / 256 % 4, quad := fieldAt x 0x1C 4 % 64, issuer := v.place, serial := v.serial, pc := 0, asid := v.asid, grid := v.grid,
    token := BitVec.ofNat 8 (fieldAt x 1 1), lanes := lanes, scope := fieldAt x 2 1 % 8, raster := decide (fieldAt x 0 1 = 3),
    rays := ((lanesOf lanes).zip vas).filterMap (fun (l, a) => if a = 0 then none else some { newRay l (BitVec.ofNat 64 a) true with state := if fieldAt x 3 1 = 3 then .held .page else .waiting }),
    cancelled := false, stopping := false, cclass := cclass, entry := some i }

/-- The commands and batches that a context's entries hold for a unit record. -/
def entriesOf (s : State) (die : Nat) (h : CtxHdr) (v : Saved) (cclass : Nat) : List Cmd × List Batch :=
  let xs := (List.range h.ccap).filterMap (fun i =>
    let x := sysGet s (sysWho die h.asid) (h.cmds.toNat + 512 * i) 512
    if fieldAt x 0 1 ≠ 0 ∧ fieldAt x 4 4 = v.recIdx then some (i, x) else none)
  ((xs.filter (fun (_, x) => decide (fieldAt x 0 1 = 1))).zipIdx.map (fun ((i, x), k) => { cmdOfEntry s v cclass i x with id := s.seq + k }),
   (xs.filter (fun (_, x) => decide (fieldAt x 0 1 = 2 ∨ fieldAt x 0 1 = 3))).zipIdx.map (fun ((i, x), k) => { batchOfEntry s v cclass i x with id := s.seq + h.ccap + k }))

/-- The saved unit that a record describes. -/
def savedOfRec (s : State) (h : CtxHdr) (i x : Nat) : Saved :=
  let pw : Word := BitVec.ofNat 32 (fieldAt x 0x14 4)
  { asid := h.asid, slot := h.slot, recIdx := i, place := pwPlace pw, serial := BitVec.ofNat 32 (fieldAt x 0xC 4),
    engine := if fieldAt x 0 1 = 1 then .wave else if fieldAt x 0 1 = 2 then .swarm else .mcc, kind := fieldAt x 7 1 % 4,
    prio := if fieldAt x 0 1 = 1 then fieldAt x 7 1 / 4 % 8 else 0,
    regs := fieldAt x 3 1, lds := fieldAt x 6 1, fork := if (fieldAt x 2 1).testBit 3 then some (BitVec.ofNat 64 (fieldAt x 0x28 8)) else none,
    forked := (fieldAt x 2 1).testBit 3, captured := false, grid := none, since := s.seq, unit := none, cmds := [], batches := [], tokens := [], stale := 0 }

/-- The captured unit of a record that this package still knows, with the die that keeps it. -/
def capturedOf (s : State) (v : Saved) : Option (Nat × Saved) :=
  (List.range 4).foldl (fun acc d => match acc with
    | some x => some x
    | none => ((s.die d).disp.saved.find? (fun x => x.captured && decide (x.asid = v.asid ∧ x.recIdx = v.recIdx ∧ x.serial = v.serial))).map (fun x => (d, x))) none

/-- The package holds a unit, running or saved on some die. -/
def knownUnit (s : State) (v : Saved) : Bool :=
  s.units.any (fun u => !u.isSup && decide (u.ident.asid = v.asid ∧ u.ident.serial = v.serial)) ||
  s.dies.any (fun d => d.disp.saved.any (fun x => !x.captured && decide (x.asid = v.asid ∧ x.serial = v.serial)))

/-- The counters that a die watches (R271): those of heads and of units that FORK suspended; a captured unit has left the die. -/
def watches (s : State) (die : Nat) : List (Nat × DWord) :=
  let d := (s.die die).disp
  dedup ((d.heads.filter (fun h => !h.ready && !h.held)).map (fun h => (h.asid, h.rec_.dep)) ++
    (d.saved.filter (fun v => !v.captured)).filterMap (fun v => v.fork.map (fun f => (v.asid, f))))

/-- A die can watch one more counter, or watches this one already: at most 256 (R271). -/
def canWatch (s : State) (die asid : Nat) (va : DWord) : Bool := (watches s die).contains (asid, va) || decide ((watches s die).length < 256)

/-- One record of the Flask: a saved unit there waits for placement on this die; with whether the record stays in the Flask, because the die watches as many
counters as it can. -/
def adoptRec (s : State) (die : Nat) (h : CtxHdr) (i : Nat) : State × Bool :=
  let x := sysGet s (sysWho die h.asid) (recVaOf h i) 256
  if fieldAt x 0 1 = 0 ∨ 3 < fieldAt x 0 1 ∨ ¬([3, 4, 5, 6, 7, 9].contains (fieldAt x 1 1) = true) then (s, false)
  else
    let v := savedOfRec s h i x
    if knownUnit s v then (s, false)
    else if !v.fork.all (canWatch s die h.asid) then (s, true)
    else
      match capturedOf s v with
      | some (d, y) =>
        let s := s.modDisp d (fun k => { k with saved := k.saved.filter (fun z => decide (z ≠ y)) })
        (s.modDisp die (fun k => { k with saved := k.saved ++ [{ y with captured := false, slot := h.slot }] }), false)
      | none =>
        let (cs, bs) := entriesOf s die h v (fieldAt x 7 1 / 32 % 4)
        let s := s.modDisp die (fun k => { k with saved := k.saved ++ [{ v with cmds := cs, batches := bs }] })
        ({ s with seq := s.seq + 2 * h.ccap + 1 }, false)

/-- A context whose grids, waves and saved units the dispatcher handles on a die now: its slot is one of the table's (R262). -/
def eligible (s : State) (die : Nat) (h : CtxHdr) : Bool := decide (h.slot < ctxCount s die) && h.runs && h.dies.getLsbD die && !preempting s die h.asid

/-- Every saved unit and every task that the Flask of a context holds for the die, once after the context has become eligible or has been saved (R257,
R386). -/
def adoptSaved (s : State) (die : Nat) (h : CtxHdr) : State :=
  if eligible s die h && h.fresh && !deviceWaits s then
    let r := (List.range h.ucap).foldl (fun (r : State × Bool) i => let x := adoptRec r.1 die h i; (x.1, r.2 || x.2)) (s, false)
    (loadTasks r.1 die h).modDisp die (fun d => { d with hdrs := d.hdrs.map (fun x => if x.slot = h.slot then { x with fresh := r.2 } else x) })
  else s

def adoptAll (s : State) (die : Nat) : State := (s.die die).disp.hdrs.foldl (fun s h => adoptSaved s die h) s

/-- The dispatcher reads a context header (R264). -/
def readHeader (s : State) (die slot : Nat) : State :=
  let s := rereadCtx s die slot
  (hdrOfSlot s die slot).elim s (fun h => adoptSaved s die h)

/-- LQ_BELL (R264, R266, R268, R270, R468): an acquire at system scope; the header is read and the queue is due for examination; reads and decrements
that a fault held for this queue are tried again. -/
def ringBell (s : State) (die : Nat) (w : Word) : State :=
  let slot := bits w 12 3
  let prio := bits w 2 0
  let s := readHeader (bumpGen s die) die slot
  let mine (h : Head) : Bool := decide (h.slot = slot ∧ h.prio = prio)
  let s := s.modDisp die (fun d => { d with heads := (d.heads.filter (fun h => !(mine h && h.held && !h.ready))).map (fun h => if mine h then { h with held := false } else h) })
  let s := { s with grids := s.grids.map (fun g => if (g.die = die ∨ g.last = die) ∧ g.slot = slot ∧ g.qprio = prio then { g with held := none } else g) }
  if ctxCount s die ≤ slot then s else addBell s die slot prio

/-- The reads of a doorbell that comes while a flip is in progress wait for it (R298). -/
def lqBell (s : State) (die : Nat) (w : Word) : State := if deviceWaits s then waitReg s die 0 0xC9 w else ringBell s die w

/-- A package in the hold state accepts no doorbell (R423). -/
def execEvLqBell (die : Nat) (w : Word) (s : State) : Res := .next (if s.pkg.phase = .hold then s else lqBell s die w)

/-! ## Launch records (R269, R270) -/

def recOf (x : Nat) : LRec :=
  let d (off : Nat) : DWord := BitVec.ofNat 64 (fieldAt x off 8)
  let ctl := fieldAt x 0x3C 4
  { entry := d 0, karg := d 8, dep := d 0x10, done := d 0x18, cond := d 0x20, footprint := d 0x28, waves := fieldAt x 0x30 4, kstride := fieldAt x 0x34 4,
    asid := fieldAt x 0x38 2, regs := fieldAt x 0x3A 1, lds := fieldAt x 0x3B 1, cclass := ctl / 32 % 4, prio := ctl / 4 % 8, kind := ctl % 4 }

/-- The ranges and alignments of R269, and the reserved bits. -/
def recFieldsOk (x asid : Nat) : Bool :=
  let r := recOf x
  decide (r.entry.toNat % 4 = 0 ∧ r.entry.toNat < 2 ^ 57 ∧ r.karg.toNat % 4 = 0 ∧ r.dep.toNat % 4 = 0 ∧ r.done.toNat % 4 = 0 ∧ r.cond.toNat % 4 = 0) &&
  decide (1 ≤ r.waves ∧ r.kstride % 64 = 0 ∧ r.asid = asid ∧ 1 ≤ r.regs ∧ r.regs ≤ 128 ∧ r.lds ≤ 6 ∧ r.kind ≠ 3 ∧ fieldAt x 0x3C 4 < 128)

/-- Whether a counter or predicate lies in translated device memory of the own package (R270). -/
def counterOk (s : State) (die asid : Nat) (va : DWord) : Except Err (State × Bool) :=
  if va = 0 then .ok (s, true)
  else if !translatedVa va.toNat then .ok (s, false)
  else
    match translate s die asid va.toNat with
    | .error (.flt c _) => .error (.flt c va)
    | .error e => .error e
    | .ok (s, x) => .ok (s, ownDevice s (x.pa + va.toNat % 2 ^ x.size))

/-- The ranges of a footprint record as (source VA, bytes); none when a check of R258 fails (R256). -/
def fpRanges (va x : Nat) : Option (List (Nat × Nat)) :=
  let n := fieldAt x 0 4
  let rs := (List.range (min n 4)).map (fun i => (fieldAt x (8 + 16 * i) 8, fieldAt x (0x10 + 16 * i) 4))
  let bad (i : Nat) : Bool := decide (fieldAt x (0x10 + 16 * i) 4 = 0 ∨ 65536 < fieldAt x (0x10 + 16 * i) 4 ∨ fieldAt x (0x14 + 16 * i) 4 ≠ 0)
  if va % 8 ≠ 0 ∨ 4 < n ∨ fieldAt x 4 4 ≠ 0 ∨ (List.range (min n 4)).any bad = true then none else some rs

def fpTotal (rs : List (Nat × Nat)) : Nat := rs.foldl (fun n r => n + alignUp r.2 128) 0

/-- A footprint record of a launch: whether it holds. -/
def launchFpOk (s : State) (die asid lds : Nat) (va : DWord) : Except Err (State × Bool) :=
  if va = 0 then .ok (s, true)
  else if va.toNat % 8 ≠ 0 then .ok (s, false)
  else
    match sysRead s (dispWho die asid) va.toNat 72 with
    | .error e => .error e
    | .ok (s, x) => .ok (s, match fpRanges va.toNat x with | some rs => decide (fpTotal rs ≤ lds * 65536) | none => false)

/-- All the checks of a record that need memory. -/
def recMemOk (s : State) (die asid : Nat) (r : LRec) : Except Err (State × Bool) :=
  match counterOk s die asid r.dep with
  | .error e => .error e
  | .ok (s, a) =>
    match counterOk s die asid r.done with
    | .error e => .error e
    | .ok (s, b) =>
      match counterOk s die asid r.cond with
      | .error e => .error e
      | .ok (s, c) =>
        match launchFpOk s die asid r.lds r.footprint with
        | .error e => .error e
        | .ok (s, d) => .ok (s, a && b && c && d)

/-- A record read and checked: none when it is invalid. -/
def readRec (s : State) (w : Who) (die asid va : Nat) : Except Err (State × Option LRec) :=
  if va % 64 ≠ 0 then .ok (s, none)
  else
    match load s w va 64 with
    | .error e => .error e
    | .ok (s, x) =>
      if recFieldsOk x asid then (recMemOk s die asid (recOf x)).map (fun (s, ok) => (s, if ok then some (recOf x) else none)) else .ok (s, none)

/-! ## Taking a head (R266, R267, R271) -/

def newHead (slot prio asid : Nat) (va : DWord) (r : LRec) (ready held : Bool) (since : Nat) : Head :=
  { slot := slot, prio := prio, recVa := va, rec_ := r, asid := asid, ready := ready, since := since, held := held }

def putHead (s : State) (die : Nat) (h : Head) : State := { s.modDisp die (fun d => { d with heads := d.heads ++ [h] }) with seq := s.seq + 1 }

/-- A read of the dispatch met a fault: the queue waits at the entry (R270). -/
def holdHead (s : State) (die : Nat) (h : Head) (e : Err) : State :=
  match e with
  | .wait _ => s
  | .flt c va => dispPacket (putHead s die { h with held := true, ready := false }) die h.asid c va h.recVa

/-- The record at head: checked, watched, and its dependence read (R271). -/
def examineRec (s : State) (die : Nat) (h : CtxHdr) (prio : Nat) (va : DWord) : State :=
  let w := dispWho die h.asid
  let hd := newHead h.slot prio h.asid va (recOf 0) false false s.seq
  match readRec s w die h.asid va.toNat with
  | .error e => holdHead s die hd e
  | .ok (s, none) => dropBell (stopQueue s die h.slot prio 2 va.toNat) die h.slot prio
  | .ok (s, some r) =>
    let hd := { hd with rec_ := r }
    if r.dep = 0 then putHead s die { hd with ready := true }
    else if !canWatch s die h.asid r.dep then s
    else
      match sysRead s w r.dep.toNat 4 with
      | .error e => holdHead s die hd e
      | .ok (s, x) => putHead s die { hd with ready := decide (x = 0) }

def headOf (s : State) (die slot prio : Nat) : Option Head := (s.die die).disp.heads.find? (fun x => decide (x.slot = slot ∧ x.prio = prio))

def dropHead (s : State) (die slot prio : Nat) : State :=
  s.modDisp die (fun d => { d with heads := d.heads.filter (fun x => decide (¬(x.slot = slot ∧ x.prio = prio))) })

/-- What an examination of a queue finds before it reads the entry at head: a queue that it can take from, or a queue that is at rest, stopped where its
block is out of range or its ring overrun (R266 to R268). -/
def openQueue (s : State) (die slot prio : Nat) : State × Option LQueue :=
  let q := readQueue s die slot prio
  if !q.enabled then (s, none)
  else if !q.blockOk then (stopQueue s die slot prio 3 0, none)
  else if 2 ^ q.lsize < q.count then (stopQueue s die slot prio 4 0, none)
  else if q.count = 0 then (s, none)
  else (s, some q)

/-- An entry that was read before is examined again (R266, R267): whether it still stands at head. A record VA written over it replaces it. -/
def recheck (s : State) (die : Nat) (hd : Head) : State × Bool :=
  match openQueue s die hd.slot hd.prio with
  | (s, none) => (dropBell (dropHead s die hd.slot hd.prio) die hd.slot hd.prio, false)
  | (s, some q) =>
    if hd.held then (s, false)
    else
      match sysRead s (dispWho die hd.asid) (q.entryVa q.head) 8 with
      | .error (.wait _) => (s, false)
      | .error (.flt c va) => (dispPacket (s.modDisp die (fun d => { d with heads := d.heads.map (fun x => if x = hd then { x with held := true } else x) })) die hd.asid c va hd.recVa, false)
      | .ok (s, va) => if va = hd.recVa.toNat then (s, true) else (addBell (dropHead s die hd.slot hd.prio) die hd.slot hd.prio, false)

/-- LAUNCH_QUEUE_TAKE: the dispatcher examines a queue that is due (R264, R266, R267). The entry at head stays in its ring until CONDITION_READ. A fault on
the read of the entry itself, before any record VA is known, holds the queue as one on a record does, with detail 0 (DESIGN CHOICE, log entry 125). -/
def execEvLaunchQueueTake (die slot prio : Nat) (s : State) : Res :=
  if ctxCount s die ≤ slot ∨ 8 ≤ prio ∨ deviceWaits s = true then .next s
  else
    let s := if (hdrOfSlot s die slot).isNone then readHeader s die slot else adoptAll s die
    match hdrOfSlot s die slot with
    | none => .next s
    | some h =>
      if !eligible s die h || !(s.die die).disp.bells.contains (slot, prio) then .next s
      else
        match headOf s die slot prio with
        | some hd => .next (match recheck s die hd with | (s, true) => dropBell s die slot prio | (s, false) => s)
        | none =>
          match openQueue s die slot prio with
          | (s, none) => .next (dropBell s die slot prio)
          | (s, some q) =>
            match sysRead s (dispWho die h.asid) (q.entryVa q.head) 8 with
            | .error e => .next (holdHead s die (newHead slot prio h.asid 0 (recOf 0) false false s.seq) e)
            | .ok (s, 0) => .next (dropBell s die slot prio)
            | .ok (s, va) => .next (examineRec s die h prio (BitVec.ofNat 64 va))

/-- A release write or RMW at die scope or wider has been performed at a physical address: a queue whose tail word or ring entry at head it is, is
due for examination (R266); so is a queue whose control block a flip keeps from being read now (R298). -/
def relNotice (s : State) (pa : Nat) : State :=
  let at_ (d asid va : Nat) : Bool :=
    if 2 ^ 56 ≤ va then decide (va % 2 ^ 53 / 8 = pa / 8)
    else match translate s d asid va with
      | .ok (_, x) => decide ((x.pa + va % 2 ^ x.size) / 8 = pa / 8)
      | .error _ => false
  (List.range 4).foldl (fun s d => (s.die d).disp.hdrs.foldl (fun s h => (List.range 8).foldl (fun s p =>
    let q := readQueue s d h.slot p
    let hidden := deviceWaits s && (match sysRead s (ctxWho s d) (lqVa s d h.slot p) 64 with | .error (.wait _) => true | _ => false)
    if hidden || q.enabled && (at_ d (ctxWho s d).asid (lqVa s d h.slot p + 0x18) || at_ d h.asid (q.entryVa q.head)) then addBell s d h.slot p else s) s) s) s

/-! ## Completion of a grid (R19, R271, R468) -/

def setGrid (s : State) (g : Grid) : State := { s with grids := s.grids.map (fun x => if x.id = g.id then g else x) }

/-- Every wave has exited and every command has written its token (R19). -/
def gridOver (s : State) (g : Grid) : Bool :=
  decide (g.next = g.waves) && !s.units.any (fun u => decide (u.ident.grid = some g.id)) && !s.cmds.any (fun c => decide (c.grid = some g.id)) &&
  !s.batches.any (fun b => decide (b.grid = some g.id)) && !s.dies.any (fun d => d.disp.saved.any (fun v => decide (v.grid = some g.id)))

/-- The grid has completed: generations rise, and a counter that fell to 0 is notified on every die. -/
def gridDone (s : State) (g : Grid) (zero : Bool) : State :=
  let s := g.ran.foldl bumpGen s
  let s := { s with grids := s.grids.filter (fun x => decide (x.id ≠ g.id)) }
  if zero then { s with dies := s.dies.map (fun d => { d with disp := { d.disp with notes := d.disp.notes ++ [(g.asid, g.done)] } }) } else s

/-- The decrement of the completion counter, with what follows it, or its hold, on the die on which the grid's last wave has exited (R468). -/
def finishGrid (s : State) (g : Grid) : State :=
  let w := dispWho g.last g.asid
  if g.done = 0 then gridDone (release s w 2) g false
  else
    match rmw (release s w 2) w 2 g.done.toNat 4 (fun x => (x + 2 ^ 32 - 1) % 2 ^ 32) with
    | .error (.flt c va) => dispPacket (setGrid s { g with held := some c }) g.last g.asid c va g.recVa
    | .error (.wait _) => s
    | .ok (s, old) => gridDone s g (decide (old = 1))

/-- GRID_COMPLETION: once per grid, when it is over. -/
def execEvGridCompletion (grid : Nat) (s : State) : Res :=
  match s.grids.find? (fun g => decide (g.id = grid)) with
  | none => .next s
  | some g => .next (if gridOver s g && g.held.isNone && !deviceWaits s then finishGrid s g else s)

/-- DEPENDENCE_NOTIFICATION: the heads and FORK-suspended units of the ASID that wait on the counter are released (R271, R279). -/
def execEvDependenceNotification (die asid : Nat) (va : DWord) (s : State) : Res :=
  if !(s.die die).disp.notes.contains (asid, va) || deviceWaits s then .next s
  else
    let ready (h : Head) : Head := if h.asid = asid ∧ h.rec_.dep = va ∧ h.ready = false ∧ h.held = false then { h with ready := true, since := s.seq } else h
    let mine (v : Saved) : Bool := decide (v.asid = asid ∧ v.fork = some va)
    -- a notification that was queued before the FORK does not resume the unit (R153)
    let woken := (s.die die).disp.saved.filter (fun v => mine v && decide (v.stale = 0))
    let s := s.modDisp die (fun d => { d with
      notes := d.notes.erase (asid, va), heads := d.heads.map ready,
      saved := d.saved.map (fun v => if mine v then (if v.stale = 0 then { v with fork := none, since := s.seq } else { v with stale := v.stale - 1 }) else v) })
    let s := woken.foldl (fun s v => match unitRecVa s die asid v.recIdx with
      | some r => sysPut (sysPut s (sysWho die asid) (r + 1) 1 7) (sysWho die asid) (r + 2) 1 (sysGet s (sysWho die asid) (r + 2) 1 % 8)
      | none => s) s
    .next { s with seq := s.seq + 1 }

/-! ## The condition (R272, R273) -/

/-- The ready head that a dispatcher takes next (R273). Of two of one slot with equal record prio that became ready together, the one examined first (DESIGN
CHOICE, log entry 125). -/
def bestHead (s : State) (die : Nat) : Option Head :=
  let ok (h : Head) : Bool := h.ready && !h.held && (match hdrOfSlot s die h.slot with | some x => eligible s die x | none => false)
  let before (a b : Head) : Bool := decide (a.rec_.prio < b.rec_.prio ∨ (a.rec_.prio = b.rec_.prio ∧ (a.since < b.since ∨ (a.since = b.since ∧ a.slot < b.slot))))
  ((s.die die).disp.heads.filter ok).foldl (fun b h => match b with | none => some h | some x => if before h x then some h else some x) none

def gridsOn (s : State) (die : Nat) : List Grid := s.grids.filter (fun g => decide (g.die = die))

/-- The record leaves its queue (R266, R272). -/
def takeHead (s : State) (die : Nat) (h : Head) : State :=
  let q := readQueue s die h.slot h.prio
  let s := sysPut s (dispWho die h.asid) (q.entryVa q.head) 8 0
  let s := sysPut s (ctxWho s die) (lqVa s die h.slot h.prio + 0x10) 4 ((q.head + 1) % 2 ^ 32)
  let s := s.modDisp die (fun d => { d with heads := d.heads.filter (fun x => decide (x ≠ h)) })
  addBell s die h.slot h.prio

/-- The grid that a record becomes. -/
def gridOf (s : State) (die : Nat) (h : Head) (waves : Nat) : Grid :=
  let r := h.rec_
  { id := s.seq, die := die, last := die, fpDone := [], slot := h.slot, qprio := h.prio, asid := h.asid, recVa := h.recVa, entry := r.entry, karg := r.karg, kstride := r.kstride, done := r.done,
    footprint := r.footprint, waves := waves, next := 0, regs := r.regs, lds := r.lds, cclass := r.cclass, prio := r.prio, kind := r.kind, since := s.seq, ran := [],
    held := none }

/-- CONDITION_READ: the queue, whose dependence is satisfied, is examined again (R266); the predicate is read once; the grid becomes active, or completes
with no waves. -/
def execEvConditionRead (die slot prio : Nat) (s : State) : Res :=
  match bestHead s die with
  | none => .next s
  | some h =>
    if h.slot ≠ slot ∨ h.prio ≠ prio ∨ 64 ≤ (gridsOn s die).length ∨ deviceWaits s = true then .next s
    else match recheck s die h with
    | (s, false) => .next s
    | (s, true) =>
      let go (s : State) (nonzero : Bool) : State :=
        let s := takeHead s die h
        let g := gridOf s die h (if nonzero then h.rec_.waves else 0)
        let s := { s with grids := s.grids ++ [g], seq := s.seq + 1 }
        if nonzero then s else finishGrid s g
      if h.rec_.cond = 0 then .next (go s true)
      else
        match sysRead s (dispWho die h.asid) h.rec_.cond.toNat 4 with
        | .error (.wait _) => .next s
        | .error (.flt c va) =>
          let s := s.modDisp die (fun d => { d with heads := d.heads.map (fun x => if x = h then { x with held := true } else x) })
          .next (dispPacket s die h.asid c va h.recVa)
        | .ok (s, x) => .next (go s (decide (x ≠ 0)))

/-! ## Placement on a core (R171, R274, R275) -/

/-- The core as the master of a footprint copy. -/
def coreWho (die core asid cclass : Nat) : Who :=
  { die := die, quad := quadOf core, core := some core, asid := asid, sup := false, cclass := cclass, ls := some core, tile := true, acc := false, phys := false, me := none }

/-- Read the ranges of a footprint, with the local-store offset of each. -/
def readRanges (s : State) (w : Who) : Nat → List (Nat × Nat) → Except Err (State × List (Nat × Nat × Nat))
  | _, [] => .ok (s, [])
  | off, (va, n) :: rs =>
    match load s w va n with
    | .error e => .error e
    | .ok (s, v) =>
      match readRanges s w (off + alignUp n 128) rs with
      | .error e => .error e
      | .ok (s, xs) => .ok (s, (off, n, v) :: xs)

def writeRanges (s : State) (die core base : Nat) (xs : List (Nat × Nat × Nat)) : State :=
  xs.foldl (fun s (off, n, v) => s.wr (locLs die core (base + off)) n v) s

/-- A gated core begins to power up; what needs it waits (R431). -/
def startWake (s : State) (die core : Nat) : State := s.modCore die core (fun k => { k with waking := if k.gated then k.waking.or (some (nowOf s die)) else none })

/-- A core takes a unit of an ASID and split (R171). -/
def enterCore (s : State) (die core asid lds : Nat) : State :=
  (takeCore s die core asid lds).modCore die core (fun k => { k with lsUsed := k.lsUsed || decide (lds ≠ 0) })

/-- A unit of a context comes to a die: with the first, the context's slice starts (R283) and what its Flask holds for the die comes back. A context that had
left the die with its slice unexpired starts a whole one (DESIGN CHOICE, log entry 125). -/
def startSlice (s : State) (die slot asid : Nat) : State :=
  let now := nowOf s die
  let first := (ctxUnits s die asid).isEmpty
  let s := if first then comeBack s die asid else s
  s.modDisp die (fun d => { d with
    slices := if first || !d.slices.any (fun t => decide (t.slot = slot)) then { slot := slot, started := now } :: d.slices.filter (fun t => decide (t.slot ≠ slot)) else d.slices,
    behind := d.behind.filter (fun a => decide (a ≠ asid)) })

/-- What the first wave of a grid on a core copies: the ranges of the grid's footprint (R275); nothing where the core has copied them. -/
def footReads (s : State) (g : Grid) (die core : Nat) : Except Err (State × List (Nat × Nat × Nat)) :=
  if g.footprint = 0 ∨ g.fpDone.contains (die, core) = true then .ok (s, [])
  else
    match sysRead s (dispWho die g.asid) g.footprint.toNat 72 with
    | .error e => .error e
    | .ok (s, x) => readRanges s (coreWho die core g.asid g.cclass) 0 ((fpRanges g.footprint.toNat x).getD [])

/-- A grid has a wave on a core of a die: it runs there (R19) and its footprint has been copied (R275). -/
def Grid.placedOn (g : Grid) (die core : Nat) : Grid :=
  { g with ran := if g.ran.contains die then g.ran else g.ran ++ [die], fpDone := if g.fpDone.contains (die, core) then g.fpDone else g.fpDone ++ [(die, core)] }

/-- What the placement of a wave reads: its argument block and, the first time on a core, its footprint (R270, R275). -/
def waveReads (s : State) (g : Grid) (core : Nat) : Except Err (State × List Word × List (Nat × Nat × Nat)) :=
  match (if g.karg = 0 then .ok (s, 0) else sysRead s (dispWho g.die g.asid) (g.karg.toNat + g.next * g.kstride) 64) with
  | .error e => .error e
  | .ok (s, ks) => (footReads s g g.die core).map (fun (s, xs) => (s, wordsOf 16 ks, xs))

/-- The core that the next wave of a grid goes to (R274). -/
def waveCore (s : State) (g : Grid) : Option Nat :=
  if g.next < g.waves ∧ g.held.isNone = true then pickCore s g.die ((coresOfKind g.kind).filter (fun c => waveFits s g.die c g.asid g.lds g.regs)) else none

/-- Place the next wave of a grid; none when it cannot be placed now. -/
def placeWave' (s : State) (g : Grid) : Option State :=
  match waveCore s g with
  | none => none
  | some c =>
    match pickSlot s g.die c with
    | none => none
    | some sl =>
      match takeRec s g.die g.asid 1 with
      | none => none
      | some (s1, ri) =>
        if (s.core g.die c).gated then some (startWake s g.die c) else
        -- the launch's acquire comes before anything is read for the wave (R193, R204)
        let s2 := acquire (enterCore s1 g.die c g.asid g.lds) (coreWho g.die c g.asid g.cclass) 2
        match waveReads s2 g c with
        | .error (.wait _) => none
        | .error (.flt cause va) => some (dispPacket (setGrid s { g with held := some cause }) g.die g.asid cause va g.recVa)
        | .ok (s, ks, xs) =>
          let p : Place := { die := g.die, core := c, unit := sl }
          let s := writeRanges s g.die c 0 xs
          let s := startSlice s g.die g.slot g.asid
          let s := addUnit s p .wave g.asid (fun u => { u with
            ident := { u.ident with entry := g.entry, regs := g.regs, lds := g.lds, prio := g.prio, cclass := g.cclass, kind := quadKind (quadOf c), grid := some g.id, origin := g.recVa, recIdx := some ri },
            regs := { u.regs with k := wordMap id ks }, slices := waveSlices g.entry (fun _ => true) })
          some (setGrid s { g.placedOn g.die c with next := g.next + 1 })

/-! ## Restoration (R153, R274, R279, R286, R386) -/

/-- The commands and batches on a quad, against the 16 command slots and 4 batch slots (R228, R335). -/
def batchesIn (s : State) (die quad : Nat) : Nat := s.batches.countP (fun b => decide (b.die = die ∧ b.quad = quad))

/-- The commands and batches of a saved unit find slots: its raster batches on the quads whose tile memory they use, the others anywhere on the die
(R228, R335, R373). -/
def roomFor (s : State) (die : Nat) (v : Saved) : Bool :=
  let free (n : Nat → Nat) (cap : Nat) : Nat := (List.range 60).foldl (fun a q => a + (cap - n q)) 0
  v.batches.all (fun b => !b.raster || decide (batchesIn s die b.quad + v.batches.countP (fun x => x.raster && decide (x.quad = b.quad)) ≤ 4)) &&
  (v.batches.isEmpty || decide (v.batches.length ≤ free (batchesIn s die) 4)) && (v.cmds.isEmpty || decide (v.cmds.length ≤ free (cmdsOn s die) 16))

/-- The record of a saved unit can be read now (R298). -/
def recOpen (s : State) (die : Nat) (v : Saved) : Bool :=
  !deviceWaits s && (ctxOf s die v.asid).elim false (fun h => (sysRead s (sysWho die v.asid) (recVaOf h v.recIdx) 1).isOk)

/-- Where the slots, registers and cores of a die take a saved unit, among the cores that a predicate picks (R274, R283). -/
def fitSaved (s : State) (die : Nat) (v : Saved) (pick : Nat → Bool) : Option Place :=
  let free (c : Nat) : Bool := coreTakes s die c v.asid v.lds && !(s.core die c).stop && pick c
  match v.engine with
  | .wave =>
    match pickCore s die ((coresOfKind v.kind).filter (fun c => free c && waveFits s die c v.asid v.lds v.regs)) with
    | none => none
    | some c => (pickSlot s die c).map (fun sl => { die := die, core := c, unit := sl })
  | .swarm =>
    match pickCore s die ((coresOfKind v.kind).filter (fun c => free c && (freeThread s die c).isSome)) with
    | none => none
    | some c => (freeThread s die c).map (fun t => { die := die, core := c, unit := 0x40 + t })
  | _ =>
    let q0 := quadOf v.place.core
    let qs := (if v.forked then (List.range 60).filter (fun q => decide (quadKind q = v.kind)) else [q0]).filter (fun q => free (4 * q) && (freeMcc s die q).isSome)
    match qs with
    | [] => none
    | q :: _ => (freeMcc s die q).map (fun t => { die := die, core := 4 * q, unit := 0xC0 + t })

/-- Where a saved unit can be placed now: its record, its command slots, its quad's block and an MCC thread's saved slots allow it too (R228, R334, R335,
R386). -/
def savedPlace (s : State) (die : Nat) (v : Saved) : Option Place :=
  if !recOpen s die v || !roomFor s die v then none
  else fitSaved s die v (fun c => !quadBlockValid s die (c / 4) v.asid &&
    (decide (v.engine ≠ .mcc) || decide (slotsSaved s die (c / 4) v.asid ≤ ((s.quad die (c / 4)).slots.filter (·.isNone)).length)))

/-- The waiter records of a restored unit: linked ones are no longer marked saved and name its new place; released ones go, their values given (R216). -/
def rejoinWaiters (s : State) (asid : Nat) (serial : Word) (p : Place) : State :=
  let mine (w : Waiter) : Bool := decide (w.asid = asid ∧ w.serial = serial ∧ w.place.core < 240)
  rewriteWaiters ((List.range 4).foldl (fun s d => s.modDie d (fun x => { x with
    waiters := (x.waiters.filter (fun w => !(mine w && w.res.isSome))).map (fun w => if mine w then { w with saved := false, place := p } else w) })) s) asid serial

/-- Messages saved for a unit are delivered to its inbox while there is room (R252); not while its core is stopped (R421). -/
def deliverSaved (s : State) (p : Place) : Nat → State
  | 0 => s
  | f + 1 =>
    match s.unit? p with
    | none => s
    | some u =>
      match u.book.saved with
      | [] => s
      | ws :: rest =>
        if u.book.inbox.words.length + ws.length ≤ inboxDepth u.engine && !(s.core p.die p.core).stop then
          let it : Item := { die := p.die, pkg := ownPkg s, core := p.core, unit := p.unit, serial := u.ident.serial, asid := u.ident.asid, words := ws }
          deliverSaved (enterInbox (s.modUnit p (fun u => u.modBook (fun b => { b with saved := rest }))) u it) p f
        else s

/-- A quad of a die with a free command slot, the unit's own first. -/
def quadWithRoom (die quad : Nat) (used : Nat → Nat → Nat) (cap : Nat) : Nat :=
  ((quad :: List.range 60).find? (fun q => decide (used die q < cap))).getD quad

/-- A saved command is issued again (R231, R386): it begins from its record's progress index, and keeps the halves that its handle references have
bound (R236). -/
def reissueCmd (s : State) (p : Place) (c : Cmd) : State :=
  let q := quadWithRoom p.die (quadOf p.core) (cmdsOn s) 16
  { s with cmds := s.cmds ++ [{ c with die := p.die, quad := q, issuer := p, img := none, tdesc := 0 }] }

/-- A saved batch is issued again as TRSM of the same records (R373, R386). -/
def reissueBatch (s : State) (p : Place) (b : Batch) : State :=
  let q := if b.raster then b.quad else quadWithRoom p.die (quadOf p.core) (batchesIn s) 4
  let again (r : Ray) : Ray := if r.state = .stopped then newRay r.lane r.recVa true else r
  { s with batches := s.batches ++ [{ b with die := p.die, quad := q, issuer := p, stopping := false, rays := b.rays.map again }] }

/-- A saved unit takes its place: its core, what its Flask holds for the die, its record. A unit that comes from another die finds no copy there that is
older than what it has read (R197). -/
def putBack (s : State) (die : Nat) (h : CtxHdr) (v : Saved) (p : Place) (g : Option Grid) (xs : List (Nat × Nat × Nat)) : State :=
  let va := recVaOf h v.recIdx
  let w := sysWho die v.asid
  let s := writeRanges s die p.core 0 xs
  let s := match g with | some g => setGrid s (g.placedOn die p.core) | none => s
  let s := startSlice s die h.slot v.asid
  let s := if v.engine = .mcc then loadSlots s die (quadOf p.core) v.asid else s
  let u := readUnitRec s die va p v
  let s := rejoinWaiters s v.asid v.serial p
  let s := s.modDisp die (fun d => { d with saved := d.saved.filter (fun x => decide (x.recIdx ≠ v.recIdx ∨ x.asid ≠ v.asid)) })
  let s := sysPut (sysPut s w (va + 1) 1 1) w (va + 0x58) 4 0
  let f : Forward := { asid := v.asid, place := v.place, serial := v.serial }
  let s := { s with units := s.units ++ [u], forwards := if s.forwards.contains f then s.forwards else s.forwards ++ [f] }
  let s := v.cmds.foldl (fun s c => reissueCmd s p c) s
  let s := (v.batches.filter (·.raster) ++ v.batches.filter (fun b => !b.raster)).foldl (fun s b => reissueBatch s p b) s
  deliverSaved s p 64

/-- Restore a saved unit at a place; a wave that is its grid's first there waits for the footprint copy (R275). FORK's resumption is an acquire at die
scope (R153). -/
def restoreUnit (s : State) (die : Nat) (h : CtxHdr) (v : Saved) (p : Place) : State :=
  if (s.core die p.core).gated then startWake s die p.core else
  let g := v.grid.bind (fun i => s.grids.find? (fun g => decide (g.id = i)))
  let s := acquire (enterCore s die p.core v.asid v.lds) (coreWho die p.core v.asid ((g.map (·.cclass)).getD 0)) 2
  let s := if v.place.die = die then s else bumpGen s die
  match g with
  | none => putBack s die h v p none []
  | some g =>
    match footReads s g die p.core with
    | .error (.wait _) => s
    | .error (.flt c va) => dispPacket (setGrid s { g with held := some c }) die g.asid c va g.recVa
    | .ok (s, xs) => putBack s die h v p (some g) xs

/-- A grid whose placement waits for the service of a fault (R270). -/
def gridHeld (s : State) (g : Option Nat) : Bool := g.elim false (fun i => s.grids.any (fun g => decide (g.id = i) && g.held.isSome))

/-- The saved unit of lowest prio that can be placed, earliest first among equals. -/
def bestSaved (s : State) (die : Nat) (pick : Nat → Bool) : Option (Saved × Place) :=
  let ok := (s.die die).disp.saved.filterMap (fun v =>
    if v.fork.isNone && !v.captured && pick v.asid && !gridHeld s v.grid && (match hdrOfSlot s die v.slot with | some h => eligible s die h | none => false) then (savedPlace s die v).map (fun p => (v, p)) else none)
  ok.foldl (fun b x => match b with
    | none => some x
    | some y => if x.1.prio < y.1.prio ∨ (x.1.prio = y.1.prio ∧ x.1.since < y.1.since) then some x else some y) none

def gridEligible (s : State) (die : Nat) (g : Grid) : Bool := match hdrOfSlot s die g.slot with | some h => eligible s die h | none => false

/-- The active grid of lowest prio whose next wave can be placed, the one that became active first among equals. -/
def bestGrid (s : State) (die : Nat) (pick : Nat → Bool) : Option Grid :=
  ((gridsOn s die).filter (fun g => pick g.asid && gridEligible s die g && (waveCore s g).isSome)).foldl (fun b g => match b with
    | none => some g
    | some x => if g.prio < x.prio ∨ (g.prio = x.prio ∧ g.since < x.since) then some g else some x) none

/-- Place one unit of the contexts that a predicate picks; none when there is nothing to place. -/
def placeOne (s : State) (die : Nat) (pick : Nat → Bool) : Option State :=
  match bestSaved s die pick with
  | some (v, p) => (hdrOfSlot s die v.slot).map (fun h => restoreUnit s die h v p)
  | none => (bestGrid s die pick).bind (fun g => placeWave' s g)

/-- The core of its quad and the unit on which a bin can launch now; none where no header of its context is held, none fits, or no record is free. -/
def binCore (s : State) (die quad : Nat) (b : Bin) : Option (CtxHdr × Nat × Nat) :=
  match ctxOf s die b.asid with
  | none => none
  | some h =>
    if !b.launches || !eligible s die h || deviceWaits s then none
    else
      match pickCore s die ([0, 1, 2, 3].map (fun i => 4 * quad + i) |>.filter (fun c => waveFits s die c b.asid b.lds b.regs)) with
      | none => none
      | some c => if (takeRec s die b.asid 1).isSome then (pickSlot s die c).map (fun sl => (h, c, sl)) else none

/-- Some bin of a die launches now: it takes its core ahead of the dispatcher (R277). -/
def binDue (s : State) (die : Nat) : Bool :=
  s.quads.any (fun (x : Nat × Quad) => decide (x.1 / 60 = die) && x.2.bins.any (fun b => (binCore s die (x.1 % 60) b).isSome))

def notePlaced (s : State) (die : Nat) : State := s.modDisp die (fun d => { d with placed := true })

/-- PLACEMENT (R274): one unit in each clock; the contexts whose slices expired stand behind the others, in the order in which they expired (R283). -/
def execEvPlacement (die : Nat) (s : State) : Res :=
  let s := adoptAll s die
  if (s.die die).disp.placed || binDue s die || deviceWaits s then .next s
  else
    let behind := (s.die die).disp.behind
    match placeOne s die (fun a => !behind.contains a) with
    | some s => .next (notePlaced s die)
    | none => .next ((behind.findSome? (fun b => placeOne s die (fun a => decide (a = b)))).elim s (fun s => notePlaced s die))

/-! ## Time slices (R283) -/

/-- Whether another run-state context has a grid or saved unit that the die has no slots, registers or core for. -/
def othersWait (s : State) (die asid : Nat) : Bool :=
  (gridsOn s die).any (fun g => decide (g.asid ≠ asid ∧ g.next < g.waves ∧ g.held.isNone = true) && gridEligible s die g && (waveCore s g).isNone) ||
  (s.die die).disp.saved.any (fun v => decide (v.asid ≠ asid) && v.fork.isNone && !v.captured &&
    (match hdrOfSlot s die v.slot with | some h => eligible s die h | none => false) && (fitSaved s die v (fun _ => true)).isNone)

/-- The bins of a context that was pre-empted time and launch again, although none of its units has come back: it is eligible, and does not stand behind
another context that waits (R277, R283). -/
def wakeContexts (s : State) (die : Nat) : State :=
  (s.die die).disp.hdrs.foldl (fun s h =>
    if eligible s die h && !((s.die die).disp.behind.contains h.asid && othersWait s die h.asid) then (List.range 60).foldl (fun s q => wakeBins s die q h.asid) s else s) s

/-- SLICE_EXPIRY: at the end of its slice a context is pre-empted, or its slice restarts. -/
def execEvSliceExpiry (die slot : Nat) (s : State) : Res :=
  match (s.die die).disp.slices.find? (fun t => decide (t.slot = slot)), hdrOfSlot s die slot with
  | some t, some h =>
    let now := nowOf s die
    if (ctxUnits s die h.asid).isEmpty then .next (s.modDisp die (fun d => { d with slices := d.slices.filter (fun x => decide (x.slot ≠ slot)) }))
    else if h.slice = 0 ∨ (now - t.started).toNat < h.slice * 1000 ∨ (s.die die).disp.pre.isSome = true ∨ deviceWaits s = true then .next s
    else
      let s := readHeader s die slot
      if othersWait s die h.asid then
        .next ((startPre s die slot).modDisp die (fun d => { d with behind := if d.behind.contains h.asid then d.behind else d.behind ++ [h.asid] }))
      else .next (s.modDisp die (fun d => { d with slices := d.slices.map (fun x => if x.slot = slot then { x with started := now } else x) }))
  | _, _ => .next s

/-! ## FORK (R153, R279) -/

/-- Put a record into the queue of its prio of the die's own context slot: the tail is claimed and the entry filled (R266, R279). It waits while the
ring is full, and meets the faults of those accesses with nothing written. -/
def forkEnqueue (s : State) (die : Nat) (h : CtxHdr) (prio : Nat) (va : DWord) : Except Err State :=
  let q := readQueue s die h.slot prio
  if 2 ^ q.lsize ≤ q.count then .error (.wait .structural)
  else
    match sysWrite s (dispWho die h.asid) (q.entryVa q.tail) 8 va.toNat with
    | .error e => .error e
    | .ok s =>
      match sysWrite s (ctxWho s die) (lqVa s die h.slot prio + 0x18) 4 ((q.tail + 1) % 2 ^ 32) with
      | .error e => .error e
      | .ok s => .ok (addBell s die h.slot prio)

/-- The messages that a unit has sent leave its core's output buffer, which is drained before a save completes (R241). -/
def drainOwn (s : State) (u : Unit) : State :=
  drainOut s u.place.die u.place.core (fun it => decide (it.asid = u.ident.asid ∧ it.words.getD 2 0 = senderWord s u ∧ it.words.getD 3 0 = senderSerial u))

/-- The record is enqueued and the unit waits for its completion counter, with the issuing gang past the FORK. -/
def forkUnit (s : State) (iss : Issue) (va : DWord) : Run :=
  let u := iss.u
  let die := u.place.die
  let s := needCtx s die u.ident.asid
  match ctxOf s die u.ident.asid with
  | none => .error (.wait .structural iss.lanes s)
  | some h =>
    match readRec s (whoOf s u (iss.lanes.headD 0)) die u.ident.asid va.toNat with
    | .error e => .error (e.stop iss.lanes s)
    | .ok (s', none) => .error (.flt (faultVa .operand va) iss.lanes s')
    | .ok (s, some r) =>
      -- a die watches at most 256 counters (R271)
      if deviceWaits s || !canWatch s die u.ident.asid r.done then .error (.wait .structural iss.lanes s)
      else
        match releaseTickets s u u.tickets with
        | (s, some e) => .error (ticketStop e iss.lanes s)
        | (s, none) =>
          match forkEnqueue (release s (whoOf s u 0) 2) die h r.prio va with
          | .error e => .error (e.stop iss.lanes s)
          | .ok s =>
            let s := if u.isWave then recordShared (countPass s iss) iss 0 else s
            .ok (saveUnit (complete (drainOwn s u) iss false) h u.place (some r.done))

def execFork (a : Fld) (s : State) : Res :=
  let oa := if curIsWave s then (src a .pair).must .uniform else src a .pair
  frame s { engines := .notSup, unlogged := true, opds := [oa], perGang := true, always := curIsWave s } (fun iss s0 =>
    if iss.u.isWave && (iss.shared.isSome || iss.lanes.isEmpty) then .ok (countPass s0 iss)
    else
      let (s, vs) := readAllOpds s0 iss.u false (iss.lanes.take 1) [oa]
      let va := BitVec.ofNat 64 ((col vs 0).headD 0)
      if va.toNat % 64 ≠ 0 then .error (.flt (faultVa .align va) iss.lanes s0) else forkUnit s iss va)

end Sys2Proof.Machine
end

