-- ==== Sys2Proof/Machine/Tasks.lean ====
section
/-! DEFINITION. Spawn-bin launches, dispatch of CALLAT tasks, gang promotion and the rejoining of gangs (R140, R155, R256 to R258, R276 to R278, R280, R428). -/

namespace Sys2Proof.Machine

/-! ## Spawn bins (R277, R278) -/

/-- BIN_TIMER_EXPIRY: a filling bin whose timer has reached its template's value launches. -/
def execEvBinTimerExpiry (die quad bin : Nat) (s : State) : Res :=
  let b := (s.quad die quad).bins.getD bin Bin.reset
  if b.state = .filling ∧ b.timer ≤ b.elapsed then .next (s.modQuad die quad (fun q => { q with bins := setAt q.bins bin { b with state := .launching } })) else .next s

/-- The v words and predicates of a lane made from a thread record (R151, R152). A migrated lane's are in its migration slot. -/
def recLane (s : State) (die asid : Nat) (r : ThreadRec) : List Word × BitVec 8 :=
  match r.mig, ctxOf s die asid with
  | some i, some h =>
    let x := sysGet s (sysWho die asid) (migSlotVa h i) 322
    (wordsOf 80 x, BitVec.ofNat 8 (fieldAt x 320 1))
  | _, _ => (r.v, r.p)

/-- The registers of a wave that a bin launches (R54). -/
def binRegs (b : Bin) (lanes : List (List Word × BitVec 8)) : Regs :=
  { blankRegs with
    v := lanes.zipIdx.foldl (fun m ((vs, _), l) => (vs.take b.regs).zipIdx.foldl (fun m (x, i) => smSet 0 m (128 * l + i) x) m) [],
    k := wordMap id b.ks,
    p := (List.range 8).map (fun i => maskOf ((lanes.zipIdx.filter (fun (x, _) => x.2.getLsbD i)).map (·.2))),
    mode := b.mode }

/-- BIN_LAUNCH: a launching bin becomes a wave on a core of its quad where one fits; it takes the core ahead of the dispatcher (R277). -/
def execEvBinLaunch (die quad bin : Nat) (s : State) : Res :=
  let b := (s.quad die quad).bins.getD bin Bin.reset
  let s := needCtx s die b.asid
  match binCore s die quad b with
  | none => .next s
  | some (h, c, sl) =>
        match takeRec s die b.asid 1 with
        | some (s, ri) =>
          if (s.core die c).gated then .next (startWake s die c) else
          let s := enterCore s die c b.asid b.lds
          let p : Place := { die := die, core := c, unit := sl }
          let lanes := b.recs.map (recLane s die b.asid)
          let n := b.recs.length
          let s := startSlice s die h.slot b.asid
          let s := addUnit s p .wave b.asid (fun u => { u with
            ident := { u.ident with entry := b.entry, regs := b.regs, lds := b.lds, prio := b.prio, cclass := b.cclass, kind := quadKind quad, origin := h.bintab + BitVec.ofNat 64 (128 * b.tindex), recIdx := some ri },
            regs := binRegs b lanes, slices := waveSlices b.entry (fun l => decide (l < n)),
            tickets := b.recs.zipIdx.filterMap (fun (r, l) => r.ticket.map (fun t => (l, t))) })
          let s := b.recs.foldl (fun s r => match r.mig with | some i => freeMigSlot s die b.asid i | none => s) s
          let s := s.modQuad die quad (fun q => { q with bins := setAt q.bins bin Bin.reset })
          let s := startActivation s p 1 b.entry (BitVec.ofNat 32 (bin * 65536 + b.tindex % 65536))
          .next (acquire s (coreWho die c b.asid b.cclass) 1)
        | none => .next s

/-! ## Tasks (R155, R256 to R258, R428) -/

/-- Where a queue's tasks run: the die, the core whose ASID, split and local store count, and that core's quad. -/
def TaskQ.die : TaskQ → Nat
  | .core d _ => d
  | .mcc d _ => d
  | .sup d _ => d

def TaskQ.coreNo : TaskQ → Nat
  | .core _ c => c
  | .mcc _ q => 4 * q
  | .sup _ i => 240 + i

/-- The placement word that a refusal carries (R251). -/
def refuserWord (s : State) (q : TaskQ) : Word :=
  match q with
  | .sup d i => placeWord { die := d, core := 240 + i, unit := 0 } (ownPkg s)
  | .core d c => BitVec.ofNat 32 (ownPkg s * 2 ^ 18 + d * 2 ^ 16 + c * 2 ^ 8 + 0xF0)
  | .mcc d i => BitVec.ofNat 32 (ownPkg s * 2 ^ 18 + d * 2 ^ 16 + 4 * i * 2 ^ 8 + 0xF1)

/-- The refusal of a task: a message of kind 2 with a cause (R258). -/
def refuseTask (s : State) (q : TaskQ) (t : Task) (c : Cause) : State :=
  sendItem s q.die q.coreNo (itemTo t.callerPlace t.callerSerial t.asid
    (messageWords 2 t.tag (refuserWord s q) 0 (nowOf s q.die) [BitVec.ofNat 32 c.code, 0, 0, 0]))

def dropTask (s : State) (q : TaskQ) (i : Nat) : State := modTasks s q (fun ts => ts.eraseIdx i)

/-- A fault of a dispatch: the task is parked or frozen in its queue, and the supervisor is told (R258). A dispatch that starts again and meets the same
fault at the same address is still parked with it; another fault is told anew. The packet of a supervisor core's own queue goes to the next supervisor
core, as those of its threads do (log entry 109). -/
def holdTask (s : State) (q : TaskQ) (i : Nat) (t : Task) (fp : Nat) (e : Err) : State :=
  match e with
  | .wait _ => s
  | .flt c va =>
    let s := modTasks s q (fun ts => modAt ts i (fun x => { x with held := some c, heldVa := va, frozen := decide (c.response ≠ 0) }))
    if t.held = some c ∧ t.heldVa = va then s
    else
      let sc := if q.coreNo < 240 then quadOf q.coreNo % 4 else (q.coreNo - 240 + 1) % 4
      sendPacket s q.die sc { cause := c, halted := false, tx := false, asid := t.asid, imm := 0, kind := 6, place := t.callerPlace, serial := t.callerSerial, pc := 0, va := va,
                              unfinished := 0, detail := BitVec.ofNat 64 fp }

/-- The thread that a task becomes (R54, R155). -/
def startTask (s : State) (t : Task) (p : Place) (e : Engine) (recIdx : Option Nat) : State :=
  let s := addUnit s p e t.asid (fun u => { u with
    ident := { u.ident with entry := t.entry, lds := t.lds, origin := t.entry, recIdx := recIdx, caller := some { place := t.callerPlace, serial := t.callerSerial, tag := t.tag } },
    regs := { u.regs with v := wordMap id (t.args.take 4) }, slices := threadSlices t.entry })
  startActivation s p 0 t.entry t.tag

/-- The footprint slot of a hardware thread (R256). -/
def slotBase (p : Place) (cfg : Word) : Nat := bits cfg 24 16 * 1024 + (placeWave p - 0x100) * (bits cfg 7 0 * 128)

/-- What a dispatch finds of a footprint. -/
inductive FpRead where
  | refused
  | fault (fp : Nat) (e : Err)
  | ranges (s : State) (xs : List (Nat × Nat × Nat))

/-- Read and check the footprint of a task for a thread (R257, R258). -/
def readFootprint (s : State) (w : Who) (t : Task) (p : Place) : FpRead :=
  match sysRead s w (t.entry - 8).toNat 8 with
  | .error e => .fault 0 e
  | .ok (s, 0) => .ranges s []
  | .ok (s, fp) =>
    if fp % 8 ≠ 0 then .refused
    else
      match load s w fp 72 with
      | .error e => .fault fp e
      | .ok (s, x) =>
        let cfg := (s.core p.die p.core).fpCfg
        match fpRanges fp x with
        | none => .refused
        | some rs =>
          if bits cfg 7 0 * 128 < fpTotal rs ∨ t.lds * 65536 < slotBase p cfg + bits cfg 7 0 * 128 then .refused
          else match readRanges s w 0 rs with
            | .error e => .fault fp e
            | .ok (s, xs) => .ranges s xs

/-- Dispatch task i of a core's or an MCC's queue to a free thread. -/
def dispatchTask (s : State) (q : TaskQ) (p : Place) (e : Engine) (i : Nat) (t : Task) : State :=
  if (s.core p.die p.core).gated then startWake s p.die p.core else
  let w : Who := { coreWho p.die p.core t.asid 0 with core := if e = .swarm then some p.core else none, acc := decide (e = .mcc) }
  let s0 := acquire (enterCore s p.die p.core t.asid t.lds) w (scopeAt w 0 t.scope)
  match readFootprint s0 w t p with
  | .refused => if outbufFull s p.die p.core then s else refuseTask (dropTask s0 q i) q t .operand
  | .fault fp x => holdTask s0 q i t fp x
  | .ranges s xs =>
    match takeRec s p.die t.asid (recKind e) with
    | none => s0
    | some (s, ri) =>
      let s := writeRanges s p.die p.core (slotBase p (s.core p.die p.core).fpCfg) xs
      let s := match ctxOf s p.die t.asid with | some h => startSlice s p.die h.slot t.asid | none => s
      let s := if e = .mcc then loadSlots s p.die (quadOf p.core) t.asid else s
      startTask (dropTask s q i) t p e (some ri)

/-- Dispatch a task of a supervisor core to an idle thread: it has no local store, so a footprint refuses it (R428). -/
def dispatchSup (s : State) (q : TaskQ) (p : Place) (i : Nat) (t : Task) : State :=
  let w : Who := { sysWho p.die (bits (s.die p.die).regs.supAsid 15 0) with quad := quadOf p.core, tile := true, acc := true, phys := true }
  let s0 := acquire s w (scopeAt w 0 t.scope)
  match load s0 w (t.entry - 8).toNat 8 with
  | .error e => holdTask s0 q i t 0 e
  | .ok (s, 0) => startTask (dropTask s q i) t p .sup none
  | .ok (s', _) => if outbufFull s p.die p.core then s else refuseTask (dropTask s' q i) q t .operand

/-- The oldest task that can be placed, with the thread it takes (R257). -/
def pickTask (s : State) (q : TaskQ) : Option (Nat × Task × Place) :=
  let (die, core) := (q.die, q.coreNo)
  let place : Option Place := match q with
    | .core d c => (freeThread s d c).map (fun t => { die := d, core := c, unit := 0x40 + t })
    | .mcc d i => (freeMcc s d i).map (fun t => { die := d, core := 4 * i, unit := 0xC0 + t })
    | .sup d i => (freeSup s d i).map (fun t => { die := d, core := 240 + i, unit := t })
  -- a thread of an MCC waits for the slots of its context that come back with it (R334)
  let slotsFit (t : Task) : Bool := match q with
    | .mcc d i => decide (slotsSaved s d i t.asid ≤ ((s.quad d i).slots.filter (·.isNone)).length)
    | _ => true
  let fits (t : Task) : Bool := !t.frozen && t.refusal.isNone && (decide (240 ≤ core) ||
    (coreTakes s die core t.asid t.lds && !(s.core die core).stop && !preempting s die t.asid && !deviceWaits s && slotsFit t))
  match place, (tasksOf s q).zipIdx.find? (fun (t, _) => fits t) with
  | some p, some (t, i) => some (i, t, p)
  | _, _ => none

/-- A task that the supervisor has told to go is refused once its core's output buffer has room for the refusal (R241, R258). -/
def payRefusal (s : State) (q : TaskQ) : Option State :=
  if outbufFull s q.die q.coreNo then none
  else ((tasksOf s q).zipIdx.find? (fun (t, _) => t.refusal.isSome)).map (fun (t, i) => refuseTask (dropTask s q i) q t (t.refusal.getD .operand))

/-- The headers of the contexts whose tasks wait in a queue have been read (R264, R334). -/
def needTaskCtxs (s : State) (q : TaskQ) : State :=
  if 240 ≤ q.coreNo then s else (tasksOf s q).foldl (fun s t => needCtx s q.die t.asid) s

/-- TASK_DISPATCH: one task of a queue starts, is refused, parked or frozen, or nothing can be placed. -/
def execEvTaskDispatch (die core : Nat) (mcc : Bool) (s : State) : Res :=
  let q : TaskQ := if 240 ≤ core then .sup die (core - 240) else if mcc then .mcc die (core / 4) else .core die core
  match payRefusal s q with
  | some s => .next s
  | none =>
    let s := if deviceWaits s then s else needTaskCtxs s q
    match pickTask s q with
    | none => .next s
    | some (i, t, p) =>
      match q with
      | .core _ _ => .next (dispatchTask s q p .swarm i t)
      | .mcc _ _ => .next (dispatchTask s q p .mcc i t)
      | .sup _ _ => .next (dispatchSup s q p i t)

/-! ## Promotion and rejoining (R140, R280) -/

/-- A gang whose wait count has reached 256 is promoted. -/
def promoteGang (s : State) (p : Place) (g : Nat) : State :=
  s.modUnit p (fun u =>
    if 256 ≤ smGet 0 u.book.gwait g ∧ ¬(u.book.promoted.contains g = true) then u.modBook (fun b => { b with promoted := b.promoted ++ [g] }) else u)

def execEvGangPromotion (p : Place) (gang : Nat) (s : State) : Res := .next (promoteGang s p gang)

/-- Every live slice is at the REGANG at one pc: the gangs are those of R18 again, in one strand, past the REGANG; slices that arrive at a join or end
a loop body there part (R18, R138, R142). -/
def rejoin (u : Unit) : Unit :=
  let gangs := u.gangs.length
  let lo := u.liveSlices.headD 0
  let slices := u.slices.zipIdx.map (fun (sl, i) =>
    if sl.live = 0 then sl else { Slice.arrive { sl.next with gang := i / 8 * 8, strand := lo } with atRegang := false, passes := [] })
  (fun v : Unit => Unit.normalise (v.gangs.foldl Unit.split v)) <| Unit.normalise { u with
    slices := slices, ctl := { u.ctl with done := 0, unfinished := 0, skipBp := [] },
    book := { u.book with held := [], modeSince := [], udone := [], stall := [], gwait := [], promoted := [], yielded := [], retired := u.book.retired + BitVec.ofNat 64 gangs } }

/-- The slices wait at REGANGs of different addresses: FLT_ILLEGAL at that of the lowest slice, with no waiting lane complete. -/
def regangFault (s : State) (u : Unit) : State :=
  let i := u.liveSlices.headD 0
  let lanes := lanesIn (fun j => (u.slice j).active) u.liveSlices
  let iss : Issue := { u := u, gang := (u.slice i).gang, slices := u.liveSlices, pc := (u.slice i).pc, lanes := lanes }
  let s := s.modUnit u.place (fun x => { x with slices := x.slices.map (fun sl => { sl with atRegang := false }) })
  takeFault s iss (fault .illegal) lanes

/-- REGANG_REJOIN: once every live slice of the wave waits at a REGANG. -/
def execEvRegangRejoin (p : Place) (s : State) : Res :=
  match s.unit? p with
  | none => .next s
  | some u =>
    let is := u.liveSlices
    if u.isWave = false ∨ u.ctl.run ≠ .ready ∨ is.isEmpty = true ∨ ¬(is.all (fun i => (u.slice i).atRegang) = true) then .next s
    else if is.all (fun i => decide ((u.slice i).pc = (u.slice (is.headD 0)).pc)) then .next (s.modUnit p rejoin)
    else .next (regangFault s u)

end Sys2Proof.Machine
end

