-- ==== Sys2Proof/Machine/Device.lean ====
section
/-! DEFINITION. The package and what is outside it: bring-up, the report, attestation, host and Olun requests, links, bias flips, time, power,
soft errors (R170, R295, R298, R299, R391, R402, R405, R422 to R435). -/

namespace Sys2Proof.Machine

def reply (s : State) (r : Reply) : State := { s with replies := s.replies ++ [r] }
def modPkg (s : State) (f : Pkg → Pkg) : State := { s with pkg := f s.pkg }

/-! ## Bring-up (R422, R424, R425, R428) -/

/-- The bytes that a signature covers, and whose hash the report gives (log entry 28). -/
def signedPart (i : Image) : List Byte := i.header ++ i.body

/-- Step 6 on an image: the failure code of R424, none when it passes (R425). -/
def imageFault (p : Pkg) (i : Image) : Option Nat :=
  match p.keys[i.slot]? with
  | none => some 6
  | some k =>
    if k.enrolled = false ∨ k.revoked = true ∨ i.key.length ≠ 48 ∨ sha256 i.key ≠ k.hash then some 6
    else if i.sig.length ≠ 16224 ∨ Config.slhVerify i.key (signedPart i) i.sig = false then some 7
    else if i.version < p.minVersion then some 8
    else none

/-- The step at which a bring-up stops, with the failure code. -/
def bringUpFault (p : Pkg) (b : BringUp) : Option (Nat × Nat) :=
  match b.failStep with
  | some k =>
    if 1 ≤ k ∧ k ≤ 5 then some (k, b.failCode.toNat)
    else match b.image with
      | none => some (6, 5)
      | some i => match imageFault p i with
        | some c => some (6, c)
        | none => if k = 6 ∨ k = 7 then some (k, b.failCode.toNat) else none
  | none => match b.image with
    | none => some (6, 5)
    | some i => (imageFault p i).map (fun c => (6, c))

/-- Everything in the package without power: the fuses, the schedule and what lies outside stay. -/
def powerCycle (s : State) : State :=
  { State.reset with
    agenda := s.agenda, freeCount := s.freeCount, seq := s.seq, replies := s.replies,
    mem := s.mem.filter (fun c => decide (c.1 < 2 ^ 53) && (paHost c.1 || decide (paPkg c.1 ≠ ownPkg s))),
    pkg := { Pkg.reset with keys := s.pkg.keys, minVersion := s.pkg.minVersion, pod := s.pkg.pod, silent := s.pkg.silent, hostTop := s.pkg.hostTop } }

/-- Thread 0 of a supervisor core starts at the image's entry (R428). -/
def startSup (s : State) (entry : DWord) (die sc : Nat) : State :=
  addUnit s { die := die, core := 240 + sc, unit := 0 } .sup 0 (fun u => { u with
    ident := { u.ident with origin := entry }, regs := { u.regs with k := wordMap id [BitVec.ofNat 32 die, BitVec.ofNat 32 sc] }, slices := threadSlices entry })

/-- Step 7: the package number, under which step 4 has left all HBM zero, the image in die 0's HBM, and the 16 supervisor threads. -/
def startFirmware (s : State) (b : BringUp) (i : Image) : State :=
  let s := (modPkg s (fun p => { p with
    phase := .running, booting := none, pkgNo := b.pkgNo, imgSlot := i.slot, imgVersion := i.version,
    report := { state := 0, step := 7, die := 0xFF, code := 0, unit := 0xFFFF, detail := 0, fwhash := sha256 (signedPart i) } })).zeroRange (b.pkgNo.toNat * 2 ^ 43) (2 ^ 43)
  let s := s.wrBytes (paOf s 0 i.place) i.body
  let entry : DWord := BitVec.ofNat 64 (2 ^ 56 + paOf s 0 (i.place + i.entry))
  (List.range 4).foldl (fun s d => (List.range 4).foldl (fun s c => startSup s entry d c) s) s

/-- POWER_ON: bring-up starts at step 1, from which on the management path answers (R422). -/
def execEvPowerOn (b : BringUp) (s : State) : Res :=
  .next (modPkg (powerCycle s) (fun p => { p with booting := some b, report := { p.report with step := 1 } }))

/-- The hold state after the failure of step k with code c (R423, R424). -/
def holdAt (s : State) (b : BringUp) (k c : Nat) : State :=
  let mine : Bool := decide (b.failStep = some k)
  let hash : BitVec 256 := match b.image with | some i => if 6 ≤ k then sha256 (signedPart i) else 0 | none => 0
  let all := decide (k = 1) && decide (b.failUnit = 0xFFFF)
  modPkg s (fun p => { p with
    phase := .hold, booting := none, cxlUp := !all, portsDown := if all then List.range 16 else [],
    report := { state := 1, step := BitVec.ofNat 8 k, die := if mine then b.failDie else 0xFF, code := BitVec.ofNat 8 c, unit := if mine then b.failUnit else 0xFFFF,
                detail := if mine then b.failDetail else 0, fwhash := hash } })

/-- The step of bring-up that is in progress ends: it fails, or the next one starts; the last one starts the firmware (R422). A step takes a main clock
(DESIGN CHOICE, log entry 128). -/
def advanceBoot (s : State) : State :=
  match s.pkg.booting with
  | none => s
  | some b =>
    let k := s.pkg.report.step.toNat
    let fails : Option Nat := match bringUpFault s.pkg b with | some (f, c) => if f = k then some c else none | none => none
    match fails, b.image with
    | some c, _ => holdAt s b k c
    | none, some i =>
      if 7 ≤ k then startFirmware s b i
      else modPkg s (fun p => { p with report := { p.report with step := BitVec.ofNat 8 (k + 1), fwhash := if k = 6 then sha256 (signedPart i) else 0 } })
    | none, none => modPkg s (fun p => { p with report := { p.report with step := BitVec.ofNat 8 (k + 1) } })

/-- The 64 bytes of the report (R424). -/
def reportBytes (r : Report) : List Byte :=
  bytesOf 64 (packAt [(0, 1), (2, r.state.toNat), (3, r.step.toNat), (4, r.die.toNat), (5, r.code.toNat), (6, r.unit.toNat), (8, r.detail.toNat), (0x10, r.fwhash.toNat)])

/-- The management path answers: it is reached through CXL or any Olun port (R422, R434). -/
def manageable (s : State) : Bool := s.pkg.cxlUp || decide (s.pkg.portsDown.length < 16)

/-- REPORT_QUERY: a query over Olun reaches the package through any port that is up (R423, R424, R434). -/
def execEvReportQuery (s : State) : Res := .next (reply s (if s.pkg.portsDown.length < 16 then .report (reportBytes s.pkg.report) else .silent))

/-- A CXL configuration-space read, which every phase answers (R422, R423) while the link is up; the spec does not give what that space holds, and the
offset asks for nothing that it states (log entry 128). -/
def configRead (_off : Nat) (s : State) : State :=
  if s.pkg.cxlUp then (let (s, x) := s.free; reply s (.reg x)) else reply s .silent

/-- ATTESTATION_REQUEST (R426): answered only while the package runs (R423). The layout of the report is log entry 29. -/
def execEvAttestationRequest (nonce : BitVec 256) (s : State) : Res :=
  if s.pkg.phase ≠ .running ∨ manageable s = false then .next (reply s .silent)
  else
    let m := bytesOf 32 nonce.toNat ++ bytesOf 32 s.pkg.report.fwhash.toNat ++ bytesOf 4 s.pkg.imgSlot ++ bytesOf 4 s.pkg.imgVersion.toNat ++ Config.identityCert
    .next (reply s (.attest (m ++ Config.identitySign m)))

/-! ## Host and Olun requests (R295, R298, R391, R423, R432) -/

/-- A byte range of own device memory meets an offset range of its die. -/
def meets (pa n lo size : Nat) : Bool := decide (0 < size ∧ paOff pa < lo + size ∧ lo < paOff pa + n)

/-- The regions that complete a host request with poison (R295, R432); an Olun request only the bias table and the RDC carve-out (R170). -/
def deniedRegion (s : State) (host : Bool) (pa n : Nat) : Bool :=
  let d := paDie pa
  let r := (s.die d).regs
  meets pa n 0 0x800000 || inRdc s pa || inRdc s (pa + n - 1) ||
  (host && (meets pa n (bits r.asidTab 19 0 * 2 ^ 21 % 2 ^ 41) (2 ^ 21) || meets pa n (bits r.travTab 19 0 * 2 ^ 21 % 2 ^ 41) (2 ^ 26) ||
    meets pa n (bits r.waiterCfg 31 12 * 2 ^ 21 % 2 ^ 41) (bits r.waiterCfg 11 0 * 2 ^ 21)))

/-- The die and the bit of port_frz of a port: none is the host (R391). -/
def portBit : Option Nat → Nat × Nat
  | none => (0, 0)
  | some p => (p / 4 % 4, 1 + p % 4)

def portFrozen (s : State) (src : Option Nat) : Bool := bit (s.die (portBit src).1).regs.portFrz (portBit src).2

/-- Read or write the lines of a request at their home, by physical address. -/
def physPieces (s : State) : List (Nat × Nat) → Option Nat → Option (State × Nat)
  | [], _ => some (s, 0)
  | (pa, n) :: ps, wr =>
    match wr with
    | some v =>
      match physWrite s pa n (v % 256 ^ n) with
      | .error _ => none
      | .ok s => physPieces s ps (some (v / 256 ^ n))
    | none =>
      match physRead s pa n with
      | .error _ => none
      | .ok v => (physPieces s ps none).map (fun (s, r) => (s, v + 256 ^ n * r))

/-- Serve a request now; none while its page is flipping. A write is taken in arrival order at the home. -/
def serveReq (s : State) (src : Option Nat) (r : MemReq) : Option State :=
  let denied := !(ownDevice s r.pa && ownDevice s (r.pa + r.n - 1)) || deniedRegion s src.isNone r.pa r.n
  if denied then some (reply s .poison)
  else if 2 ≤ biasOf s r.pa then none
  else if src.isSome ∧ biasOf s r.pa = 1 then some (reply s .parked)
  else
    match physPieces s (piecesOf r.pa r.n) (r.wr.map ofBytes) with
    | none => none
    | some (s, v) => some (reply s (if r.wr.isSome then .done else .data (bytesOf r.n v)))

/-- A request arrives: it waits for its port or page, or is served. A window address freezes the port (R166). -/
def acceptReq (s : State) (src : Option Nat) (r : MemReq) : State :=
  let wait : State := modPkg s (fun p => { p with heldReqs := p.heldReqs ++ [.req src r] })
  if portFrozen s src || s.pkg.heldReqs.any (fun x => x.leads s) then wait
  else if 2 ^ 53 ≤ r.pa then
    let (d, b) := portBit src
    let s := s.modRegs d (fun x => { x with portFrz := x.portFrz ||| BitVec.ofNat 32 (2 ^ b) })
    let pk : Packet := { cause := .window, halted := false, tx := false, asid := 0, imm := 0, kind := if src.isSome then 8 else 7, place := 0, serial := 0, pc := 0,
                         va := BitVec.ofNat 64 r.pa, unfinished := 0, detail := BitVec.ofNat 64 (src.getD 0) }
    reply (sendPacket s d 0 pk) .poison
  else (serveReq s src r).getD wait

/-- Try the waiting requests again, in arrival order; those behind an access of the device wait until that has been made. -/
def serveHeld (s : State) : State :=
  s.pkg.heldReqs.foldl (fun s x => match x with
    | .req src r => acceptReq s src r
    | _ => if x.alive s then modPkg s (fun k => { k with heldReqs := k.heldReqs ++ [x] }) else s)
    (modPkg s (fun p => { p with heldReqs := [] }))

def execEvHostRequest (r : MemReq) (s : State) : Res :=
  if !s.pkg.cxlUp then .next (reply s .silent)
  else if s.pkg.phase ≠ .running then .next (reply s .poison)
  else .next (acceptReq s none r)

def execEvOlunRequest (port : Nat) (r : MemReq) (s : State) : Res :=
  if s.pkg.portsDown.contains port || decide (16 ≤ port) || decide (s.pkg.phase ≠ .running) then .next (reply s .silent)
  else .next (acceptReq s (some port) r)

/-- FLIT_FAILURE (R434): the port is down from now on. -/
def execEvFlitFailure (port : Nat) (s : State) : Res :=
  .next (modPkg s (fun p => { p with portsDown := if p.portsDown.contains port || decide (16 ≤ port) then p.portsDown else p.portsDown ++ [port] }))

/-- SILENT_PACKAGE (R170): the package does not answer from now on. -/
def execEvSilentPackage (pkg : Nat) (s : State) : Res :=
  .next (modPkg s (fun p => { p with silent := if p.silent.contains pkg then p.silent else p.silent ++ [pkg] }))

/-! ## Flips to device bias (R299) -/

/-- BIRSP_ARRIVAL: the response for one 64-byte line, with a host write-back to merge; the last one ends the flip. line is its physical address / 64. -/
def execEvBirspArrival (line : Nat) (wb : Option (BitVec 512)) (s : State) : Res :=
  match s.flips.find? (fun f => f.left.contains line) with
  | none => .next s
  | some f =>
    let s := match wb with
      | some b => s.wr (64 * line) 64 b.toNat
      | none => s
    let left := f.left.filter (fun x => decide (x ≠ line))
    let s := { s with flips := s.flips.map (fun x => if x = f then { x with left := left } else x) }
    .next (if left.isEmpty then serveHeld (setBias s (4096 * f.page) 0) else s)

/-- The packet for a line whose response never came (R299). -/
def lostLine (s : State) (line : Nat) : State :=
  sendPacket s (paDie (64 * line)) 0 { cause := .ecc, halted := false, tx := false, asid := 0, imm := 0, kind := 9, place := 0, serial := 0, pc := 0,
                                       va := BitVec.ofNat 64 (64 * line), unfinished := 0, detail := 0 }

/-- CXL_LINK_DOWN: every flip that still collects ends with the bytes in HBM and the link-failure flag. -/
def execEvCxlLinkDown (s : State) : Res :=
  let s := modPkg s (fun p => { p with cxlUp := false })
  let open_ := s.flips.filter (fun f => !f.left.isEmpty)
  let s := open_.foldl (fun s f => f.left.foldl lostLine (setBias s (4096 * f.page) 0)) s
  .next (serveHeld { s with flips := s.flips.map (fun f => if f.left.isEmpty then f else { f with left := [], linkFail := true }) })

/-! ## Time (R402, R435) -/

/-- TIME_CORRECTION: a correction that the die applies by slewing. A die that has more than 4 ns to make up is outside the bound; the report of a running
package says so, and names a port, which the spec leaves open (R435; log entry 114). -/
def execEvTimeCorrection (die : Nat) (ns : Int) (s : State) : Res :=
  let s := s.modDie die (fun d => { d with slew := d.slew + ns })
  if s.pkg.phase = .running ∧ 4 < (s.die die).slew.natAbs then
    let (s, x) := s.free
    .next (modPkg s (fun p => { p with report := { p.report with state := 0, code := 1, unit := BitVec.ofNat 16 (x.toNat % 16) } }))
  else .next s

/-- Slew: one ns for every 1,000 ns that pass. -/
def Die.slewStep (d : Die) (dt : Nat) : Die :=
  let acc := d.slewAcc + dt
  if acc < 1000 then { d with slewAcc := acc }
  else
    let k : Int := if 0 < d.slew then 1 else if d.slew < 0 then -1 else 0
    { d with slewAcc := acc - 1000, slew := d.slew - k, time := d.time + BitVec.ofInt 64 k }

/-- One main clock on a die: 1,000 / clk ns of device time. -/
def Die.clock (d : Die) (clk : Nat) : Die :=
  let f := d.tfrac + 1000
  let dt := f / clk
  Die.slewStep { d with tfrac := f % clk, time := d.time + BitVec.ofNat 64 dt } dt

/-! ## Power (R430, R431) -/

/-- The limit in force, in W. -/
def powerLimit (p : Pkg) : Nat := min 2600 (max 1200 (bits p.pwrLim 11 0))

def execEvPowerMeasurement (draw : BitVec 12) (s : State) : Res :=
  .next (modPkg s (fun p =>
    let p := { p with draw := draw }
    if powerLimit p < draw.toNat then { p with clk := max 500 (p.clk - 10), calm := 0 }
    else if draw.toNat + 50 < powerLimit p then
      (if 10 ≤ p.calm + 1 then { p with clk := min 1050 (p.clk + 10), calm := 0 } else { p with calm := p.calm + 1 })
    else { p with calm := 0 }))

/-- The core is empty (R431): no resident unit, no task, and its core block has been written or its local store never used. -/
def coreIdle (s : State) (die core : Nat) : Bool :=
  let k := s.core die core
  (unitsOn s die core).isEmpty && k.tasks.isEmpty && (k.owner.isNone || !k.lsUsed)

/-- Write back and invalidate a core's L1. -/
def flushL1 (s : State) (die core : Nat) : State :=
  let s := (s.core die core).l1.foldl (fun s l =>
    match (s.die die).l2.find? (fun x => sameLine x l && decide (x.owner = some core)) with
    | some x => (recallLine s die x).1
    | none => s) s
  s.modCore die core (fun k => { k with l1 := [] })

/-- CORE_GATING: a core that has stayed empty for 100 µs loses power while ngate is 0. Its channels and its owner stay: gating never changes a result. -/
def execEvCoreGating (die core : Nat) (s : State) : Res :=
  let k := s.core die core
  if bit s.pkg.pwrLim 31 || k.gated || !coreIdle s die core || decide ((nowOf s die - k.emptySince).toNat < 100000) || decide (240 ≤ core) then .next s
  else .next ((flushL1 s die core).modCore die core (fun k => { k with gated := true, waking := none }))

/-- A core has powered up, with its L1 invalid and its local store zero. -/
def wakeCore (s : State) (die core : Nat) : State :=
  if (s.core die core).gated then (s.modCore die core (fun k => { k with gated := false, waking := none, l1 := [] })).zeroRange (locLs die core 0) 524288 else s

/-- CORE_WAKE: a core that powers up is ready, and what waits for it proceeds. -/
def execEvCoreWake (die core : Nat) (s : State) : Res := .next (if (s.core die core).waking.isSome then wakeCore s die core else s)

/-- The cores that have powered up for 2 µs are ready (R431; log entry 129). -/
def wakeDue (s : State) : State :=
  (s.cores.filter (fun x => x.2.waking.elim false (fun t => decide (2000 ≤ (nowOf s (x.1 / 240) - t).toNat)))).foldl (fun s x => wakeCore s (x.1 / 240) (x.1 % 240)) s

/-- Every gated core of the package wakes (R431). -/
def wakeAll (s : State) : State := (s.cores.map (·.1)).foldl (fun s k => startWake s (k / 240) (k % 240)) s

/-! ## Soft errors (R405, R429) -/

def countError (s : State) (e : ErrInfo) : State :=
  let up (r : Word) : Word := BitVec.ofNat 32 (e.kind.toNat * 2 ^ 28 + min (bits r 27 0 + 1) 0xFFFFFFF)
  s.modRegs e.die (fun r => if e.corrected then { r with seCorr := up r.seCorr } else { r with seUnc := up r.seUnc })

/-- A gang of a unit, as the issue at which a fault without an instruction of its own is taken. -/
def gangIssue (u : Unit) (g : Nat) : Issue :=
  let is := u.gangSlices g
  { u := u, gang := g, slices := is, pc := (u.slice (is.headD 0)).pc, lanes := actLanes u is true }

/-- The first gang of a unit. -/
def firstIssue (u : Unit) : Issue := gangIssue u ((u.slices.getD (u.liveSlices.headD 0) blankSlice)).gang

/-- A command that is done keeps its end; another one's access completes as FLT_ECC (R230, R429). -/
def eccCmd (s : State) (c : Cmd) (va : DWord) : State :=
  match c.state with
  | .done _ => s
  | _ => cmdFault s c .ecc va

/-- What the micro-instruction at which a ray stands reads: nothing, or memory, with whether it is a boundary (R350, R352 to R362). -/
def microReads (r : Ray) : Option Bool :=
  match (r.code[r.upc]?).bind decodeMicro with
  | some .uNfet => some true
  | some .uInst => some true
  | some .uEmit => some true
  | some .uTrit => if r.ncnt = 0 then none else some true
  | some .uPop => if r.tdepth ≠ r.base ∧ r.pool.isEmpty = true then some true else none
  | some .uDepz => some false
  | _ => none

/-- A ray whose access meets an uncorrectable error: on the unit's own access, a spill among them, it ends by R372; on a read of its micro-instruction it
stops by R371 at that instruction; one that reads nothing meets none, which is reported as an access of nobody. -/
def eccRay (s : State) (b : Batch) (r : Ray) (va : DWord) (report : State) : State :=
  match r.state with
  | .running =>
    if (spiller s b).any (fun x => decide (x.lane = r.lane)) then ownFault s b r .ecc va
    else match microReads r with
      | some boundary => rayFault s b (if boundary then r.atBoundary else r) .ecc va
      | none => report
  | .waiting | .closing _ => ownFault s b r .ecc va
  | _ => report

/-- A line with an uncorrectable error: it stays marked, and is never written back (R429). -/
def markBad (tag : Nat) (l : Line) : Line := if l.tag = tag then { l with bad := true } else l

/-- The decrement of a grid's counter meets an uncorrectable error: it is held and reported (R468). -/
def eccDecrement (s : State) (g : Grid) : State :=
  dispPacket (setGrid s { g with held := some .ecc }) g.last g.asid .ecc g.done g.recVa

/-- An uncorrectable error at what met it. -/
def uncorrected (s : State) (e : ErrInfo) : State :=
  let report : State := sendPacket s e.die 0 { cause := .ecc, halted := false, tx := false, asid := 0, imm := 0, kind := 9, place := 0, serial := 0,
                                               pc := 0, va := e.addr, unfinished := 0, detail := 0 }
  match e.met with
  | .unit p g => match s.unit? p with
    | some u => if (u.gangSlices g).isEmpty then report else takeFault s (gangIssue u g) (faultVa .ecc e.addr) (gangIssue u g).lanes
    | none => report
  | .cmd id => match s.cmds.find? (fun c => decide (c.id = id)) with
    | some c => eccCmd s c e.addr
    | none => report
  | .ray id l => match batchOf s id with
    | some b => match b.ray? l with
      | some r => eccRay s b r e.addr report
      | none => report
    | none => report
  | .decrement id => match s.grids.find? (fun g => decide (g.id = id)) with
    | some g => if gridOver s g && g.held.isNone && decide (g.done ≠ 0) then eccDecrement s g else report
    | none => report
  | .l1 core tag => s.modCore e.die core (fun k => { k with l1 := k.l1.map (markBad tag) })
  | .l2 tag => s.modDie e.die (fun d => { d with l2 := d.l2.map (markBad tag) })
  | .memory => report

/-- SOFT_ERROR: a corrected error is counted; an uncorrectable one is counted and raises FLT_ECC at the unit, command, ray or decrement that met it, stays
in the line that it struck until an access meets it, or is reported by the memory controller. -/
def execEvSoftError (e : ErrInfo) (s : State) : Res :=
  let s := if e.counted || !e.corrected then countError s e else s
  .next (if e.corrected then s else uncorrected s e)

end Sys2Proof.Machine
end

