-- ==== Sys2Proof/Machine/SysReg.lean ====
section
/-! DEFINITION. System registers, MFS and MTS (R49, R50, R157), supervisor actions (R388 to R390), debug windows (R51 to R53, R467), comparators
(R416 to R418) and precise stops (R419, R420). -/

namespace Sys2Proof.Machine

/-! ## User-readable registers (R50) -/

def numUserReg : Nat := 9

/-- sgang in a lane. -/
def sgangOf (u : Unit) (lane : Nat) : Nat :=
  let sl := u.slice (lane / 4)
  sl.lstack.length * 2 ^ 24 + sl.rstack.length * 2 ^ 16 + (if u.isWave then sl.strand * 2 ^ 8 + sl.gang else 0)

def sregsOf (s : State) (u : Unit) : Nat :=
  if u.isSup then 64
  else let k := (s.core u.place.die u.place.core).split; (8 - k) * 2 ^ 12 + k * 2 ^ 8 + u.vCount

/-- Read register n of a unit in a lane; the reads of stime_lo and sret_lo latch. clear: the read of sfstat_clr clears. -/
def userReg (s : State) (u : Unit) (n lane : Nat) (clear : Bool) : State × Nat :=
  let upd (f : Regs → Regs) : State := s.modUnit u.place (fun x => x.modRegs f)
  match n with
  | 0 => (s, u.regs.mode.toNat)
  | 1 => (s, u.regs.fstat.toNat)
  | 2 => (if clear then upd (fun r => { r with fstat := 0 }) else s, u.regs.fstat.toNat)
  | 3 => let t := nowOf s u.place.die; (upd (fun r => { r with timeHi := hiWord t }), (loWord t).toNat)
  | 4 => (s, u.regs.timeHi.toNat)
  | 5 => let t := u.book.retired; (upd (fun r => { r with retHi := hiWord t }), (loWord t).toNat)
  | 6 => (s, u.regs.retHi.toNat)
  | 7 => (s, sgangOf u lane)
  | _ => (s, sregsOf s u)

/-! ## Units that a selector names (R52) -/

/-- The place that a unit code names through core c of a die: MCC threads only through core-within-quad 0. -/
def selPlace (die core code : Nat) : Option Place :=
  if code < 0xC0 ∨ (code < 0xC4 ∧ core % 4 = 0) then some { die := die, core := core, unit := code } else none

def selUnit (s : State) (die core code : Nat) : Option Unit := (selPlace die core code).bind s.unit?

/-- The saved unit that was saved from a place last. -/
def selSaved (s : State) (die core code : Nat) : Option Saved :=
  if deviceWaits s then none else (selPlace die core code).bind (fun p => ((s.die die).disp.saved.filter (fun v => decide (v.place = p) && !v.captured)).getLast?)

/-! ## Killing (R390) -/

/-- Destroy one unit: its commands and batches are cancelled as by ACAN, a batch's running rays stopping at their next boundaries (R373, R390). -/
def destroyUnit (s : State) (u : Unit) : State :=
  let mine (asid : Nat) (sr : Word) : Bool := decide (asid = u.ident.asid ∧ sr = u.ident.serial)
  let s := (s.cmds.filter (fun c => mine c.asid c.serial && !c.sup)).foldl (fun s c => finishCmd s c 1) s
  let s := (s.batches.filter (fun b => mine b.asid b.serial)).foldl (fun s b => cancelBatch s b.id) s
  let s := dropWaiters s (fun w => w.ofUnit u)
  let s := dropTickets s u.place.die (quadOf u.place.core) u.ident.asid (u.tickets.map (·.2))
  removeUnit (s.modUnit u.place (fun x => { x with tickets := [] })) u 3

/-- A saved unit as its record holds it. -/
def savedAs (s : State) (die : Nat) (v : Saved) : Option Unit := (ctxOf s die v.asid).map (fun h => readUnitRec s die (recVaOf h v.recIdx) v.place v)

/-- Destroy one saved unit (R390): its commands' entries, waiter records, tickets and record go. -/
def destroySaved (s : State) (d : Nat) (v : Saved) : State :=
  let s := v.cmds.foldl (fun s c => settleShared (freeCmdEntry s d v.asid c.entry) c.id 1) s
  let s := v.batches.foldl (fun s b => freeCmdEntry s d v.asid b.entry) s
  let s := dropWaiters s (fun w => decide (w.asid = v.asid ∧ w.serial = v.serial ∧ w.place.core < 240))
  let s := dropTickets s v.place.die (quadOf v.place.core) v.asid (((savedAs s d v <|> v.unit).map (fun u => u.tickets.map (·.2))).getD [])
  let s := freeRec s d v.asid (some v.recIdx)
  s.modDisp d (fun x => { x with saved := x.saved.filter (fun y => decide (y ≠ v)) })

/-- Kill a grid: its waves, the units that FORK suspended from it, and what else of it is saved (R390). It never completes. -/
def killGrid (s : State) (g : Nat) : State :=
  let s := (s.units.filter (fun x => decide (x.ident.grid = some g))).foldl (fun s x => destroyUnit s x) s
  let s := (List.range 4).foldl (fun s d => ((s.die d).disp.saved.filter (fun v => decide (v.grid = some g))).foldl (fun s v => destroySaved s d v) s) s
  { s with grids := s.grids.filter (fun x => decide (x.id ≠ g)) }

/-- Kill a unit: for a wave its grid; for a thread itself (R390). -/
def killUnit (s : State) (u : Unit) : State :=
  match u.ident.grid with
  | none => destroyUnit s u
  | some g => killGrid s g

/-! ## Supervisor actions (R388, R389) -/

/-- Parked, frozen or stopped. -/
def Unit.faulted (u : Unit) : Bool := u.ctl.faulted

/-- The effect of actions 1 to 4 on a unit; none when its state does not allow it. A sleeping gang is resumed too (R158). -/
def actOn (u : Unit) (act : Nat) (target : DWord) : Option Unit :=
  let ok := decide (target.toNat % 4 = 0 ∧ target.toNat < 2 ^ 57)
  match act with
  | 1 => if u.faulted then some (replayUnit u) else none
  | 2 =>
    if u.faulted then some (resumeUnit u)
    else if u.ctl.run = .ready ∧ (u.book.sleeps.any (fun z => !z.woken)) = true then
      some (u.modBook (fun b => { b with sleeps := b.sleeps.map (fun z => { z with woken := true }) }))
    else none
  | 3 => if u.faulted && ok then some (redirectUnit u target) else none
  | 4 => if decide (u.ctl.run = .stopped) && u.ctl.redirected && ok then some (returnUnit u target) else none
  | _ => none

/-- Edit the record of a saved unit (R285): what the header keeps of pending tokens stays. -/
def editSaved (s : State) (die : Nat) (v : Saved) (u : Unit) : State :=
  match ctxOf s die v.asid with
  | none => s
  | some h =>
    let w := sysWho die v.asid
    let va := recVaOf h v.recIdx
    let pend := sysGet s w (va + 0x40) 24
    let s := sysPut (writeUnitRec s die va u v.fork) w (va + 0x40) 24 pend
    s.modDisp die (fun d => { d with saved := d.saved.map (fun x => if x.asid = v.asid ∧ x.recIdx = v.recIdx then { x with unit := some u } else x) })

/-- Whether a unit of this identity is linked at a WAIT or BWAIT. -/
def isWaiting (s : State) (u : Unit) : Bool := s.dies.any (fun d => d.waiters.any (fun w => w.ofUnit u && w.res.isNone))

def Cmd.stuck (c : Cmd) : Bool := match c.state with
  | .parked _ => true
  | .frozen _ => true
  | _ => false

/-- A command or batch is the one that a token field and lane name. -/
def namesToken (d : Fld) (lane : Nat) (token : Fld) (lanes : LaneMask) : Bool := decide (token = d) && (isK d || lanes.getLsbD lane)

/-- A held ray of a lane goes on where it stood; a batch of a thread has lane 0. -/
def Ray.release (r : Ray) (lane : Nat) : Ray := if r.isHeld && decide (r.lane = lane) then { r with state := r.back } else r

def stuckBatch (b : Batch) (lane : Nat) : Bool := b.rays.any (fun r => r.isHeld && decide (r.lane = lane))

/-- Actions 8 and 9 on a resident issuer. -/
def actCmd (s : State) (u : Unit) (cancel : Bool) (d : Fld) (lane : Nat) : Option State :=
  match s.cmds.find? (fun c => c.stuck && namesToken d lane c.token c.lanes && issuedBy u c.asid c.serial c.sup c.issuer) with
  | some c => some (if cancel then cancelLane s u d lane else modCmd s c.id (fun c => { c with state := .running }))
  | none =>
    match s.batches.find? (fun b => stuckBatch b lane && namesToken d lane b.token b.lanes && issuedBy u b.asid b.serial false b.issuer) with
    | some b => some (if cancel then cancelBatch s b.id else modBatch s b.id (fun b => { b with rays := b.rays.map (fun r => r.release lane) }))
    | none => none

/-- Change what is kept of a saved unit. -/
def modSaved (s : State) (die : Nat) (v : Saved) (f : Saved → Saved) : State :=
  s.modDisp die (fun d => { d with saved := d.saved.map (fun x => if x.asid = v.asid ∧ x.recIdx = v.recIdx then f x else x) })

/-- Actions 8 and 9 on a saved issuer: they take effect when the command is issued again. -/
def actSavedCmd (s : State) (die : Nat) (v : Saved) (cancel : Bool) (d : Fld) (lane : Nat) : Option State :=
  match v.cmds.find? (fun c => c.stuck && namesToken d lane c.token c.lanes) with
  | some c =>
    some (if cancel then
      let s := modSaved s die v (fun x => { x with cmds := x.cmds.filter (fun y => decide (y.id ≠ c.id)) })
      writeToken (settleShared (freeCmdEntry s die v.asid c.entry) c.id 1) v.asid v.serial false c.issuer c.token c.lanes c.scope 1
    else
      let s := modSaved s die v (fun x => { x with cmds := x.cmds.map (fun y => if y.id = c.id then { y with state := .running } else y) })
      saveCmd s { c with state := .running })
  | none =>
    match v.batches.find? (fun b => stuckBatch b lane && namesToken d lane b.token b.lanes) with
    | some b =>
      some (if cancel then
        let s := modSaved s die v (fun x => { x with batches := x.batches.filter (fun y => decide (y.id ≠ b.id)) })
        writeToken (settleShared (freeCmdEntry s die v.asid b.entry) b.id 1) v.asid v.serial false b.issuer b.token b.lanes b.scope 1
      else
        let b' : Batch := { b with rays := b.rays.map (fun r => r.release lane) }
        saveBatch (modSaved s die v (fun x => { x with batches := x.batches.map (fun y => if y.id = b.id then b' else y) })) b')
    | none => none

/-- A redirect saves the registers that it overwrites in the redirect save of the unit's record (R45, R46, R379). -/
def keepRedir (s : State) (u : Unit) : State :=
  match ctxOf s u.place.die u.ident.asid, u.ident.recIdx with
  | some h, some i => sysPut s (sysWho u.place.die u.ident.asid) (recVaOf h i + 0x200) 32 (ofWords (u.ctl.redirSave.take 8))
  | _, _ => s

/-- A saved unit that goes to a handler, or returns from one, leaves the WAITs and BWAITs it stands at as a resident one does. -/
def sendSaved (s : State) (die : Nat) (v : Saved) (u : Unit) : State :=
  editSaved (dropWaiters s (fun w => decide (w.asid = v.asid ∧ w.serial = v.serial ∧ w.place.core < 240))) die v (u.modBook (fun b => { b with waits := [] }))

/-- Action 7: a task that is parked or frozen at dispatch is discarded, and its caller is told why, once the core's output buffer has room (R241, R258). -/
def discardTask (s : State) (die core unit : Nat) : Option State :=
  let q : TaskQ := if unit.testBit 7 then .mcc die (core / 4) else .core die core
  let i := unit % 64
  match (tasksOf s q)[i]? with
  | none => none
  | some t => t.held.map (fun c => if outbufFull s q.die q.coreNo then modTasks s q (fun ts => modAt ts i (fun x => { x with held := none, refusal := some c }))
                                   else refuseTask (dropTask s q i) q t c)

/-- A supervisor action (R389); none when it is refused. -/
def svAction (s : State) (die core act unit : Nat) : Option State :=
  let k := s.core die core
  let target : DWord := pairOf k.tgtLo k.tgtHi
  let d : Fld := k.tgtLo.extractLsb' 0 8
  let lane := bits k.tgtLo 15 8
  if act = 7 then discardTask s die core unit
  else match selUnit s die core unit with
    | some u =>
      (match act with
      | 5 => if isWaiting s u then some (releaseUnitWaiters s u) else none
      | 6 => some (killUnit s u)
      | 8 => actCmd s u false d lane
      | 9 => actCmd s u true d lane
      | 3 => (actOn u act target).map (fun u' => keepRedir (quitAll (leaveWaits (s.modUnit u.place (fun _ => u')) u) u) u')
      | 4 => (actOn u act target).map (fun u' => quitAll (leaveWaits (s.modUnit u.place (fun _ => u')) u) u)
      | _ => (actOn u act target).map (fun u' => s.modUnit u.place (fun _ => u')))
    | none => match selSaved s die core unit with
      | none => none
      | some v =>
        (match act with
        | 5 => (savedAs s die v).bind (fun u => if isWaiting s u then some (releaseUnitWaiters s u) else none)
        | 6 => some (match v.grid with | some g => killGrid s g | none => destroySaved s die v)
        | 8 => actSavedCmd s die v false d lane
        | 9 => actSavedCmd s die v true d lane
        | 3 | 4 => (savedAs s die v).bind (fun u => (actOn u act target).map (fun u' => sendSaved s die v u'))
        | _ => (savedAs s die v).bind (fun u => (actOn u act target).map (fun u' => editSaved s die v u')))

/-- An action on a saved unit needs the Flask. -/
def actWaits (s : State) (die core unit : Nat) : Bool :=
  deviceWaits s && (selUnit s die core unit).isNone && (selPlace die core unit).elim false (fun p => (s.die die).disp.saved.any (fun v => decide (v.place = p) && !v.captured))

/-- A write of sv_act: sv_res tells whether the action was refused. -/
def svAct (s : State) (die core act unit : Nat) : State :=
  if act ≠ 7 ∧ actWaits s die core unit = true then waitReg s die core 0x41 (BitVec.ofNat 32 (act * 256 + unit)) else
  match svAction s die core act unit with
  | some s => s.modCore die core (fun k => { k with refused := false })
  | none => s.modCore die core (fun k => { k with refused := true })

/-! ## Counters and delays (R403, R410) -/

def refuse (s : State) (die core : Nat) : State := s.modCore die core (fun k => { k with refused := true })

/-- The 64-bit counter of an index: 0 retired, r a stall reason. -/
def counterOf (u : Unit) (r : Nat) : DWord := if r = 0 then u.book.retired else smGet 0 u.book.stalls r

def ctrRead (s : State) (die core : Nat) : State × Nat :=
  let k := s.core die core
  match selUnit s die core (bits k.ctrSel 15 8) with
  | none => (refuse s die core, 0)
  | some u =>
    let i := bits k.ctrSel 4 0
    if 24 ≤ i then (s, 0)
    else
      let x := counterOf u (i / 2)
      if i % 2 = 0 then (s.modCore die core (fun k => { k with ctrOdd := some (hiWord x) }), (loWord x).toNat)
      else (s.modCore die core (fun k => { k with ctrOdd := none }), (k.ctrOdd.getD (hiWord x)).toNat)

def ctrWrite (s : State) (die core : Nat) : State :=
  let k := s.core die core
  match selUnit s die core (bits k.ctrSel 15 8) with
  | none => refuse s die core
  | some u =>
    let i := bits k.ctrSel 4 0
    if 24 ≤ i then s
    else s.modUnit u.place (fun u => u.modBook (fun b => if i / 2 = 0 then { b with retired := 0 } else { b with stalls := smSet 0 b.stalls (i / 2) 0 }))

def Delay.words (d : Delay) : List Word :=
  [d.place, d.serial, d.count, loWord d.transit, hiWord d.transit, loWord d.wait, hiWord d.wait, loWord d.run, hiWord d.run]

def dlyRead (s : State) (die core : Nat) : State × Nat :=
  let sel := (s.core die core).dlySel
  match selUnit s die core (bits sel 23 16) with
  | none => (refuse s die core, 0)
  | some u =>
    (s, match u.book.inbox.delays[bits sel 13 8]? with
      | none => 0
      | some d => (d.words.getD (bits sel 3 0) 0).toNat)

def dlyWrite (s : State) (die core : Nat) : State :=
  match selUnit s die core (bits (s.core die core).dlySel 23 16) with
  | none => refuse s die core
  | some u => s.modUnit u.place (fun u => u.modBook (fun b => { b with inbox := { b.inbox with delays := [] } }))

/-! ## Precise stops (R419, R420) -/

/-- The units of a core that run in an activation. -/
def running (s : State) (die core : Nat) : Nat := ((unitsOn s die core).filter (fun u => u.ident.act.isSome)).length

/-- A unit that does not run: halted, or with every gang asleep. -/
def Unit.quiet (u : Unit) : Bool := u.ctl.halted || u.gangs.all (fun g => u.book.sleeps.any (fun z => decide (z.gang = g) && !z.woken))

/-- PRECISE_STOP_REACHED: no activation runs on the core any more. A kind-5 record describes no unit: the fields that R413 gives of one are free values
(log entry 61). -/
def execEvPreciseStopReached (die core : Nat) (s : State) : Res :=
  let k := s.core die core
  if k.stop && !k.stopped && (unitsOn s die core).all (fun u => u.ident.act.isNone && u.quiet) then
    let (s, x) := s.free
    let (s, y) := s.free
    let (s, z) := s.free
    .next (traceWrite (s.modCore die core (fun k => { k with stopped := true })) die 5
      (traceRecord 5 0 (bits x 15 0) (hiWord x) (nowOf s die) y (loWord z) (hiWord z)))
  else .next s

def deliverAll (die core : Nat) : Nat → State → State
  | 0, s => s
  | n + 1, s => deliverAll die core n (deliverInbuf s die core)

/-- stop := 0: the held messages are delivered, oldest first. -/
def stopRelease (s : State) (die core : Nat) : State :=
  let s := s.modCore die core (fun k => { k with stop := false, stopped := false })
  deliverAll die core (s.core die core).inbuf.length s

def stopWrite (s : State) (die core : Nat) (on : Bool) : State :=
  if on then s.modCore die core (fun k => { k with stop := true }) else stopRelease s die core

def execEvStopRequest (die core : Nat) (s : State) : Res := .next (stopWrite s die core true)
def execEvStopRelease (die core : Nat) (s : State) : Res := .next (stopWrite s die core false)

/-! ## Per-core registers (R256, R388, R403, R410, R415, R416, R419) -/

def b2n (b : Bool) (i : Nat) : Nat := if b then 2 ^ i else 0

def readCoreReg (s : State) (die core n : Nat) : State × Nat :=
  let k := s.core die core
  if 0x50 ≤ n ∧ n < 0x70 then
    let c := k.bps.getD ((n - 0x50) / 4) { pcLo := 0, pcHi := 0, ctl := 0, imm := 0 }
    (s, ((([c.pcLo, c.pcHi, c.ctl, c.imm] : List Word).getD (n % 4) 0)).toNat)
  else match n with
    | 0x40 => (s, k.fpCfg.toNat)
    | 0x42 => (s, k.tgtLo.toNat)
    | 0x43 => (s, k.tgtHi.toNat)
    | 0x44 => (s, b2n k.refused 0)
    | 0x45 => (s.modCore die core (fun k => { k with cycHi := hiWord (s.coreClocks die core) }), (loWord (s.coreClocks die core)).toNat)
    | 0x46 => (s, k.cycHi.toNat)
    | 0x47 => (s, k.ctrSel.toNat)
    | 0x48 => ctrRead s die core
    | 0x49 => (s, k.dlySel.toNat)
    | 0x4A => dlyRead s die core
    | 0x4B => (s, b2n k.stop 31 + b2n k.stopped 30 + running s die core)
    | 0x4C => (s, k.smpCfg.toNat)
    | _ => (s, 0)

/-- The writable bits of a comparator's registers. -/
def bpMask (i : Nat) : Nat := ([0xFFFFFFFC, 0x1FFFFFF, 0xF7FFFFFF, 0xFFFFFFFF] : List Nat).getD i 0

def writeComparator (k : Core) (n : Nat) (w : Word) : Core :=
  let x := w &&& BitVec.ofNat 32 (bpMask (n % 4))
  { k with bps := modAt k.bps ((n - 0x50) / 4) (fun c =>
      match n % 4 with
      | 0 => { c with pcLo := x }
      | 1 => { c with pcHi := x }
      | 2 => { c with ctl := x }
      | _ => { c with imm := x }) }

def writeCoreReg (s : State) (die core n : Nat) (w : Word) : State :=
  let upd (f : Core → Core) : State := s.modCore die core f
  let m (x : Nat) : Word := w &&& BitVec.ofNat 32 x
  if 0x50 ≤ n ∧ n < 0x70 then upd (fun k => writeComparator k n w)
  else match n with
    | 0x40 => upd (fun k => { k with fpCfg := m 0x01FF00FF })
    | 0x41 => svAct s die core (bits w 11 8) (bits w 7 0)
    | 0x42 => upd (fun k => { k with tgtLo := w })
    | 0x43 => upd (fun k => { k with tgtHi := m 0x1FFFFFF })
    | 0x47 => upd (fun k => { k with ctrSel := m 0xFF1F })
    | 0x48 => ctrWrite s die core
    | 0x49 => upd (fun k => { k with dlySel := m 0xFF3F0F })
    | 0x4A => dlyWrite s die core
    | 0x4B => stopWrite s die core (bit w 31)
    | 0x4C => upd (fun k => { k with smpCfg := m 0x8000001F })
    | _ => s

/-! ## Per-quad registers (R169, R244, R248, R254, R396) -/

/-- A push to mailbox n; a full one drops it (R248). -/
def mboxPush (s : State) (die quad n : Nat) (w : Word) : State :=
  s.modQuad die quad (fun q =>
    if 16 ≤ (q.mboxes.getD n Chan.empty).words.length then { q with mboxOvf := q.mboxOvf ||| BitVec.ofNat 8 (2 ^ n) }
    else { q with mboxes := modAt q.mboxes n (fun c => { c with words := c.words ++ [w] }) })

/-- The matrix engine's work and a waiting exchange for threads that the quad's new owner does not admit end: those threads issue their instructions
again, at the row that they have reached, and meet the owner check there (R310). -/
def evictJobs (s : State) (die quad : Nat) (x : Word) : State :=
  let out (p : Place) : Bool := !(bit x 16 && (s.unit? p).elim false (fun u => decide (bits x 15 0 = u.ident.asid)))
  let q := s.quad die quad
  let s := ((q.jobs.filter (fun j => out j.place)).filterMap (fun j => s.unit? j.place)).foldl dropJob s
  s.modQuad die quad (fun q => { q with jobs := q.jobs.filter (fun j => !out j.place), swapReq := q.swapReq.filter (fun p => !out p) })

/-- A write to chan_owner (R244, R386): when asid changes, the old owner's block is written and the quad emptied; with en = 1 a valid block of the new
owner is loaded. A write that comes while a flip is in progress waits for it (R298). -/
def writeChanOwner (s : State) (die quad : Nat) (w : Word) : State :=
  if deviceWaits s then waitReg s die (4 * quad) 0x81 w else
  let x := w &&& 0x1FFFF
  let s := evictJobs s die quad x
  let old := (s.quad die quad).chanOwner
  let empty (c : Chan) : Chan := { c with words := [] }
  let s := if bits old 15 0 = bits x 15 0 then s
    else (saveQuadBlock s die quad (bits old 15 0)).modQuad die quad (fun q => { q with
      chans := q.chans.map empty, mboxes := q.mboxes.map empty, launders := q.launders.map (fun l => { l with cfg := 0, entries := [] }) })
  let s := s.modQuad die quad (fun q => { q with chanOwner := x })
  if bit x 16 then loadQuadBlock s die quad (bits x 15 0) else s

/-- Launder storage as a byte range of the SRAM. -/
def ldrRange (cfg : Word) : Nat × Nat := (ldrBase cfg, ldrBase cfg + ldrDepth cfg * (4 * ldrWords cfg))

/-- Why a write of ldr_cfg is refused (R254). -/
def ldrRefused (q : Quad) (n : Nat) (w : Word) : Bool :=
  let old := (q.launders.getD n { cfg := 0, entries := [], waiters := [] }).cfg
  let (lo, hi) := ldrRange w
  let others := (q.launders.zipIdx.filter (fun (l, i) => decide (i ≠ n) && bit l.cfg 31)).map (fun (l, _) => ldrRange l.cfg)
  bit w 31 &&
    (decide (bits w 29 28 = 3) || decide (ldrDepth w = 0) || decide (0x40000 < hi) || others.any (fun (a, b) => decide (lo < b ∧ a < hi)) ||
      (bit old 31 && decide (bits w 29 28 ≠ bits old 29 28 ∨ bits w 25 0 ≠ bits old 25 0)))

/-- The gangs blocked at a Launder that is disabled take FLT_QUEUE (R254). -/
def failWaiters (s : State) (die quad n : Nat) : State :=
  ((s.quad die quad).launders.getD n { cfg := 0, entries := [], waiters := [] }).waiters.foldl (fun s w =>
    match issueAt s w.place w.gang true with
    | some iss => if iss.u.goes s then takeFault s iss (fault .queue) iss.lanes else s
    | none => s) s

def writeLdrCfg (s : State) (die quad n : Nat) (w : Word) : State :=
  let s := if bit w 31 then s else failWaiters s die quad n
  s.modQuad die quad (fun q =>
    let x := w &&& 0xB3FFFFFF
    { q with launders := modAt q.launders n (fun l =>
        if ldrRefused q n x then { l with cfg := l.cfg ||| 0x40000000 }
        else { l with cfg := x, entries := if bit x 31 && bit l.cfg 31 then l.entries else [] }) })

def readQuadReg (s : State) (die quad n : Nat) : Nat :=
  let q := s.quad die quad
  if 0x90 ≤ n ∧ n < 0xA0 then (q.launders.getD (n - 0x90) { cfg := 0, entries := [], waiters := [] }).cfg.toNat
  else match n with
    | 0x80 => q.vaultOwner.toNat
    | 0x81 => q.chanOwner.toNat
    | 0x82 => q.mboxOvf.toNat * 256 + (rangeWhere 8 (fun i => !(q.mboxes.getD i Chan.empty).words.isEmpty)).foldl (fun m i => m + 2 ^ i) 0
    | 0xA0 => q.blndLo.toNat
    | 0xA1 => q.blndHi.toNat
    | 0xA2 => q.blndCap.toNat
    | _ => 0

def writeQuadReg (s : State) (die quad n : Nat) (w : Word) : State :=
  let upd (f : Quad → Quad) : State := s.modQuad die quad f
  if 0x88 ≤ n ∧ n < 0x90 then mboxPush s die quad (n - 0x88) w
  else if 0x90 ≤ n ∧ n < 0xA0 then writeLdrCfg s die quad (n - 0x90) w
  else match n with
    | 0x80 => upd (fun q => { q with vaultOwner := w &&& 0x1FFFF })
    | 0x81 => writeChanOwner s die quad w
    | 0x82 => upd (fun q => { q with mboxOvf := q.mboxOvf &&& ~~~(w.extractLsb' 8 8) })
    | 0xA0 => upd (fun q => { q with blndLo := w &&& 0xFFFFFFC0 })
    | 0xA1 => upd (fun q => { q with blndHi := w &&& 0x1FFFFFF })
    | 0xA2 => upd (fun q => { q with blndCap := w })
    | _ => s

/-! ## Per-die registers -/

/-- RDC_CFG (R182): the whole RDC is invalidated, then the new size applies. -/
def writeRdcCfg (s : State) (die : Nat) (w : Word) : State :=
  (s.modDie die (fun d => { d with rdc := [] })).modRegs die (fun r => { r with rdcCfg := w &&& 0x1F })

/-- WAITER_CFG (R259): refused while a record is linked. -/
def writeWaiterCfg (s : State) (die : Nat) (w : Word) : State :=
  if (linked s die).isEmpty then s.modRegs die (fun r => { r with waiterCfg := w }) else s

/-- PORT_FRZ (R391): released ports serve what they held. -/
def writePortFrz (s : State) (die : Nat) (w : Word) : State :=
  serveHeld (s.modRegs die (fun r => { r with portFrz := r.portFrz &&& ~~~(w &&& 0x1F) }))

def writePwrLim (s : State) (w : Word) : State :=
  let s := modPkg s (fun p => { p with pwrLim := w &&& 0x80000FFF })
  if bit w 31 then wakeAll s else s

def monSelected (s : State) (die : Nat) : Nat × Nat := (bits (s.die die).regs.monSel 13 8, bits (s.die die).regs.monSel 4 0)

/-- The words of a monitor that has just been enabled (R406). -/
def freshMonitor (m : Monitor) : Monitor := smSet 0 (smSet 0 (m.filter (fun x => decide (x.1 < 2))) 3 0xFFFFFFFF) 4 0

def writeMon (s : State) (die : Nat) (w : Word) : State :=
  let (m, i) := monSelected s die
  let old := smGet [] (s.die die).mons m
  if i = 0 then
    let start := bit w 31 && !bit (smGet 0 old 0) 31
    let new := smSet 0 (if start then freshMonitor old else old) 0 (w &&& 0xC7F0001F)
    s.modDie die (fun d => { d with mons := smSet [] d.mons m new, monCount := if start then smSet 0 d.monCount m 0 else d.monCount })
  else if i = 1 then s.modDie die (fun d => { d with mons := smSet [] d.mons m (smSet 0 old 1 w) })
  else s

/-- The lines of a class in the die's L2 (R404): a field of 21 bits. -/
def l2Occ (s : State) (die c : Nat) : Nat := ((s.die die).l2.filter (fun l => decide (l.cclass = c))).length % 2 ^ 21

/-- Read a per-die register; RC fields clear, and a read of trc_head is an acquire at die scope (R412). -/
def readDieReg (s : State) (die n : Nat) : State × Nat :=
  let d := s.die die
  let r := d.regs
  if 0xCF ≤ n ∧ n ≤ 0xD2 then (s, l2Occ s die (n - 0xCF))
  else match n with
    | 0xC0 => (s, r.l2Quota.toNat)
    | 0xC1 => (s, r.l2Order.toNat)
    | 0xC2 => (s, r.rdcCfg.toNat)
    | 0xC3 => (s, r.gen)
    | 0xC4 => (s.modRegs die (fun r => { r with msgDrop := 0 }), r.msgDrop.toNat)
    | 0xC5 => (s, r.waiterCfg.toNat)
    | 0xC6 => (s, r.ctxTabLo.toNat)
    | 0xC7 => (s, r.ctxTabHi.toNat)
    | 0xC8 => (s, r.ctxCount.toNat)
    | 0xCA => (s.modRegs die (fun r => { r with lqErr := 0 }), r.lqErr.toNat)
    | 0xCB => (s, b2n d.disp.pre.isSome 31 + r.ctxPreSlot)
    | 0xCC => (s, r.asidTab.toNat)
    | 0xCD => (s, r.travTab.toNat)
    | 0xCE => (s, r.portFrz.toNat)
    | 0xD3 => (s.modRegs die (fun r => { r with seCorr := r.seCorr &&& 0xF0000000 }), r.seCorr.toNat)
    | 0xD4 => (s.modRegs die (fun r => { r with seUnc := r.seUnc &&& 0xF0000000 }), r.seUnc.toNat)
    | 0xD5 => (s, r.monSel.toNat)
    | 0xD6 => let (m, i) := monSelected s die; (s, (smGet 0 (smGet [] d.mons m) i).toNat)
    | 0xD7 => (s, r.trcLo.toNat)
    | 0xD8 => (s, r.trcHi.toNat)
    | 0xD9 => (s, r.trcCfg.toNat)
    | 0xDA => (acquire s (sysWho die 0) 2, r.trcHead.toNat)
    | 0xDB => (s.modRegs die (fun r => { r with trcLost := 0 }), r.trcLost.toNat)
    | 0xDC => (s, s.pkg.clk * 65536 + s.pkg.draw.toNat)
    | 0xDD => (s, s.pkg.pwrLim.toNat)
    | 0xDE => (s, r.supAsid.toNat)
    | _ => (s, 0)

def writeDieReg (s : State) (die n : Nat) (w : Word) : State :=
  let upd (f : DieRegs → DieRegs) : State := s.modRegs die f
  match n with
  | 0xC0 => upd (fun r => { r with l2Quota := w &&& 0x1F1F1F1F })
  | 0xC1 => upd (fun r => { r with l2Order := w &&& 0xFC })
  | 0xC2 => writeRdcCfg s die w
  | 0xC5 => writeWaiterCfg s die w
  | 0xC6 => upd (fun r => { r with ctxTabLo := w &&& 0xFFFFFC00 })
  | 0xC7 => upd (fun r => { r with ctxTabHi := w &&& 0x1FFFFFF })
  | 0xC8 => upd (fun r => { r with ctxCount := w &&& 0x7FF })
  | 0xC9 => lqBell s die w
  | 0xCB => ctxPre s die w
  -- the next walk starts in the new table (R287)
  | 0xCC => (upd (fun r => { r with asidTab := w &&& 0xFFFFF })).modDie die (fun d => { d with walks := [] })
  | 0xCD => upd (fun r => { r with travTab := w &&& 0xFFFFF })
  | 0xCE => writePortFrz s die w
  | 0xD5 => upd (fun r => { r with monSel := w &&& 0x3F1F })
  | 0xD6 => writeMon s die w
  | 0xD7 => upd (fun r => { r with trcLo := w &&& 0xFFFFFFE0 })
  | 0xD8 => upd (fun r => { r with trcHi := w &&& 0x1FFFFFF })
  | 0xD9 => upd (fun r => { r with trcCfg := w &&& 0xFEFFFF1F })
  | 0xDD => writePwrLim s w
  | 0xDE => upd (fun r => { r with supAsid := w &&& 0xFFFF })
  | _ => s

/-! ## All of them (R49, R467) -/

/-- Read register n, 0x40 or above, as core `core` of a die reaches it. -/
def readReg (s : State) (die core n : Nat) : State × Word :=
  let (s, v) : State × Nat :=
    if n < 0x80 then readCoreReg s die core n else if n < 0xC0 then (s, readQuadReg s die (quadOf core) n) else readDieReg s die n
  (s, BitVec.ofNat 32 v)

def writeReg (s : State) (die core n : Nat) (w : Word) : State :=
  if n < 0x80 then writeCoreReg s die core n w else if n < 0xC0 then writeQuadReg s die (quadOf core) n w else writeDieReg s die n w

/-- The register writes of a die that waited take effect, in order, once no flip is in progress (R298). -/
def replayRegs (s : State) (die : Nat) : State :=
  match (s.die die).regWaits with
  | [] => s
  | ws => if deviceWaits s then s else ws.foldl (fun s x => writeReg s die x.1 x.2.1 x.2.2) (s.modDie die (fun d => { d with regWaits := [] }))

/-! ## MFS and MTS -/

/-- The value that MFS reads for each lane: one reading, but sgang per lane. -/
def mfsRead (s : State) (iss : Issue) (n : Nat) : State × List Nat :=
  if n = 7 then (s, iss.lanes.map (fun l => sgangOf iss.u l))
  else
    let (s, v) : State × Nat :=
      if n < 0x40 then userReg s iss.u n 0 true else let (s, w) := readReg s iss.u.place.die iss.u.place.core n; (s, w.toNat)
    (s, iss.lanes.map (fun _ => v))

def execMfs (d i : Fld) (s : State) : Res :=
  let n := i.toNat
  let od := if n = 7 then (dst d .one).must .lane else dst d .one
  frame s { priv := decide (0x40 ≤ n), bad := decide ((numUserReg ≤ n ∧ n < 0xC0) ∨ 0xDE < n), perGang := decide (n = 7), opds := [od] } (fun iss s =>
    let (s, vs) := mfsRead s iss n
    .ok (writeDst s iss.u od iss.lanes vs))

def execMts (a i : Fld) (s : State) : Res :=
  let n := i.toNat
  let oa := (src a .one).must .uniform
  frame s { priv := true, bad := decide (n < 0xC0 ∨ 0xDE < n), opds := [oa] } (fun iss s =>
    let (s, vs) := readAllOpds s iss.u false (iss.lanes.take 1) [oa]
    .ok (writeReg s iss.u.place.die iss.u.place.core n (BitVec.ofNat 32 ((col vs 0).headD 0))))

/-! ## Register events -/

/-- A read by the supervisor or host, answered outside. -/
def readEvent (s : State) (die core n : Nat) : Res := let (s, v) := readReg s die core n; .next (reply s (.reg (v.setWidth 64)))

def execEvLqErrRead (die : Nat) (s : State) : Res := readEvent s die 0 0xCA
def execEvMsgDrop (die : Nat) (s : State) : Res := readEvent s die 0 0xC4
def execEvSeCorr (die : Nat) (s : State) : Res := readEvent s die 0 0xD3
def execEvSeUnc (die : Nat) (s : State) : Res := readEvent s die 0 0xD4
def execEvTrcLost (die : Nat) (s : State) : Res := readEvent s die 0 0xDB
def execEvCycLo (die core : Nat) (s : State) : Res := readEvent s die core 0x45
def execEvCtrDataRead (die core : Nat) (s : State) : Res := readEvent s die core 0x48
def execEvTrcHead (die : Nat) (s : State) : Res := readEvent s die 0 0xDA

def execEvReplay (die core : Nat) (unit : Fld) (s : State) : Res := .next (svAct s die core 1 unit.toNat)
def execEvResume (die core : Nat) (unit : Fld) (s : State) : Res := .next (svAct s die core 2 unit.toNat)
def execEvRedirect (die core : Nat) (unit : Fld) (s : State) : Res := .next (svAct s die core 3 unit.toNat)
def execEvReturn (die core : Nat) (unit : Fld) (s : State) : Res := .next (svAct s die core 4 unit.toNat)
def execEvReleaseWaiter (die core : Nat) (unit : Fld) (s : State) : Res := .next (svAct s die core 5 unit.toNat)
def execEvKill (die core : Nat) (unit : Fld) (s : State) : Res := .next (svAct s die core 6 unit.toNat)
def execEvDiscardTask (die core : Nat) (unit : Fld) (s : State) : Res := .next (svAct s die core 7 unit.toNat)
def execEvReplayCommand (die core : Nat) (unit : Fld) (s : State) : Res := .next (svAct s die core 8 unit.toNat)
def execEvCancelCommand (die core : Nat) (unit : Fld) (s : State) : Res := .next (svAct s die core 9 unit.toNat)

/-- MBOX_PUSH (R248); a package in the hold state accepts none (R423). -/
def execEvMboxPush (die quad n : Nat) (w : Word) (s : State) : Res := .next (if n < 8 ∧ s.pkg.phase ≠ .hold then mboxPush s die quad n w else s)
def execEvChanOwner (die quad : Nat) (w : Word) (s : State) : Res := .next (writeChanOwner s die quad w)
def execEvLdrCfg (die quad n : Nat) (w : Word) (s : State) : Res := .next (writeLdrCfg s die quad n w)
def execEvRdcCfg (die : Nat) (w : Word) (s : State) : Res := .next (writeRdcCfg s die w)
def execEvWaiterCfg (die : Nat) (w : Word) (s : State) : Res := .next (writeWaiterCfg s die w)
def execEvCtrDataWrite (die core : Nat) (w : Word) (s : State) : Res := .next (writeReg s die core 0x48 w)
def execEvDlyDataWrite (die core : Nat) (w : Word) (s : State) : Res := .next (writeReg s die core 0x4A w)
/-- MON_CFG_WRITE (R406): a write of the cfg word of the monitor that mon_sel names. -/
def execEvMonCfgWrite (die : Nat) (w : Word) (s : State) : Res := .next (if (monSelected s die).2 = 0 then writeMon s die w else s)
def execEvPortFrz (die : Nat) (w : Word) (s : State) : Res := .next (writePortFrz s die w)
def execEvNgateWrite (die : Nat) (w : Word) (s : State) : Res := .next (writeDieReg s die 0xDD w)
def execEvSystemRegisterWrite (die core n : Nat) (w : Word) (s : State) : Res := .next (if 0x40 ≤ n ∧ n < 0x100 then writeReg s die core n w else s)

/-- SFSTAT_CLR, STIME_LO and SRET_LO: the MFS of that register by the unit that cur names. -/
def execEvSfstatClr (d : Fld) (s : State) : Res := execMfs d 2 s
def execEvStimeLo (d : Fld) (s : State) : Res := execMfs d 3 s
def execEvSretLo (d : Fld) (s : State) : Res := execMfs d 5 s

/-! ## BAR0 (R433) -/

/-- The die, quad and number of the register at an offset of BAR0. -/
def barReg (off : Nat) : Option (Nat × Nat × Nat) :=
  let (die, x) := (off / 0x100000, off % 0x100000)
  if 4 ≤ die ∨ x % 8 ≠ 0 then none
  else if 0x10000 ≤ x ∧ x < 0x10200 then some (die, 0, 0xC0 + (x - 0x10000) / 8)
  else if 0x20000 ≤ x ∧ x < 0x20000 + 60 * 0x1000 ∧ x % 0x1000 < 0x200 then some (die, (x - 0x20000) / 0x1000, 0x80 + x % 0x1000 / 8)
  else none

/-- The host writes lq_bell and the mailboxes alone. -/
def barWrite (s : State) (off : Nat) (w : Word) : State :=
  match barReg off with
  | some (die, q, n) => if n = 0xC9 then lqBell s die w else if 0x88 ≤ n ∧ n < 0x90 then mboxPush s die q (n - 0x88) w else s
  | none => s

/-- It reads those, lq_err, mbox_stat, pwr_stat and the report; every other offset reads 0. -/
def barRead (s : State) (off : Nat) : State × Word :=
  if off < 64 then (s, BitVec.ofNat 32 (if off % 4 = 0 then fieldAt (ofBytes (reportBytes s.pkg.report)) off 4 else 0))
  else match barReg off with
    | some (die, q, n) => if [0xC9, 0xCA, 0xDC, 0x82].contains n || decide (0x88 ≤ n ∧ n < 0x90) then readReg s die (4 * q) n else (s, 0)
    | none => (s, 0)

/-- An access of the host to BAR0, over CXL: before the firmware runs, and in the hold state, only the report answers (R422 to R424). -/
def hostBar (off : Nat) (wr : Option Word) (s : State) : State :=
  if !s.pkg.cxlUp || (decide (s.pkg.phase ≠ .running) && (wr.isSome || decide (64 ≤ off))) then reply s .silent
  else match wr with
    | some w => reply (barWrite s off w) .done
    | none => let (s, v) := barRead s off; reply s (.reg (v.setWidth 64))

/-! ## dw_data (R52, R53) -/

/-- What a debugger may inspect: a unit that is parked, halted, frozen or stopped. -/
def inspectable (u : Unit) : Bool := u.faulted || u.ctl.halted

/-- Fields of dw_sel. -/
structure DwSel where
  entry : Nat
  index : Nat
  lane : Nat
  space : Nat
  unit : Nat
  deriving DecidableEq, Repr

def dwSelOf (x : DWord) : DwSel := { entry := bits x 55 48, index := bits x 47 40, lane := bits x 39 32, space := bits x 23 20, unit := bits x 7 0 }

/-- A stack entry as it stands in storage, entry 0 the oldest: in the stack, as a debugger left it, or with words that no rule gives. -/
def rEntry (s : State) (sl : Slice) (i : Nat) : State × REntry :=
  match sl.rstack.reverse[i]?, sl.rext.find? (fun x => decide (x.1 = i)) with
  | some e, _ => (s, e)
  | none, some x => (s, x.2)
  | none, none => let (s, a) := s.free; let (s, b) := s.free; (s, { pc := a, mask := b.extractLsb' 0 4 })

def lEntry (s : State) (sl : Slice) (i : Nat) : State × LEntry :=
  match sl.lstack.reverse[i]?, sl.lext.find? (fun x => decide (x.1 = i)) with
  | some e, _ => (s, e)
  | none, some x => (s, x.2)
  | none, none =>
    let (s, a) := s.free
    let (s, b) := s.free
    let (s, c) := s.free
    (s, { count := loWord a, start := b, last := c })

def Slice.putR (sl : Slice) (i : Nat) (e : REntry) : Slice :=
  if i < sl.rstack.length then { sl with rstack := (setAt sl.rstack.reverse i e).reverse } else { sl with rext := smPut sl.rext i e }

def Slice.putL (sl : Slice) (i : Nat) (e : LEntry) : Slice :=
  if i < sl.lstack.length then { sl with lstack := (setAt sl.lstack.reverse i e).reverse } else { sl with lext := smPut sl.lext i e }

/-- The first n entries of a stack's storage. -/
def rEntries (s : State) (sl : Slice) : Nat → State × List REntry
  | 0 => (s, [])
  | n + 1 => let (s, es) := rEntries s sl n; let (s, e) := rEntry s sl n; (s, es ++ [e])

def lEntries (s : State) (sl : Slice) : Nat → State × List LEntry
  | 0 => (s, [])
  | n + 1 => let (s, es) := lEntries s sl n; let (s, e) := lEntry s sl n; (s, es ++ [e])

/-- Set the two depths: entries that leave the stacks stay in storage, and entries that enter are as storage has them. -/
def setDepths (s : State) (sl : Slice) (r l : Nat) : State × Slice :=
  let (s, rs) := rEntries s sl r
  let (s, ls) := lEntries s sl l
  let rx := (sl.rstack.reverse.zipIdx.drop r).foldl (fun m (e, i) => smPut m i e) (sl.rext.filter (fun x => decide (r ≤ x.1)))
  let lx := (sl.lstack.reverse.zipIdx.drop l).foldl (fun m (e, i) => smPut m i e) (sl.lext.filter (fun x => decide (l ≤ x.1)))
  (s, { sl with rstack := rs.reverse, lstack := ls.reverse, rext := rx, lext := lx })

/-- The word that dw_data reads of a unit; none sets err. -/
def dwGetUnit (s : State) (u : Unit) (x : DwSel) : State × Option DWord :=
  let n (v : Nat) : Option DWord := some (BitVec.ofNat 64 v)
  let f : Fld := BitVec.ofNat 8 x.index
  let laneOk := decide (x.lane < (if u.isWave then 96 else 1))
  let sliceOk := decide (x.lane < u.slices.length)
  let sl := u.slice x.lane
  match x.space with
  | 0 =>
    if !laneOk then (s, none)
    else if isQ f then
      (s, match u.chanOf f with
        | none => none
        | some c => (chanGet s u c).words.head?.map (fun w => w.setWidth 64))
    else if (src f .one).kindOk u then (s, n (readOpd s u (src f .one) false x.lane)) else (s, none)
  | 1 =>
    if !sliceOk then (s, none)
    else (s, match x.index with
      | 0 => some sl.pc
      | 1 => n (sl.active.toNat + 16 * sl.live.toNat)
      | 2 => n (sl.gang + 256 * sl.strand)
      | 3 => n (sl.rstack.length + 256 * sl.lstack.length)
      | _ => none)
  | 2 =>
    if !sliceOk || decide (16 ≤ x.entry ∨ 2 ≤ x.index) then (s, none)
    else let (s, e) := rEntry s sl x.entry; (s, if x.index = 0 then some e.pc else n e.mask.toNat)
  | 3 =>
    if !sliceOk || decide (4 ≤ x.entry ∨ 3 ≤ x.index) then (s, none)
    else let (s, e) := lEntry s sl x.entry; (s, if x.index = 0 then n e.count.toNat else if x.index = 1 then some e.start else some e.last)
  | 4 => if x.index < numUserReg ∧ laneOk = true then (let (s, v) := userReg s u x.index x.lane false; (s, n v)) else (s, none)
  | _ =>
    if u.engine ≠ .mcc then (s, none)
    else if x.index < 4 ∧ x.entry < 4 then (s, n (bits (u.regs.fb.getD x.index 0) (64 * x.entry + 63) (64 * x.entry)))
    else if x.index = 4 then (s, n u.regs.mxpi.toNat)
    else (s, none)

/-- A write of dw_data to a unit; none sets err and changes nothing. -/
def dwPutUnit (s : State) (u : Unit) (x : DwSel) (v : DWord) : Option State :=
  let f : Fld := BitVec.ofNat 8 x.index
  let laneOk := decide (x.lane < (if u.isWave then 96 else 1))
  let sliceOk := decide (x.lane < u.slices.length)
  let regs (g : Regs → Regs) : Option State := some (s.modUnit u.place (fun y => y.modRegs g))
  let slice (s : State) (g : Slice → Slice) : Option State := some (s.modUnit u.place (fun y => { y with slices := modAt y.slices x.lane g }))
  let g := (u.slice x.lane).gang
  match x.space with
  | 0 =>
    if laneOk && !isQ f && !isSpecial f && !isConst f && (src f .one).kindOk u then regs (fun r => r.putOpd f .one x.lane (if isP f then v.toNat % 2 else v.toNat % 2 ^ 32)) else none
  | 1 =>
    if !sliceOk then none
    else match x.index with
      | 0 =>
        -- the gang no longer stands where it slept, waited or went past a comparator
        let s := (quitAll s u).modUnit u.place (fun y => { y with
          ctl := { y.ctl with mxBusy := y.ctl.mxBusy && decide (v = y.ctl.mxPc), skipBp := y.ctl.skipBp.filter (fun b => decide (b.1 ≠ g)) },
          book := { y.book with modeSince := smDel y.book.modeSince g } })
        (slice s (fun sl => { sl with pc := v, atRegang := false })).map (fun s => s.modUnit u.place Unit.pruneSleeps)
      | 1 => slice s (fun sl => { sl with active := v.extractLsb' 0 4, live := v.extractLsb' 4 4 })
      | 2 => slice s (fun sl => { sl with gang := bits v 4 0, strand := bits v 12 8 })
      | 3 =>
        if 16 < bits v 4 0 ∨ 4 < bits v 10 8 then none
        else let (s, y) := setDepths s (u.slice x.lane) (bits v 4 0) (bits v 10 8); slice s (fun _ => y)
      | _ => none
  | 2 =>
    if !sliceOk || decide (16 ≤ x.entry ∨ 2 ≤ x.index) then none
    else
      let (s, e) := rEntry s (u.slice x.lane) x.entry
      slice s (fun sl => sl.putR x.entry (if x.index = 0 then { e with pc := v } else { e with mask := v.extractLsb' 0 4 }))
  | 3 =>
    if !sliceOk || decide (4 ≤ x.entry ∨ 3 ≤ x.index) then none
    else
      let (s, e) := lEntry s (u.slice x.lane) x.entry
      slice s (fun sl => sl.putL x.entry (if x.index = 0 then { e with count := loWord v } else if x.index = 1 then { e with start := v } else { e with last := v }))
  -- smode, sfstat and sfstat_clr are RO or RC, so the write is ignored (R3, R50); one to the others sets err
  | 4 => if x.index < 3 then some s else none
  | _ =>
    if u.engine ≠ .mcc then none
    else if x.index < 4 ∧ x.entry < 4 then regs (fun r => { r with fb := modAt r.fb x.index (fun b => putBits b (64 * x.entry + 63) (64 * x.entry) v.toNat) })
    else if x.index = 4 then regs (fun r => { r with mxpi := loWord v })
    else none

/-- The unit that dw_data reaches, in a state that allows it. -/
def dwUnit (s : State) (die core : Nat) (x : DwSel) : Option Unit := if 6 ≤ x.space then none else (selUnit s die core x.unit).filter inspectable

def dwErr (s : State) (die core : Nat) : State := s.modCore die core (fun k => { k with dwErr := true })

/-- Where a word of the Ladle region lies (R52, space 6). -/
def ladleWord (die core : Nat) (x : DwSel) : Nat := locVault die (quadOf core) (0x7E0000 + 8 * (256 * x.entry + x.index))

def dwDataRead (s : State) (die core : Nat) : State × DWord :=
  let x := dwSelOf (s.core die core).dwSel
  if x.space = 6 then (if x.entry < 64 then (s, BitVec.ofNat 64 (s.rd (ladleWord die core x) 8)) else (dwErr s die core, 0))
  else match dwUnit s die core x with
    | none => (dwErr s die core, 0)
    | some u => match dwGetUnit s u x with
      | (s, some v) => (s, v)
      | (s, none) => (dwErr s die core, 0)

def dwDataWrite (s : State) (die core : Nat) (v : DWord) : State :=
  let x := dwSelOf (s.core die core).dwSel
  if x.space = 6 then
    (if x.entry < 64 && (s.quad die (quadOf core)).bins.all (fun b => decide (b.state = .free)) then s.wr (ladleWord die core x) 8 v.toNat else dwErr s die core)
  else match dwUnit s die core x with
    | none => dwErr s die core
    | some u => (dwPutUnit s u x v).getD (dwErr s die core)

def execEvDwDataRead (die core : Nat) (s : State) : Res := let (s, v) := dwDataRead (wakeCore s die core) die core; .next (reply s (.reg v))
def execEvDwDataWrite (die core : Nat) (w : DWord) (s : State) : Res := .next (dwDataWrite (wakeCore s die core) die core w)

/-! ## The window as an address range (R51, R52, R467) -/

/-- The core and offset of a debug-window address. -/
def dwAddr (va : Nat) : Option (Nat × Nat × Nat) :=
  let off := va % 2 ^ 48
  let (die, core) := (off / 2 ^ 32, off / 2 ^ 16 % 2 ^ 16)
  if va / 2 ^ 48 = 0x0F8 ∧ die < 4 ∧ core < 240 then some (die, core, off % 2 ^ 16) else none

/-- The register whose slot lies at an offset. -/
def dwSlot (off : Nat) : Option Nat := if 0x1000 ≤ off ∧ off < 0x1600 then some (0x40 + (off - 0x1000) / 8) else none

def dwLoad (s : State) (die core off : Nat) : State × DWord :=
  match dwSlot off with
  | some n => let (s, w) := readReg s die core n; (s, w.setWidth 64)
  | none => match off with
    | 0x0000 => (s, (s.core die core).dwSel)
    | 0x0008 => dwDataRead s die core
    | 0x0010 => (s, BitVec.ofNat 64 (b2n (s.core die core).dwErr 0))
    | _ => (s, 0)

def dwStore (s : State) (die core off : Nat) (v : DWord) : State :=
  match dwSlot off with
  | some n => writeReg s die core n (loWord v)
  | none => match off with
    | 0x0000 => s.modCore die core (fun k => { k with dwSel := v &&& 0x00FFFFFF00F000FF })
    | 0x0008 => dwDataWrite s die core v
    | 0x0010 => s.modCore die core (fun k => { k with dwErr := k.dwErr && !bit v 0 })
    | _ => s

/-! ## Comparators (R416 to R418) -/

/-- The comparators that cover a unit: those of its core, which for an MCC thread is core-within-quad 0 of its quad. -/
def comparators (s : State) (u : Unit) : List Comparator := if u.isSup then [] else (s.core u.place.die u.place.core).bps

def bpTest (op : Nat) (x imm : Word) : Bool :=
  match op with
  | 0 => decide (x = imm)
  | 1 => decide (x ≠ imm)
  | 2 => decide (x.toInt < imm.toInt)
  | 3 => decide (imm.toInt ≤ x.toInt)
  | 4 => decide (x.toNat < imm.toNat)
  | 5 => decide (imm.toNat ≤ x.toNat)
  | 6 => decide (x &&& imm ≠ 0)
  | _ => true

/-- The tested operand in a lane: a v register that the unit lacks reads as 0, and so does a k register past k15 of a thread. -/
def bpValue (s : State) (u : Unit) (f : Fld) (lane : Nat) : Word :=
  if (src f .one).kindOk u then BitVec.ofNat 32 (readOpd s u (src f .one) false lane) else 0

/-- Whether a comparator fires at an issue (R417). -/
def bpFires (s : State) (iss : Issue) (c : Comparator) : Bool :=
  let f : Fld := c.ctl.extractLsb' 16 8
  let op := bits c.ctl 26 24
  let t (l : Nat) : Bool := bpTest op (bpValue s iss.u f l) c.imm
  bit c.ctl 31 && decide (pairOf c.pcLo c.pcHi = iss.pc) && (bit c.ctl 28 || decide (bits c.ctl 15 0 = iss.u.ident.asid)) && !isQ f &&
    (decide (op = 7) || (!iss.lanes.isEmpty && (if bit c.ctl 30 then iss.lanes.all t else iss.lanes.any t)))

/-- The comparator that fires at an issue: the lowest. -/
def comparatorAt (s : State) (iss : Issue) : Option (Nat × Comparator) :=
  if iss.u.ctl.skipBp.contains (iss.gang, iss.pc) then none
  else ((comparators s iss.u).zipIdx.find? (fun (c, _) => bpFires s iss c)).map (fun (c, n) => (n, c))

/-- The record of a fire; tag and entry as R413 and R414 give them. -/
def fireRecord (s : State) (iss : Issue) (n : Nat) : State :=
  let u := iss.u
  traceWrite s u.place.die 4 (traceRecord 4 n u.ident.asid (placeWord u.place (ownPkg s)) (nowOf s u.place.die) iss.pc ((u.ident.act.map (·.tag)).getD 0xFFFFFFFF) u.ident.serial)

/-- The gang goes past comparators once, at this pc. -/
def skipNext (s : State) (iss : Issue) : State :=
  s.modUnit iss.u.place (fun u => u.modCtl (fun c => { c with skipBp := (iss.gang, iss.pc) :: c.skipBp.filter (fun b => decide (b.1 ≠ iss.gang)) }))

/-- A fire with act = 0 stops the unit with FLT_BKPT before the instruction; one with act = 1 only writes its record. -/
def fire (s : State) (iss : Issue) (n : Nat) (c : Comparator) : State :=
  let s := skipNext (fireRecord s iss n) iss
  if bit c.ctl 29 then s else takeFault s iss { fault .bkpt with detail := BitVec.ofNat 64 (0x100 + n) } iss.lanes

/-- COMPARATOR_FIRE: comparator n fires at the next issue of a gang. -/
def execEvComparatorFire (p : Place) (gang n : Nat) (s : State) : Res :=
  match issueAt s p gang true with
  | none => .next s
  | some iss =>
    match comparatorAt s iss with
    | some (m, c) => .next (if m = n ∧ iss.u.ctl.run = .ready then fire s iss n c else s)
    | none => .next s

/-! ## HALT_TAKES_EFFECT (R159) -/

/-- The irrevocable attempts of a unit that halts end as a save ends them, so that nothing waits on it for a Riser or a line (R27; log entry 104). -/
def endIrrevocable (s : State) (p : Place) : State :=
  match s.unit? p with
  | none => s
  | some u =>
    match u.txLanes.filter (fun l => (smGet LaneTx.idle u.tx l).irrev) with
    | [] => s
    | ls => (doomLanes s p ls 1).modUnit p (fun x =>
        { x with tx := x.tx.map (fun (q : Nat × LaneTx) => if ls.contains q.1 then (q.1, { q.2 with uncounted := true }) else q) }.doomGo)

/-- An MCC thread that halts holds nothing up: an MXST or MXRD stops at its row, and its place at a swap of planes or at the reservation table is free
(R27). -/
def leaveMatrix (s : State) (p : Place) : State := (s.unit? p).elim s (fun u => if u.engine = .mcc then leaveEngine (dropJob s u) p else s)

/-- A unit with its halt flag set halts at its instruction boundary; a sleeping or waiting unit is at one, and a thread whose MXST or MXRD is in progress at
each row (R284). A load of weights in progress ends first. -/
def execEvHaltTakesEffect (p : Place) (s : State) : Res :=
  let loads := (s.jobOf p).elim false (fun j => decide (j.kind = .load))
  let t := s.modUnit p (fun u => if u.ctl.haltFlag ∧ u.ctl.run = .ready ∧ loads = false then u.modCtl (fun c => { c with halted := true }) else u)
  .next (if (t.unit? p).elim false (fun u => u.ctl.halted) then leaveMatrix (endIrrevocable t p) p else t)

end Sys2Proof.Machine
end

