-- ==== Sys2Proof/Machine/Access.lean ====
section
/-! DEFINITION. A lane's accesses as its instructions make them: ordinary ones, the supervisor's debug window, and the logged accesses of a
transaction (R164, R188, R205, R207, R221 to R223, R227). -/

namespace Sys2Proof.Machine

/-- How a lane's access ends without a result: its transaction was doomed or its attempt starts again, so the instruction does no more in the
lane; or the lane meets a fault; or it must wait. -/
inductive AccStop where
  | gone (s : State)
  | flt (f : FaultInfo) (s : State)
  | wait (r : Stall) (s : State)
  deriving DecidableEq, Repr

abbrev Acc (α : Type) := Except AccStop α

/-- An ordinary access: a fault or a wait leaves the state as it was. -/
def plainAcc {α : Type} (s : State) (x : Except Err α) : Acc α :=
  match x with
  | .ok a => .ok a
  | .error (.flt c va) => .error (.flt (faultVa c va) s)
  | .error (.wait r) => .error (.wait r s)

/-- The lanes of an instruction in increasing order, each with its value (R192, R207). -/
def eachLane {α : Type} (f : State → Nat → α → Acc State) : State → List (Nat × α) → Run
  | s, [] => .ok s
  | s, (l, x) :: rest =>
    match f s l x with
    | .ok s => eachLane f s rest
    | .error (.gone s) => eachLane f s rest
    | .error (.flt fi s) => .error (.flt fi (l :: rest.map (·.1)) s)
    | .error (.wait r s) => .error (.wait r (l :: rest.map (·.1)) s)

/-- An instruction that acts once for all its lanes: the lowest that can acts for them (R30). f takes the lanes that get the result. -/
def eachOnce {α : Type} (f : List Nat → State → Nat → α → Acc State) : State → List (Nat × α) → Run
  | s, [] => .ok s
  | s, (l, x) :: rest =>
    match f (l :: rest.map (·.1)) s l x with
    | .ok s => .ok s
    | .error (.gone s) => eachOnce f s rest
    | .error (.flt fi s) => .error (.flt fi (l :: rest.map (·.1)) s)
    | .error (.wait r s) => .error (.wait r (l :: rest.map (·.1)) s)

/-- Once for all lanes, or each lane for itself. -/
def byLanes {α : Type} (once : Bool) (f : List Nat → State → Nat → α → Acc State) (s : State) (xs : List (Nat × α)) : Run :=
  if once then eachOnce f s xs else eachLane (fun s l x => f [l] s l x) s xs

/-! ## A lane's transaction -/

def laneTx (s : State) (p : Place) (lane : Nat) : LaneTx := (s.unit? p).elim LaneTx.idle (fun u => smGet LaneTx.idle u.tx lane)

def inTx (s : State) (p : Place) (lane : Nat) : Bool := let t := laneTx s p lane; t.inTx && !t.doomed

def modTx (s : State) (p : Place) (lane : Nat) (f : LaneTx → LaneTx) : State :=
  s.modUnit p (fun u => { u with tx := smSet LaneTx.idle u.tx lane (f (smGet LaneTx.idle u.tx lane)) })

/-- A fault of a logged access dooms the lane, and its packet is flagged (R223). -/
def txFault (s : State) (iss : Issue) (lane : Nat) (c : Cause) (va : DWord) : State :=
  txPacket (doomLane s iss.p lane 5 0) iss.u c iss.pc va lane

/-- A log is full: the lane is doomed, but an irrevocable attempt raises FLT_TXCAP (R221, R227). -/
def txOverflow (s : State) (iss : Issue) (lane cause : Nat) (va : DWord) : AccStop :=
  if (laneTx s iss.p lane).irrev then .flt (faultVa .txcap va) s else .gone (doomLane s iss.p lane cause 0)

/-- A lane steps aside, so that the other lanes of its slice do not wait for it: a resume entry takes it on from a pc of its own (R26, R227; the entry is
the model's choice, log entry 62). Such an entry may lie beyond the depth of the stack. -/
def Slice.aside (sl : Slice) (lane : Nat) (pc : DWord) : Slice :=
  let sl := { sl with active := sl.active &&& ~~~(laneBit lane) }
  match sl.rstack with
  | e :: rest => if e.mask ≠ 0 ∧ e.pc = pc then { sl with rstack := { e with mask := e.mask ||| laneBit lane } :: rest }
                 else { sl with rstack := { pc := pc, mask := laneBit lane } :: sl.rstack }
  | [] => { sl with rstack := [{ pc := pc, mask := laneBit lane }] }

def stepAside (s : State) (iss : Issue) (lane : Nat) (pc : DWord) : State :=
  s.modUnit iss.p (fun u => { u with slices := modAt u.slices (laneSlice lane) (fun sl => sl.aside lane pc) })

/-- Start an irrevocable attempt again, for the Risers of all dies: its logs, locks and Riser go, and the lane steps aside to its TXB (R227). -/
def txRestart (s : State) (iss : Issue) (lane : Nat) : State :=
  let s := freeRisers s iss.p lane
  let s := modTx s iss.p lane (fun t => { t with inTx := false, multi := true, reads := [], writes := [], locks := [], risers := [] })
  stepAside s iss lane (laneTx s iss.p lane).txb

/-- An irrevocable attempt locks a line at its first access (R227). The writes on their way to it are performed first, so that what it then reads stays
current until it commits (R202). -/
def txLock (s : State) (iss : Issue) (lane pa : Nat) : Acc State :=
  let t := laneTx s iss.p lane
  if t.locks.contains (pa / 128) then .ok s
  else if paDie pa ≠ iss.p.die ∧ t.risers.length < 4 then .error (.gone (txRestart s iss lane))
  else
    let s := (List.range 4).foldl (fun s d => drainWts s d (fun w => decide (w.pa / 128 = pa / 128))) s
    .ok (modTx s iss.p lane (fun t => { t with locks := (pa / 128) :: t.locks }))

/-- The physical line of a VA: as recorded at the fill, or translated (R173). -/
def lineHome (s : State) (w : Who) (va : Nat) : Except Err (State × Nat) :=
  match (s.die w.die).l2.find? (fun l => l.hits (nbits va 56 7) w.asid (s.die w.die).regs.gen) with
  | some l => .ok (s, l.pa)
  | none =>
    match translate s w.die w.asid va with
    | .error (.flt c _) => .error (.flt c (BitVec.ofNat 64 va))
    | .error e => .error e
    | .ok (s, x) => .ok (s, x.pa + va % 2 ^ x.size)

/-- What a logged access checks of one line (R173, R222, R223, R224, R227). -/
def txLine (s : State) (iss : Issue) (lane : Nat) (need : Need) (va : Nat) : Acc State :=
  let w := whoOf s iss.u lane
  match lineHome s w va with
  | .error (.wait r) => .error (.wait r s)
  | .error (.flt c a) => .error (.gone (txFault s iss lane c a))
  | .ok (s1, pa) =>
    if !ownDevice s1 pa then .error (.gone (doomLane s1 iss.p lane 7 0))
    else
      match checkLine s1 w need va with
      | .error (.wait r) => .error (.wait r s)
      | .error (.flt c a) => .error (.gone (txFault s iss lane c a))
      | .ok (s, l) => if (laneTx s iss.p lane).irrev then txLock s iss lane l.pa else .ok s

def txLines (s : State) (iss : Issue) (lane : Nat) (need : Need) : List (Nat × Nat) → Acc State
  | [] => .ok s
  | (va, _) :: ps =>
    match txLine s iss lane need va with
    | .error e => .error e
    | .ok s => txLines s iss lane need ps

/-- Everything that a logged access checks before it is entered. -/
def txEnter (s : State) (iss : Issue) (lane : Nat) (need : Need) (va n : Nat) : Acc State :=
  if 2 ^ 57 ≤ va + n - 1 then .error (.gone (txFault s iss lane .prot (BitVec.ofNat 64 va)))
  else if 0x00F0000000000000 ≤ va + n - 1 then .error (.gone (doomLane s iss.p lane 5 0))
  else txLines s iss lane need (piecesOf va n)

/-- The aligned words that n bytes at va touch: each word's address, its first byte taken, and how many (R221). -/
def wordParts (va n : Nat) : List (Nat × Nat × Nat) :=
  (List.range ((va + n - 1) / 8 - va / 8 + 1)).map (fun i =>
    let a := (va / 8 + i) * 8
    (a, max va a - a, min (va + n) (a + 8) - max va a))

/-- old with the bytes of mask m taken from new. -/
def wordMerge (old new : DWord) (m : BitVec 8) : DWord :=
  let x := BitVec.ofNat 64 (expandMask 8 m.toNat)
  (old &&& ~~~x) ||| (new &&& x)

/-- The mask of n bytes from lo within a word. -/
def wordSpan (lo n : Nat) : BitVec 8 := BitVec.ofNat 8 ((2 ^ n - 1) * 2 ^ lo)

/-- The word as the write log changes it. -/
def overWrites (t : LaneTx) (a : Nat) (x : DWord) : DWord :=
  match t.writes.find? (fun e => decide (e.addr = a)) with
  | some e => wordMerge x e.val e.mask
  | none => x

/-- A logged load of some bytes of one word (R221). -/
def txReadWord (s : State) (iss : Issue) (lane a lo n : Nat) : Acc (State × Nat) :=
  let t := laneTx s iss.p lane
  let part (x : DWord) : Nat := nbits x.toNat (8 * (lo + n) - 1) (8 * lo)
  let held := (t.writes.find? (fun e => decide (e.addr = a))).elim 0 (·.mask)
  if wordSpan lo n &&& ~~~held = 0 then .ok (s, part (overWrites t a 0))
  else
    match t.reads.find? (fun e => decide (e.addr = a)) with
    | some e => .ok (s, part (overWrites t a e.val))
    | none =>
      if 16 ≤ t.reads.length then .error (txOverflow s iss lane 2 (BitVec.ofNat 64 a))
      else
        match (if t.irrev then readHome s (whoOf s iss.u lane) needR a 8 else readLine s (whoOf s iss.u lane) needR a 8) with
        | .error (.wait r) => .error (.wait r s)
        | .error (.flt c va) => .error (.gone (txFault s iss lane c va))
        | .ok (s, x) =>
          let v := BitVec.ofNat 64 x
          .ok (modTx s iss.p lane (fun t => { t with reads := t.reads ++ [{ addr := a, val := v }] }), part (overWrites t a v))

def txReadWords (s : State) (iss : Issue) (lane : Nat) : List (Nat × Nat × Nat) → Acc (State × Nat)
  | [] => .ok (s, 0)
  | (a, lo, n) :: ps =>
    match txReadWord s iss lane a lo n with
    | .error e => .error e
    | .ok (s, v) =>
      match txReadWords s iss lane ps with
      | .error e => .error e
      | .ok (s, r) => .ok (s, v + 256 ^ n * r)

/-- The words that a load would add to the read log. -/
def newReads (t : LaneTx) (va n : Nat) : Nat :=
  ((wordParts va n).filter (fun (a, lo, k) =>
    !t.reads.any (fun e => decide (e.addr = a)) && decide (wordSpan lo k &&& ~~~((t.writes.find? (fun e => decide (e.addr = a))).elim 0 (·.mask)) ≠ 0))).length

/-- The words that a store would add to the write log. -/
def newWrites (t : LaneTx) (va n : Nat) : Nat := ((wordParts va n).filter (fun (a, _, _) => !t.writes.any (fun e => decide (e.addr = a)))).length

def txLoad (s : State) (iss : Issue) (lane va n : Nat) : Acc (State × Nat) :=
  match txEnter s iss lane needR va n with
  | .error e => .error e
  | .ok s =>
    let t := laneTx s iss.p lane
    if 16 < t.reads.length + newReads t va n then .error (txOverflow s iss lane 2 (BitVec.ofNat 64 va))
    else txReadWords s iss lane (wordParts va n)

/-- Enter bytes into the write log (R221). -/
def logWrite (t : LaneTx) (a : Nat) (v : DWord) (m : BitVec 8) : LaneTx :=
  if t.writes.any (fun e => decide (e.addr = a)) then
    { t with writes := t.writes.map (fun e => if e.addr = a then { e with val := wordMerge e.val v m, mask := e.mask ||| m } else e) }
  else { t with writes := t.writes ++ [{ addr := a, val := wordMerge 0 v m, mask := m }] }

def logWrites (t : LaneTx) : List (Nat × Nat × Nat) → Nat → LaneTx
  | [], _ => t
  | (a, lo, n) :: ps, v => logWrites (logWrite t a (BitVec.ofNat 64 (v % 256 ^ n * 256 ^ lo)) (wordSpan lo n)) ps (v / 256 ^ n)

def txStore (s : State) (iss : Issue) (lane va n v : Nat) : Acc State :=
  match txEnter s iss lane needW va n with
  | .error e => .error e
  | .ok s =>
    let t := laneTx s iss.p lane
    if 8 < t.writes.length + newWrites t va n then .error (txOverflow s iss lane 3 (BitVec.ofNat 64 va))
    else .ok (modTx s iss.p lane (fun t => logWrites t (wordParts va n) v))

/-! ## Loads and stores of a lane -/

/-- The debug and system register windows, which only the supervisor may use and only with aligned 8-byte accesses (R51, R52). -/
def dwSpot (u : Unit) (va n : Nat) : Option (Nat × Nat × Nat) := if u.isSup = true ∧ n = 8 ∧ va % 8 = 0 then dwAddr va else none

/-- What an access of a window waits for: a gated core to power up (R431), or, for a change of chan_owner, a flip that the Flask may lie under (R244,
R298). -/
def dwWaits (s : State) (die core off : Nat) (wr : Bool) : Option AccStop :=
  if (s.core die core).gated then some (.wait .structural (startWake s die core))
  else if wr && decide (dwSlot off = some 0x81) && deviceWaits s then some (.wait .load s)
  else none

/-- A load outside the logs. -/
def directLoad (s : State) (iss : Issue) (lane va n : Nat) : Acc (State × Nat) :=
  match dwSpot iss.u va n with
  | some (die, core, off) => match dwWaits s die core off false with
    | some e => .error e
    | none => let (s, v) := dwLoad s die core off; .ok (s, v.toNat)
  | none => plainAcc s (load s (whoOf s iss.u lane) va n)

/-- A store outside the logs. -/
def directStore (s : State) (iss : Issue) (lane va n v : Nat) : Acc State :=
  match dwSpot iss.u va n with
  | some (die, core, off) => match dwWaits s die core off true with
    | some e => .error e
    | none => .ok (dwStore s die core off (BitVec.ofNat 64 v))
  | none => plainAcc s (store s (whoOf s iss.u lane) va n v)

/-- Whether another lane of the gang holds a line of the access locked by its irrevocable attempt. -/
def heldInGang (s : State) (iss : Issue) (lane va n : Nat) : Bool :=
  match s.unit? iss.p with
  | none => false
  | some u =>
    let ls := (lanesIn (fun i => (u.slice i).live) iss.slices).filter (fun l => decide (l ≠ lane))
    (ls.any (fun l => !(smGet LaneTx.idle u.tx l).locks.isEmpty)) &&
      (piecesOf va n).any (fun p => match lineHome s (whoOf s iss.u lane) p.1 with
        | .ok (_, pa) => ls.any (fun l => (smGet LaneTx.idle u.tx l).locks.contains (pa / 128))
        | .error _ => false)

/-- A lane that meets a line locked by another lane of its own gang steps aside at its access and waits there for the unlock, since the gang could
otherwise not go on to it (R26, R224; log entry 62). -/
def yieldTo {α : Type} (iss : Issue) (lane va n : Nat) (x : Acc α) : Acc α :=
  match x with
  | .error (.wait .load s) =>
    if heldInGang s iss lane va n then .error (.gone (stepAside s iss lane iss.pc)) else x
  | _ => x

def laneLoad (s : State) (iss : Issue) (lane va n : Nat) : Acc (State × Nat) :=
  yieldTo iss lane va n (if inTx s iss.p lane then txLoad s iss lane va n else directLoad s iss lane va n)

def laneStore (s : State) (iss : Issue) (lane va n v : Nat) : Acc State :=
  yieldTo iss lane va n (if inTx s iss.p lane then txStore s iss lane va n v else directStore s iss lane va n v)

/-- What an unlogged access of LDN or STN meets in a transaction before it is made: the window region dooms the lane with cause "fault", and a home
outside the package with cause "pod" (R222). -/
def unloggedStop (s : State) (iss : Issue) (lane va n : Nat) : Option State :=
  if !inTx s iss.p lane then none
  else if 0x00F0000000000000 ≤ va + n - 1 ∧ va + n - 1 < 2 ^ 57 then some (doomLane s iss.p lane 5 0)
  else if (piecesOf va n).any (fun p => match lineHome s (whoOf s iss.u lane) p.1 with
      | .ok (s1, pa) => !ownDevice s1 pa
      | .error _ => false) then some (doomLane s iss.p lane 7 0)
  else none

/-- A load or store outside the logs, in a transaction or out of one (R226). -/
def bareLoad (s : State) (iss : Issue) (lane va n : Nat) : Acc (State × Nat) :=
  match unloggedStop s iss lane va n with
  | some t => .error (.gone t)
  | none => yieldTo iss lane va n (directLoad s iss lane va n)

def bareStore (s : State) (iss : Issue) (lane va n v : Nat) : Acc State :=
  match unloggedStop s iss lane va n with
  | some t => .error (.gone t)
  | none => yieldTo iss lane va n (directStore s iss lane va n v)

/-! ## Conflicts detected early (R222) -/

/-- The lines that a cache has filled since an earlier state of it. -/
def filledLines (old new : List Line) : List Line :=
  new.filter (fun l => decide (l.valid = allBytes) && !old.any (fun o => sameLine o l && decide (o.gen = l.gen) && (decide (o.valid = allBytes) || decide (o.dirty ≠ l.dirty))))

/-- Whether a filled line shows a logged word with another value. -/
def showsOther (ls : List Line) (asid gen : Nat) (e : RLog) : Bool :=
  match ls.find? (fun l => l.hits (nbits e.addr 56 7) asid gen) with
  | some l => decide (lineGet l.bytes (e.addr % 128) 8 ≠ e.val.toNat)
  | none => false

/-- Doom the lanes of a die whose read logs a fill of their core's L1, or of the die's L2, contradicts. -/
def earlyConflicts (s0 s : State) (die core : Nat) : State :=
  let us := s.units.filter (fun u => decide (u.place.die = die) && !u.txLanes.isEmpty)
  if us.isEmpty then s
  else
    let l2 := filledLines (s0.die die).l2 (s.die die).l2
    let l1 := if core < 240 then filledLines (s0.core die core).l1 (s.core die core).l1 else []
    us.foldl (fun s u =>
      let ls := if u.place.core = core then l1 ++ l2 else l2
      let bad (l : Nat) : Bool := !(smGet LaneTx.idle u.tx l).irrev && (smGet LaneTx.idle u.tx l).reads.any (showsOther ls (asidOf s u) (s.die die).regs.gen)
      match u.txLanes.filter bad with
      | [] => s
      | bs => (doomLanes s u.place bs 1).modUnit u.place Unit.doomGo) s

/-- The fills that an instruction made, from the state it issued in. -/
def afterMem (s : State) (r : Res) : Res :=
  match issueOf s false, r with
  | some iss, .next s' => .next (earlyConflicts s s' iss.p.die iss.p.core)
  | _, r => r

/-- An instruction that accesses memory: the frame, then the fills it made. -/
def memFrame (s : State) (d : Desc) (body : Issue → State → Run) : Res := afterMem s (frame s d body)

/-- The latency monitor takes one value for a load instruction (R407, source 1); the time a load takes is open, so the value is a free value. -/
def loadEvent (s : State) (u : Unit) : State :=
  if (s.die u.place.die).mons.isEmpty then s
  else let (s, v) := s.free; monEvent s u.place.die 1 u.ident.asid (quadOf u.place.core) false v.toNat

end Sys2Proof.Machine
end

