-- ==== Sys2Proof/Machine/MemInstr.lean ====
section
/-! DEFINITION. Opcodes 0x90 to 0xA7, LDN and STN: loads, stores, acquire loads, release stores, multicast stores and prefetches (R179, R188, R189,
R205 to R210, R226, R307). -/

namespace Sys2Proof.Machine

/-! ## Effective addresses (R205) -/

/-- Form A: a base pair and a sign-extended 32-bit offset. -/
def eaReg (x : List Nat) : Nat := (((x0 x : Nat) : Int) + sint 32 (x1 x)).emod (2 ^ 64 : Nat) |>.toNat

/-- Form I: a base pair and an immediate scaled by the access size. -/
def eaImm (i : BitVec 8) (size : Nat) (x : List Nat) : Nat := (((x0 x : Nat) : Int) + simm i * size).emod (2 ^ 64 : Nat) |>.toNat

def eaBase (x : List Nat) : Nat := x0 x

/-- The group of an access of n bytes (R205). -/
def dataShape (n : Nat) : Shape := if n ≤ 4 then .one else if n = 8 then .pair else if n = 16 then .quad else .oct

/-- The lanes of an issue with a value made from each lane's sources. -/
def lanesWith {α : Type} (iss : Issue) (vs : List (List Nat)) (f : List Nat → α) : List (Nat × α) :=
  iss.lanes.zipIdx.map (fun p => (p.1, f (vs.map (fun c => c.getD p.2 0))))

/-- A lane's access through the window region or in a transaction has its own checks; every other access must be aligned where its instruction
asks it, before any effect (R188). -/
def needAligned {α : Type} (s : State) (iss : Issue) (n : Nat) (ea : α → Nat) (xs : List (Nat × α)) (go : Run) : Run :=
  match xs.find? (fun x => decide (ea x.2 % n ≠ 0) && !inTx s iss.p x.1) with
  | some x => .error (.flt (faultVa .align (BitVec.ofNat 64 (ea x.2))) iss.lanes s)
  | none => go

/-- In a transaction a misaligned access is a fault of a logged access (R223). -/
def txAligned {α : Type} (s : State) (iss : Issue) (lane va n : Nat) (go : Acc α) : Acc α :=
  if va % n ≠ 0 ∧ inTx s iss.p lane = true then .error (.gone (txFault s iss lane .align (BitVec.ofNat 64 va))) else go

/-! ## Plain loads and stores (R206, R207) -/

/-- One lane of a load: the value goes through ext and into the destination. -/
def loadLane (iss : Issue) (out : Opd) (size : Nat) (ext : Nat → Nat) (s : State) (lane va : Nat) : Acc State :=
  (laneLoad s iss lane va size).map (fun r => writeDst r.1 iss.u out [lane] [ext r.2])

def loadOp (s : State) (d : Desc) (out : Opd) (size : Nat) (ea : List Nat → Nat) (ext : Issue → Nat → Nat) : Res :=
  let d := { d with opds := d.opds ++ [out] }
  memFrame s d (fun iss s =>
    let (s, vs) := sources s iss d
    (eachLane (loadLane iss out size (ext iss)) s (lanesWith iss vs ea)).map (fun s => loadEvent s iss.u))

def loadReg (s : State) (size : Nat) (d a b : Fld) : Res :=
  loadOp s { opds := [src a .pair, src b .one] } (dst d (dataShape size)) size eaReg (fun _ x => x)

def loadImm (s : State) (size : Nat) (d a : Fld) (i : BitVec 8) : Res :=
  loadOp s { opds := [src a .pair] } (dst d (dataShape size)) size (eaImm i size) (fun _ x => x)

/-- The extension of LDB, LDH and LDBI: signed under i32, i64, i16x2 and i8x4 (R206). -/
def extend (size : Nat) (iss : Issue) (x : Nat) : Nat := if signedTy (modeType iss.u.regs.mode) then (sext (8 * size) 32 x).toNat else x

def loadShort (s : State) (size : Nat) (opds : List Opd) (d : Fld) (ea : List Nat → Nat) : Res :=
  loadOp s { types := some allTypes, opds := opds } (dst d .one) size ea (extend size)

def execLdb (d a b : Fld) (s : State) : Res := loadShort s 1 [src a .pair, src b .one] d eaReg
def execLdh (d a b : Fld) (s : State) : Res := loadShort s 2 [src a .pair, src b .one] d eaReg
def execLdw (d a b : Fld) (s : State) : Res := loadReg s 4 d a b
def execLdd (d a b : Fld) (s : State) : Res := loadReg s 8 d a b
def execLdq (d a b : Fld) (s : State) : Res := loadReg s 16 d a b
def execLdo (d a b : Fld) (s : State) : Res := loadReg s 32 d a b
def execLdwi (d a : Fld) (i : BitVec 8) (s : State) : Res := loadImm s 4 d a i
def execLddi (d a : Fld) (i : BitVec 8) (s : State) : Res := loadImm s 8 d a i
def execLdqi (d a : Fld) (i : BitVec 8) (s : State) : Res := loadImm s 16 d a i
def execLdbi (d a : Fld) (i : BitVec 8) (s : State) : Res := loadShort s 1 [src a .pair] d (eaImm i 1)

/-- One lane of a store; x is the address and the data. -/
def storeLane (iss : Issue) (size : Nat) (s : State) (lane : Nat) (x : Nat × Nat) : Acc State := laneStore s iss lane x.1 size (x.2 % 256 ^ size)

/-- A store: the data operand is named first. -/
def storeOp (s : State) (size : Nat) (d : Fld) (opds : List Opd) (ea : List Nat → Nat) : Res :=
  let ds : Desc := { opds := src d (dataShape size) :: opds }
  memFrame s ds (fun iss s =>
    let (s, vs) := sources s iss ds
    eachLane (storeLane iss size) s (lanesWith iss vs (fun x => (ea (x.drop 1), x0 x))))

def storeReg (s : State) (size : Nat) (d a b : Fld) : Res := storeOp s size d [src a .pair, src b .one] eaReg
def storeImm (s : State) (size : Nat) (d a : Fld) (i : BitVec 8) : Res := storeOp s size d [src a .pair] (eaImm i size)

def execStb (d a b : Fld) (s : State) : Res := storeReg s 1 d a b
def execSth (d a b : Fld) (s : State) : Res := storeReg s 2 d a b
def execStw (d a b : Fld) (s : State) : Res := storeReg s 4 d a b
def execStd (d a b : Fld) (s : State) : Res := storeReg s 8 d a b
def execStq (d a b : Fld) (s : State) : Res := storeReg s 16 d a b
def execSto (d a b : Fld) (s : State) : Res := storeReg s 32 d a b
def execStwi (d a : Fld) (i : BitVec 8) (s : State) : Res := storeImm s 4 d a i
def execStdi (d a : Fld) (i : BitVec 8) (s : State) : Res := storeImm s 8 d a i
def execStqi (d a : Fld) (i : BitVec 8) (s : State) : Res := storeImm s 16 d a i
def execStbi (d a : Fld) (i : BitVec 8) (s : State) : Res := storeImm s 1 d a i

/-! ## LDA, STL, LDN and STN (R193, R208, R226) -/

/-- The bytes of an access sized by the type: 8 under i64 and n64, else 4. -/
def typedSize (s : State) : Nat := if is64 (curType s) then 8 else 4

/-- The scope at which the ordering of an instruction acts: that of its first lane outside a transaction; none where every lane is in one. -/
def orderScope (s : State) (iss : Issue) (xs : List (Nat × Nat)) : Option Nat :=
  (xs.find? (fun x => !inTx s iss.p x.1)).map (fun x => scopeAt (whoOf s iss.u x.1) x.2 (modeScope iss.u.regs.mode))

/-- The acquire of an instruction, after its accesses. -/
def acquireAt (s : State) (iss : Issue) (sc : Option Nat) : State := match sc with
  | some k => acquire s (whoOf s iss.u 0) k
  | none => s

/-- The release of an instruction, before its accesses. -/
def releaseAt (s : State) (iss : Issue) (sc : Option Nat) : State := match sc with
  | some k => release s (whoOf s iss.u 0) k
  | none => s

/-- What a release write or RMW at die scope or wider tells the dispatchers (R266). -/
def noticeAt (s : State) (w : Who) (va scope : Nat) : State :=
  if scopeAt w va scope < 2 then s
  else match waitKey s w va 1 with
    | .ok (_, loc, _) => relNotice s loc
    | .error _ => s

def execLda (d a b : Fld) (s : State) : Res :=
  let n := typedSize s
  let out := dst d (dataShape n)
  let ds : Desc := { types := some allTypes, scope := true, opds := [src a .pair, src b .one, out] }
  memFrame s ds (fun iss s0 =>
    let (s, vs) := sources s0 iss ds
    let xs := lanesWith iss vs eaReg
    let sc := orderScope s iss xs
    needAligned s iss n id xs
      ((eachLane (fun s l va => txAligned s iss l va n (loadLane iss out n id s l va)) s xs).map (fun s => acquireAt (loadEvent s iss.u) iss sc)))

/-- One lane of STL: the store, and the notice of it. -/
def stlLane (iss : Issue) (n : Nat) (s : State) (lane : Nat) (x : Nat × Nat) : Acc State :=
  txAligned s iss lane x.1 n
    (yieldTo iss lane x.1 n
      (if inTx s iss.p lane then txStore s iss lane x.1 n (x.2 % 256 ^ n)
       else (directStore s iss lane x.1 n (x.2 % 256 ^ n)).map (fun s => noticeAt s (whoOf s iss.u lane) x.1 (modeScope iss.u.regs.mode))))

def execStl (d a b : Fld) (s : State) : Res :=
  let n := typedSize s
  let ds : Desc := { types := some allTypes, scope := true, opds := [src d (dataShape n), src a .pair, src b .one] }
  memFrame s ds (fun iss s0 =>
    let (s, vs) := sources s0 iss ds
    let xs := lanesWith iss vs (fun x => (eaReg (x.drop 1), x0 x))
    needAligned s iss n (·.1) xs (eachLane (stlLane iss n) (releaseAt s iss (orderScope s iss (xs.map (fun x => (x.1, x.2.1))))) xs))

/-- LDN and STN are unlogged, and take their faults by the ordinary responses even in a transaction (R226). -/
def alwaysAligned {α : Type} (s : State) (iss : Issue) (n : Nat) (ea : α → Nat) (xs : List (Nat × α)) (go : Run) : Run :=
  match xs.find? (fun x => decide (ea x.2 % n ≠ 0)) with
  | some x => .error (.flt (faultVa .align (BitVec.ofNat 64 (ea x.2))) iss.lanes s)
  | none => go

def execLdn (d a : Fld) (s : State) : Res :=
  let n := typedSize s
  let out := dst d (dataShape n)
  let ds : Desc := { types := some allTypes, opds := [src a .pair, out] }
  memFrame s ds (fun iss s0 =>
    let (s, vs) := sources s0 iss ds
    let xs := lanesWith iss vs eaBase
    alwaysAligned s iss n id xs
      ((eachLane (fun s l va => (bareLoad s iss l va n).map (fun r => writeDst r.1 iss.u out [l] [r.2])) s xs).map (fun s => loadEvent s iss.u)))

def execStn (d a : Fld) (s : State) : Res :=
  let n := typedSize s
  let ds : Desc := { types := some allTypes, opds := [src d (dataShape n), src a .pair] }
  memFrame s ds (fun iss s0 =>
    let (s, vs) := sources s0 iss ds
    let xs := lanesWith iss vs (fun x => (eaBase (x.drop 1), x0 x))
    alwaysAligned s iss n (·.1) xs (eachLane (fun s l x => bareStore s iss l x.1 n (x.2 % 256 ^ n)) s xs))

/-! ## STMC (R189, R210, R307) -/

/-- The bases of a group entry of the context's multicast group table. -/
def groupBases (s : State) (u : Unit) (g : Nat) : Except Err (State × List Nat) :=
  let asid := asidOf s u
  let mtab := asidField s u.place.die asid 0x10
  if mtab = 0 then .ok (s, List.replicate 8 0)
  else (sysRead s (sysWho u.place.die asid) (mtab + 64 * g) 64).map (fun (s, x) => (s, (List.range 8).map (fun i => fieldAt x (8 * i) 8)))

/-- The destinations that a mask selects. -/
def stmcDests (bases : List Nat) (mask offset : Nat) : List Nat :=
  bases.zipIdx.filterMap (fun (b, i) => if mask.testBit i && decide (b ≠ 0) then some ((b + offset) % 2 ^ 64) else none)

/-- Check every destination before any is written (R189). Where one is not present and another is denied or in the window region, the rule ranks neither:
the first that fails in mask order gives the outcome (log entry 103). -/
def stmcCheck (s : State) (w : Who) (n : Nat) : List Nat → Except Err State
  | [] => .ok s
  | va :: vas =>
    if 2 ^ 57 ≤ va + n - 1 then .error (.flt .prot (BitVec.ofNat 64 va))
    else if 0x00F0000000000000 ≤ va + n - 1 then .error (.flt .window (BitVec.ofNat 64 va))
    else
      match storeCheck s w va n with
      | .error e => .error e
      | .ok s => stmcCheck s w n vas

def stmcWrite (s : State) (w : Who) (n v : Nat) : List Nat → Except Err State
  | [] => .ok s
  | va :: vas =>
    match store s w va n v with
    | .error e => .error e
    | .ok s => stmcWrite s w n v vas

/-- One lane of STMC; x is the offset, the selector and the data. -/
def stmcLane (iss : Issue) (n : Nat) (s : State) (lane : Nat) (x : Nat × Nat × Nat) : Acc State :=
  plainAcc s (
    match groupBases s iss.u (nbits x.2.1 15 8) with
    | .error e => .error e
    | .ok (s, bases) =>
      let ds := stmcDests bases (nbits x.2.1 7 0) x.1
      match stmcCheck s (whoOf s iss.u lane) n ds with
      | .error e => .error e
      | .ok s => stmcWrite s (whoOf s iss.u lane) n (x.2.2 % 256 ^ n) ds)

def execStmc (d a b : Fld) (s : State) : Res :=
  let n := typedSize s
  let ds : Desc := { types := some allTypes, unlogged := true, opds := [src d (dataShape n), src a .pair, src b .one] }
  memFrame s ds (fun iss s0 =>
    let (s, vs) := sources s0 iss ds
    let xs := lanesWith iss vs (fun x => (x1 x, x2 x, x0 x))
    if xs.any (fun x => decide (65536 ≤ x.2.2.1)) then .error (.flt (fault .operand) iss.lanes s)
    else wholeLanes s iss (eachLane (stmcLane iss n) s xs))

/-! ## PREF and the arrival of its fill (R179, R209) -/

/-- The fill that a lane's prefetch asks for; one of the window region is dropped. -/
def prefLane (iss : Issue) (s : State) (lane va : Nat) : State :=
  if 0x00F0000000000000 ≤ va then s
  else
    let w := whoOf s iss.u lane
    let acq := match w.core with
      | some c => (s.core w.die c).acqs
      | none => 0
    s.modDie w.die (fun d => { d with fills := d.fills ++ [{ core := w.core, va := va, asid := w.asid, sup := w.sup, cclass := w.cclass, gen := d.regs.gen, acq := acq }] })

def execPref (a b : Fld) (s : State) : Res :=
  let ds : Desc := { opds := [src a .pair, src b .one] }
  frame s ds (fun iss s0 =>
    let (s, vs) := sources s0 iss ds
    .ok ((lanesWith iss vs eaReg).foldl (fun s x => prefLane iss s x.1 x.2) s))

def fillWho (die : Nat) (f : Fill) (core : Option Nat) : Who :=
  { sysWho die f.asid with core := core, sup := f.sup, cclass := f.cclass }

/-- A fill arrives: dropped where it would fault, installed only where R179 lets it: a remote-homed line nowhere once the die's generation has risen, a
local-homed one not in an L1 that an acquire has invalidated since, unless the core has registered it. -/
def arriveFill (s : State) (die : Nat) (f : Fill) : State :=
  match fillL2 s die f.asid f.va f.cclass with
  | .error _ => s
  | .ok (s1, l) =>
    if lockedOut s1 (fillWho die f none) needR l.pa || !l.allows f.sup needR || (l.remote && decide (f.gen ≠ (s.die die).regs.gen)) then s
    else match f.core with
      | none => s1
      | some c =>
        if l.remote || decide (f.acq = (s.core die c).acqs) || decide (l.owner = some c) then
          match readLine s1 (fillWho die f (some c)) needR f.va 1 with
          | .ok (s2, _) => earlyConflicts s s2 die c
          | .error _ => s1
        else earlyConflicts s s1 die c

def execEvFillArrival (die : Nat) (s : State) : Res :=
  match (s.die die).fills with
  | [] => .next s
  | f :: fs => .next (arriveFill (s.modDie die (fun d => { d with fills := fs })) die f)

/-! ## Write-throughs (R180, R181) -/

/-- The first bytes on their way reach their home and merge there. -/
def execEvWriteThroughArrival (die : Nat) (s : State) : Res :=
  match (s.die die).wts.find? (fun t => !t.arrived) with
  | none => .next s
  | some t =>
    let s := meetHome die s t
    let mark (ws : List WriteThrough) : List WriteThrough :=
      match ws.findIdx? (fun t => !t.arrived) with
      | some i => modAt ws i (fun t => { t with arrived := true })
      | none => ws
    .next (s.modDie die (fun d => { d with wts := mark d.wts }))

/-- The acknowledgement of the first merged bytes comes back. -/
def execEvWriteThroughAcknowledgement (die : Nat) (s : State) : Res :=
  match (s.die die).wts.findIdx? (fun t => t.arrived) with
  | none => .next s
  | some i => .next (s.modDie die (fun d => { d with wts := d.wts.eraseIdx i }))

end Sys2Proof.Machine
end

