-- ==== Sys2Proof/Machine/Atomics.lean ====
section
/-! DEFINITION. Opcodes 0xB0 to 0xD5: atomics, WAIT and WAKE, and barriers (R24, R25, R184, R211 to R219). -/

namespace Sys2Proof.Machine

/-! ## Atomics (R211 to R213) -/

/-- Arithmetic that reads no mode field: round to nearest even, no sat, no ftz (R213). -/
def atomicMode : FMode := { rm := .rne, sat := false, ftz := false }

def acquires (o : BitVec 2) : Bool := o.getLsbD 0
def releases (o : BitVec 2) : Bool := o.getLsbD 1

/-- One lane of an atomic: f gives the new value from the old one and the operand. x is the address and the operand, outs the lanes that get the
result. -/
def atomicLane (iss : Issue) (out : Opd) (o : BitVec 2) (n : Nat) (f : Nat → Nat → Nat) (outs : List Nat) (s : State) (lane : Nat) (x : Nat × Nat) : Acc State :=
  txAligned s iss lane x.1 n (yieldTo iss lane x.1 n
    (if inTx s iss.p lane then
      match txLoad s iss lane x.1 n with
      | .error e => .error e
      | .ok (s1, old) => (txStore s1 iss lane x.1 n (f old x.2 % 256 ^ n)).map (fun s => writeDst s iss.u out outs (outs.map (fun _ => old)))
    else
      let w := whoOf s iss.u lane
      let sc := scopeAt w x.1 (modeScope iss.u.regs.mode)
      (plainAcc s (rmw s w sc x.1 n (fun old => f old x.2 % 256 ^ n))).map (fun r =>
        let s := if releases o then noticeAt r.1 w x.1 sc else r.1
        writeDst s iss.u out outs (outs.map (fun _ => r.2)))))

/-- One RMW for all lanes: its sources are uniform and its destination of lane class (R30). In a transaction each lane keeps its own logs (DEDUCED, log
entry 124). -/
def onceAtomic (s : State) (iss : Issue) (opds : List Opd) : Bool := onceForAll iss.u opds && !iss.lanes.any (inTx s iss.p)

/-- An atomic. shape: the group of its operand. -/
def atomicOp (s : State) (o : BitVec 2) (types : List Nat) (d a b : Fld) (shape : Shape) (f : Nat → Nat → Nat → Nat) : Res :=
  let n := typedSize s
  let out := dst d (dataShape n)
  let ds : Desc := { types := some types, scope := true, opds := [src a .pair, src b shape, out] }
  memFrame s ds (fun iss s0 =>
    let (s, vs) := sources s0 iss ds
    let xs := lanesWith iss vs (fun x => (x0 x, x1 x))
    let sc := orderScope s iss (xs.map (fun x => (x.1, x.2.1)))
    needAligned s iss n (·.1) xs
      ((wholeLanes s iss (byLanes (onceAtomic s iss ds.opds) (atomicLane iss out o n (f (modeType iss.u.regs.mode))) (if releases o then releaseAt s iss sc else s) xs)).map
        (fun s => if acquires o then acquireAt s iss sc else s)))

/-- An atomic whose operand is one value of the type. -/
def atomicVal (s : State) (o : BitVec 2) (types : List Nat) (d a b : Fld) (f : Nat → Nat → Nat → Nat) : Res :=
  atomicOp s o types d a b (dataShape (typedSize s)) f

/-- AADD: integers wrap, and each element of a float type is added in its format. -/
def atomicAdd (ty old b : Nat) : Nat :=
  (perElem ty (fun x => if isFloatTy ty then (((floatFmt ty).add atomicMode (x0 x) (x1 x)).v, 0) else (fit ty false (elemInt ty (x0 x) + elemInt ty (x1 x)), 0)) [old, b]).1

def execAadd (o : BitVec 2) (d a b : Fld) (s : State) : Res := atomicVal s o [0, 1, 2, 3, 4, 5, 6] d a b atomicAdd
def execAmin (o : BitVec 2) (d a b : Fld) (s : State) : Res := atomicVal s o [0, 1, 2, 3, 4] d a b (fun ty old b => elemMinMax false ty false old b)
def execAmax (o : BitVec 2) (d a b : Fld) (s : State) : Res := atomicVal s o [0, 1, 2, 3, 4] d a b (fun ty old b => elemMinMax true ty false old b)
def execAand (o : BitVec 2) (d a b : Fld) (s : State) : Res := atomicVal s o scalarInt d a b (fun _ old b => old &&& b)
def execAor (o : BitVec 2) (d a b : Fld) (s : State) : Res := atomicVal s o scalarInt d a b (fun _ old b => old ||| b)
def execAxor (o : BitVec 2) (d a b : Fld) (s : State) : Res := atomicVal s o scalarInt d a b (fun _ old b => old ^^^ b)
def execAxch (o : BitVec 2) (d a b : Fld) (s : State) : Res := atomicVal s o [0, 1, 2, 3, 4, 5, 6] d a b (fun _ _ b => b)

/-- ACAS: b holds the compare below the new value. -/
def atomicCas (ty old b : Nat) : Nat :=
  let m := if is64 ty then 2 ^ 64 else 2 ^ 32
  if old = b % m then b / m else old

def execAcas (o : BitVec 2) (d a b : Fld) (s : State) : Res :=
  atomicOp s o [0, 1, 2, 3, 4, 5, 6] d a b (if is64 (curType s) then .quad else .pair) atomicCas

/-! ## Reading at the execution point (R184) -/

/-- The value of n aligned bytes as an RMW at the execution point of a scope reads it, with the permission of a load. -/
def readAt (s : State) (w : Who) (scope va n : Nat) : Except Err (State × Nat) :=
  match spot s w va n with
  | .ok .translated => readPoint s w (scopeAt w va scope) needR va n
  | .ok _ => readPiece s w needR va n
  | .error e => .error e

/-! ## Waiting lanes (R214, R216, R218) -/

/-- How WAIT or BWAIT waits: its kind, and what it finds at an address for its operand: the value it returns at once, or none. -/
structure WaitKind where
  bwait : Bool
  /-- the mode scope -/
  scope : Nat
  test : State → Who → Nat → Nat → Except Err (State × Option Word)

def waitOf (s : State) (p : Place) (lane : Nat) : Option LaneWait := (s.unit? p).bind (fun u => u.book.waits.find? (fun x => decide (x.lane = lane)))

def addLaneWait (s : State) (p : Place) (x : LaneWait) : State :=
  s.modUnit p (fun u => u.modBook (fun b => { b with waits := b.waits.filter (fun y => decide (y.lane ≠ x.lane)) ++ [x] }))

def dropLaneWait (s : State) (p : Place) (lane : Nat) : State := s.modUnit p (fun u => u.modBook (fun b => { b with waits := b.waits.filter (fun y => decide (y.lane ≠ lane)) }))

/-- Compare, and link the lane where the compare does not return at once; a full waiter area leaves it stalled (R216). -/
def startWait (s : State) (iss : Issue) (k : WaitKind) (shared : Bool) (lane va x : Nat) : Except Err (State × Option Word) :=
  let w := whoOf s iss.u lane
  match k.test s w va x with
  | .error e => .error e
  | .ok (s, some v) => .ok (s, some v)
  | .ok (s, none) =>
    match waitKey s w va 1 with
    | .error e => .error e
    | .ok (s, key, die) =>
      let e : LaneWait := { lane := lane, bwait := k.bwait, scope := k.scope, key := key, res := none, shared := shared, stall := none }
      match linkWaiter s die key (BitVec.ofNat 64 va) iss.u (asidOf s iss.u) lane k.bwait with
      | some s => .ok (addLaneWait s iss.p e, none)
      | none =>
        let s := s.modDie die (fun d => { d with waitStalls := if d.waitStalls.contains (iss.p, lane) then d.waitStalls else d.waitStalls ++ [(iss.p, lane)] })
        .ok (addLaneWait s iss.p { e with stall := some (va, x) }, none)

/-- A lane that found no free record compares again once one is free and it stands first (R216). -/
def retryWait (s : State) (iss : Issue) (k : WaitKind) (e : LaneWait) (va x : Nat) : Except Err (State × Option Word) :=
  match waitKey s (whoOf s iss.u e.lane) va 1 with
  | .error err => .error err
  | .ok (s, _, die) =>
    let q := (s.die die).waitStalls.filter (fun y => decide (y = (iss.p, e.lane)) || (s.unit? y.1).elim false (fun u => u.goes s))
    let first := match q.head? with
      | some y => decide (y = (iss.p, e.lane)) || !q.contains (iss.p, e.lane)
      | none => true
    if (freeWaiter s die).isNone || !first then .ok (s, none)
    else
      let s := s.modDie die (fun d => { d with waitStalls := d.waitStalls.filter (fun y => decide (y ≠ (iss.p, e.lane))) })
      startWait (dropLaneWait s iss.p e.lane) iss k e.shared e.lane va x

/-- One look at a lane: it starts, or goes on waiting, or has its value. -/
def pollLane (s : State) (iss : Issue) (k : WaitKind) (shared : Bool) (lane va x : Nat) : Except Err (State × Option Word) :=
  match waitOf s iss.p lane with
  | none => startWait s iss k shared lane va x
  | some e =>
    match e.res, e.stall with
    | some v, _ => .ok (s, some v)
    | none, some (va, x) => retryWait s iss k e va x
    | none, none => .ok (s, none)

/-- A lane keeps its value until the instruction can write it. -/
def keepResult (s : State) (iss : Issue) (k : WaitKind) (lane : Nat) (v : Word) : State :=
  let scope := ((waitOf s iss.p lane).map (·.scope)).getD k.scope
  addLaneWait s iss.p { lane := lane, bwait := k.bwait, scope := scope, key := 0, res := some v, shared := false, stall := none }

/-- How a poll of the lanes ends: those still waiting, the widest scope at which one that returns began its wait (R193), or the first lane that meets an
error with those after it. -/
structure Polled where
  s : State
  pending : List Nat
  back : Option Nat
  err : Option (Err × List Nat)

/-- One poll of the lanes in order. A lane that has its value writes it and waits no longer; for a queue register it keeps it, since the words of all lanes
move together (R32). -/
def pollLanes (iss : Issue) (k : WaitKind) (out : Opd) : Polled → List (Nat × Nat × Nat) → Polled
  | r, [] => r
  | r, (l, va, x) :: rest =>
    match pollLane r.s iss k false l va x with
    | .error e => { r with err := some (e, l :: rest.map (·.1)) }
    | .ok (s, none) => pollLanes iss k out { r with s := s, pending := r.pending ++ [l] } rest
    | .ok (s, some v) =>
      if isQ out.f then pollLanes iss k out { r with s := keepResult s iss k l v } rest
      else
        let sc := ((waitOf s iss.p l).map (·.scope)).getD k.scope
        pollLanes iss k out { r with s := writeDst (dropLaneWait s iss.p l) iss.u out [l] [v.toNat], back := some (max sc (r.back.getD 0)) } rest

/-- The slices whose lanes have all returned complete; the others go on waiting (R214). -/
def settlePoll (s : State) (iss : Issue) (pending : List Nat) : State :=
  if pending.isEmpty then complete s iss false
  else
    let waiting := dedup (pending.map laneSlice)
    let ended := iss.slices.filter (fun i => !waiting.contains i)
    let s := s.modUnit iss.p (fun u => { u with ctl := { u.ctl with done := doneAfter iss pending u.ctl.done } })
    let s := if ended.isEmpty then s else s.modUnit iss.p (finish { iss with slices := ended } false)
    doomedLeave (s.modUnit iss.p (fun u => u.modBook (fun b => { b with stall := smPut b.stall (u.slice (waiting.headD 0)).gang Stall.barrier.rank }))) iss.u

/-- The acquire of lanes that return, at the mode scope with which they began to wait (R193). -/
def returnAcquire (s : State) (iss : Issue) (scope : Nat) : State := acquire s (whoOf s iss.u 0) scope

/-- The results of a WAIT or BWAIT whose destination is a queue register: pushed as one set, in lane order, once every lane has its own (R32, R245). -/
def pushResults (s : State) (iss : Issue) (out : Opd) : State :=
  let us := queueUses iss.u [out] iss.lanes.length
  if queueReady s iss.u iss.gang us then
    let es := iss.lanes.filterMap (waitOf s iss.p)
    let s := returnAcquire (queueUnblock s iss.u iss.gang us) iss (es.foldl (fun m e => max m e.scope) 0)
    let s := writeDst s iss.u out iss.lanes (es.map (fun e => (e.res.getD 0).toNat))
    complete (iss.lanes.foldl (fun s l => dropLaneWait s iss.p l) s) iss false
  else blocked (queueBlock s iss.u iss.gang us) iss .queue iss.lanes

/-- An issue of WAIT or BWAIT by lanes, the operands of each lane read once, when it starts. -/
def pollIssue (s0 : State) (iss : Issue) (d : Desc) (out : Opd) (k : WaitKind) (align : Nat) : State :=
  let fresh := iss.lanes.filter (fun l => (waitOf s0 iss.p l).isNone)
  match queueFault s0 iss.u (d.opds ++ [out]) iss.lanes.length with
  | some c => takeFault s0 iss (fault c) iss.lanes
  | none =>
    let us := queueUses iss.u d.opds fresh.length
    if !fresh.isEmpty && !queueReady s0 iss.u iss.gang us then blocked (queueBlock s0 iss.u iss.gang us) iss .queue iss.lanes
    else
      let sq := queueUnblock s0 iss.u iss.gang us
      let (s, vs) := readAllOpds sq iss.u (d.types.isSome && signedTy (modeType iss.u.regs.mode)) fresh d.opds
      let xs := lanesWith { iss with lanes := fresh } vs (fun x => (x0 x, x1 x))
      match xs.find? (fun x => decide (x.2.1 % align ≠ 0)) with
      | some x => takeFault s0 iss (faultVa .align (BitVec.ofNat 64 x.2.1)) iss.lanes
      | none =>
        let todo := iss.lanes.map (fun l => (l, ((xs.find? (fun x => decide (x.1 = l))).map (·.2)).getD (0, 0)))
        let r := pollLanes iss k out { s := s, pending := [], back := none, err := none } todo
        let s1 := r.back.elim r.s (returnAcquire r.s iss)
        match r.err with
        | none =>
          if !isQ out.f then settlePoll s1 iss r.pending
          else if r.pending.isEmpty then pushResults s1 iss out
          else blocked s1 iss .barrier iss.lanes
        | some (.flt c va, _) => takeFault s0 iss (faultVa c va) iss.lanes
        | some (.wait st, rest) =>
          let s1 := if us.isEmpty then s1 else unpop s0 s1 iss.u d.opds fresh.length (fresh.filter (fun l => !rest.contains l)).length
          blocked s1 iss st (if isQ out.f then iss.lanes else r.pending ++ rest)

/-- The wait that a uniform WAIT or BWAIT has begun for the strand. -/
def sharedWait (iss : Issue) : Option LaneWait :=
  iss.u.book.waits.find? (fun e => e.shared && decide ((iss.u.slice (laneSlice e.lane)).strand = iss.strand ∧ (iss.u.slice (laneSlice e.lane)).pc = iss.pc))

/-- An issue of a uniform WAIT or BWAIT: one lane waits for the strand (R31). -/
def pollShared (s0 : State) (iss : Issue) (d : Desc) (out : Opd) (k : WaitKind) (align : Nat) : State :=
  if iss.shared.isSome || iss.lanes.isEmpty then complete (countPass s0 iss) iss false
  else
    let lane := ((sharedWait iss).map (·.lane)).getD ((iss.uniLane { unlogged := true }).headD 0)
    let (s, vs) := readAllOpds s0 iss.u (d.types.isSome && signedTy (modeType iss.u.regs.mode)) [lane] d.opds
    let va := (col vs 0).headD 0
    if va % align ≠ 0 then takeFault s0 iss (faultVa .align (BitVec.ofNat 64 va)) iss.lanes
    else
      match pollLane s iss k true lane va ((col vs 1).headD 0) with
      | .error (.flt c va) => takeFault s0 iss (faultVa c va) iss.lanes
      | .error (.wait st) => blocked s0 iss st iss.lanes
      | .ok (s, none) => blocked s iss .barrier iss.lanes
      | .ok (s, some v) =>
        let s := returnAcquire s iss (((waitOf s iss.p lane).map (·.scope)).getD k.scope)
        let s := writeDst (dropLaneWait s iss.p lane) iss.u out [lane] [v.toNat]
        complete (recordShared (countPass s iss) iss 0) iss false

/-- The frame of WAIT and BWAIT: the checks of R63, R48 and R222 as for every instruction; then a poll, which the next issue repeats. -/
def waitFrame (s : State) (d : Desc) (out : Opd) (k : WaitKind) (align : Nat) : Res :=
  let ds := { d with opds := d.opds ++ [out] }
  afterMem s (match issueOf s true with
    | none => .fault .noAgent
    | some iss =>
      match checks iss.u ds with
      | some c => .next (takeFault s iss (fault c) iss.lanes)
      | none =>
        if namesPending s iss.u ds then .next (blocked s iss .token iss.lanes)
        else
          let doomed := iss.lanes.filter (fun l => iss.u.txLanes.contains l)
          let s := doomLanes s iss.u.place doomed 5
          let iss := { iss with lanes := iss.lanes.filter (fun l => !doomed.contains l) }
          let s := if (dueTokens iss ds).isEmpty then s else meetTokens s iss ds
          if allUniform iss.u ds.opds then
            -- its start needs the uniform unit (R281)
            if (sharedWait iss).isSome then .next (pollShared s iss d out k align)
            else if !uniformFree s iss ds then .next (blocked (awaitUniform s iss) iss .structural iss.lanes)
            else .next (pollShared (useUniform s iss ds) iss d out k align)
          else if iss.lanes.isEmpty then .next (complete s iss false)
          else .next (pollIssue s iss d out k align))

/-- WAIT returns 0 at once where the values differ (R214). -/
def waitKind (scope n : Nat) : WaitKind :=
  { bwait := false, scope := scope, test := fun s w va x => (readAt s w scope va n).map (fun r => (r.1, if r.2 = x % 256 ^ n then none else some 0)) }

def execWait (d a b : Fld) (s : State) : Res :=
  let n := typedSize s
  waitFrame s { types := some allTypes, scope := true, unlogged := true, opds := [src a .pair, src b (dataShape n)] } (dst d .one) (waitKind (modeScope (curMode s)) n) n

/-- One lane of WAKE (R215): x is the address and the count, outs the lanes that get the result. -/
def wakeLane (iss : Issue) (out : Opd) (outs : List Nat) (s : State) (lane : Nat) (x : Nat × Nat) : Acc State :=
  let w := whoOf s iss.u lane
  match plainAcc s (readAt s w (modeScope iss.u.regs.mode) x.1 4) with
  | .error e => .error e
  | .ok (s1, _) =>
    match plainAcc s1 (waitKey s1 w x.1 4) with
    | .error e => .error e
    | .ok (s, key, die) =>
      let n := if x.2 = 0xFFFFFFFF then (linked s die).length else x.2
      let (s, k) := releaseFirst s die key (asidOf s iss.u) false n 1
      .ok (writeDst s iss.u out outs (outs.map (fun _ => k)))

def execWake (d a b : Fld) (s : State) : Res :=
  let out := dst d .one
  let ds : Desc := { scope := true, unlogged := true, opds := [src a .pair, src b .one, out] }
  memFrame s ds (fun iss s0 =>
    let (s, vs) := sources s0 iss ds
    let xs := lanesWith iss vs (fun x => (x0 x, x1 x))
    needAligned s iss 4 (·.1) xs
      (wholeLanes s iss (byLanes (onceAtomic s iss ds.opds) (wakeLane iss out) (releaseAt s iss (orderScope s iss (xs.map (fun x => (x.1, x.2.1))))) xs)))

/-! ## Barriers (R217, R218) -/

/-- A barrier object. -/
structure BarObj where
  valid : Bool
  phase : Nat
  arrived : Nat
  expected : Nat
  deriving DecidableEq, Repr

def barOf (x : Nat) : BarObj := { valid := x.testBit 127, phase := nbits x 95 64, arrived := nbits x 63 32, expected := nbits x 31 0 }

/-- Every lane that waits on the object is released with a value. -/
def releaseBar (s : State) (iss : Issue) (w : Who) (va : Nat) (v : Word) : State :=
  match waitKey s w va 16 with
  | .ok (s, key, die) => (releaseFirst s die key (asidOf s iss.u) true (linked s die).length v).1
  | .error _ => s

/-- One RMW on the object, and its notice to the dispatchers. -/
def barRmw (s : State) (w : Who) (scope va : Nat) (f : Nat → Nat) : Except Err (State × Nat) :=
  let sc := scopeAt w va scope
  (rmw s w sc va 16 f).map (fun r => (noticeAt (noticeAt r.1 w va sc) w (va + 8) sc, r.2))

/-- The object with a new phase and arrivals; its other bits stay. -/
def barPut (x phase arrived : Nat) : Nat := nbits x 31 0 + 2 ^ 32 * arrived + 2 ^ 64 * phase + 2 ^ 96 * nbits x 127 96

/-- What BARV makes of an object and a count (R218). -/
def barArrive (x b : Nat) : Nat :=
  let o := barOf x
  if !o.valid then x
  else if o.expected ≤ o.arrived + b then barPut x ((o.phase + 1) % 2 ^ 32) 0
  else barPut x o.phase (o.arrived + b)

def barInit (b : Nat) : Nat := b % 2 ^ 32 + 2 ^ 127

def barInvalidate (x : Nat) : Nat := x % 2 ^ 127

/-- The frame of BINIT, BARV and BINV: releases at the mode scope. bad: an address and count that raise FLT_OPERAND before any effect. -/
def barrierOp (s : State) (opds : List Opd) (bad : Nat × Nat → Bool) (lane : Issue → State → Nat → Nat × Nat → Acc State) : Res :=
  let ds : Desc := { scope := true, barrier := true, unlogged := true, opds := opds }
  memFrame s ds (fun iss s0 =>
    let (s, vs) := sources s0 iss ds
    let xs := lanesWith iss vs (fun x => (x0 x, x1 x))
    needAligned s iss 16 (·.1) xs
      (if xs.any (fun x => bad x.2) then .error (.flt (fault .operand) iss.lanes s)
       else wholeLanes s iss (eachLane (lane iss) (releaseAt s iss (orderScope s iss (xs.map (fun x => (x.1, x.2.1))))) xs)))

def execBinit (a b : Fld) (s : State) : Res :=
  barrierOp s [src a .pair, src b .one] (fun x => decide (x.2 = 0)) (fun iss s lane x =>
    let w := whoOf s iss.u lane
    (plainAcc s (barRmw s w (modeScope iss.u.regs.mode) x.1 (fun _ => barInit x.2))).map (fun r => releaseBar r.1 iss w x.1 0xFFFFFFFF))

def execBarv (d a b : Fld) (s : State) : Res :=
  let out := dst d .one
  barrierOp s [src a .pair, src b .one, out] (fun _ => false) (fun iss s lane x =>
    let w := whoOf s iss.u lane
    (plainAcc s (barRmw s w (modeScope iss.u.regs.mode) x.1 (fun y => barArrive y x.2))).map (fun r =>
      let o := barOf r.2
      let ended := o.valid && decide (o.expected ≤ o.arrived + x.2)
      let s := if ended then releaseBar r.1 iss w x.1 (BitVec.ofNat 32 (o.phase + 1)) else r.1
      writeDst s iss.u out [lane] [if o.valid then o.phase else 0xFFFFFFFF]))

def execBinv (a : Fld) (s : State) : Res :=
  barrierOp s [src a .pair] (fun _ => false) (fun iss s lane x =>
    let w := whoOf s iss.u lane
    (plainAcc s (barRmw s w (modeScope iss.u.regs.mode) x.1 barInvalidate)).map (fun r =>
      if (barOf r.2).valid then releaseBar r.1 iss w x.1 0xFFFFFFFF else r.1))

/-- BWAIT returns at once where the object is not valid or its phase differs. -/
def bwaitKind (scope : Nat) : WaitKind :=
  { bwait := true, scope := scope,
    test := fun s w va x => (rmw s w (scopeAt w va scope) va 16 id).map (fun r =>
      let o := barOf r.2
      (r.1, if !o.valid then some 0xFFFFFFFF else if o.phase = x then none else some (BitVec.ofNat 32 o.phase))) }

def execBwait (d a b : Fld) (s : State) : Res :=
  waitFrame s { scope := true, barrier := true, unlogged := true, opds := [src a .pair, src b .one] } (dst d .one) (bwaitKind (modeScope (curMode s))) 16

end Sys2Proof.Machine
end

