-- ==== Sys2Proof/Machine/Tx.lean ====
section
/-! DEFINITION. Opcodes 0xD6 to 0xD9: transactions, their commits, and the Riser tokens (R220 to R227). -/

namespace Sys2Proof.Machine

/-! ## Risers (R227) -/

/-- A lane holds or awaits a Riser with effect while its unit goes on and it stands active at its TXB, or is inside the attempt: nothing waits on a lane
that is held back otherwise (R27). -/
def riserHolds (s : State) (x : Place × Nat) : Bool :=
  match s.unit? x.1 with
  | none => false
  | some u =>
    let t := smGet LaneTx.idle u.tx x.2
    let sl := u.slice (laneSlice x.2)
    (t.inTx && t.irrev) || (u.goes s && decide (sl.pc = t.txb ∧ sl.active &&& laneBit x.2 ≠ 0))

/-- Take a die's Riser, or stand in its queue; whether the lane holds it. -/
def takeRiser (s : State) (me : Place × Nat) (die : Nat) : State × Bool :=
  let d := s.die die
  let free := match d.riser with
    | none => true
    | some x => !riserHolds s x
  let ahead := (d.riserQ.takeWhile (fun x => decide (x ≠ me))).any (riserHolds s)
  if d.riser = some me then (s, true)
  else if free && !ahead then
    (s.modDie die (fun d => { d with riser := some me, riserQ := d.riserQ.filter (fun x => decide (x ≠ me)) }), true)
  else (s.modDie die (fun d => { d with riserQ := if d.riserQ.contains me then d.riserQ else d.riserQ ++ [me] }), false)

/-- Take Risers in die order, each before the next is asked for. -/
def takeRisers (s : State) (me : Place × Nat) : List Nat → State × Bool
  | [] => (s, true)
  | d :: ds =>
    let (s, got) := takeRiser s me d
    if got then takeRisers s me ds else (s, false)

/-- RISER_GRANT: a free Riser goes to the lane that has waited longest, of those that can take it. -/
def execEvRiserGrant (die : Nat) (s : State) : Res :=
  match (s.die die).riser, (s.die die).riserQ.find? (riserHolds s) with
  | none, some x => .next (s.modDie die (fun d => { d with riser := some x, riserQ := d.riserQ.filter (fun y => decide (y ≠ x)) }))
  | _, _ => .next s

/-! ## TXB (R220) -/

/-- The clocks by which a transaction's time is counted: the core's, or for a supervisor thread its die's time. -/
def txClock (s : State) (p : Place) : DWord := if p.core < 240 then s.coreClocks p.die p.core else (s.die p.die).time

/-- Open a transaction in a lane; it keeps the lanes of its slice active at the TXB, and its TXE. -/
def openTx (s : State) (iss : Issue) (lane : Nat) (txe : DWord) (t : LaneTx) : State :=
  modTx s iss.p lane (fun _ => { t with inTx := true, doomed := false, cause := 0, code := 0, uncounted := false, reads := [], writes := [], locks := [],
                                        since := txClock s iss.p, txe := txe, mask := (iss.u.slice (laneSlice lane)).active })

/-- Whether another lane of the gang holds one of these dies' Risers. -/
def riserInGang (s : State) (iss : Issue) (lane : Nat) (dies : List Nat) : Bool :=
  dies.any (fun d => match (s.die d).riser with
    | some x => decide (x.1 = iss.p ∧ x.2 ≠ lane) && iss.slices.contains (laneSlice x.2)
    | none => false)

/-- One lane of TXB. A lane that needs a Riser which another lane of its gang holds steps aside, and comes back to the TXB when that lane has gone on (R26,
R227). -/
def txbLane (iss : Issue) (txe : DWord) (s : State) (lane _ : Nat) : Acc State :=
  if inTx s iss.p lane then
    let s := if (laneTx s iss.p lane).txb = iss.pc then s else modTx s iss.p lane (fun t => { t with aborts := 0 })
    .error (.gone (doomLane s iss.p lane 6 0))
  else
    let t := laneTx s iss.p lane
    let t : LaneTx := if t.txb = iss.pc then t else { t with txb := iss.pc, aborts := 0, multi := false }
    if t.aborts < 8 then .ok (openTx s iss lane txe { t with irrev := false, multi := false, risers := [] })
    else
      let dies := if t.multi then [0, 1, 2, 3] else [iss.p.die]
      match takeRisers s (iss.p, lane) dies with
      | (s, true) => .ok (openTx s iss lane txe { t with irrev := true, risers := dies })
      | (s, false) =>
        let s := modTx s iss.p lane (fun _ => { t with txe := txe, mask := (iss.u.slice (laneSlice lane)).active })
        if riserInGang s iss lane dies then .error (.gone (stepAside s iss lane iss.pc)) else .error (.wait .structural s)

def execTxb (i : BitVec 16) (s : State) : Res :=
  frame s {} (fun iss s =>
    let txe := branchTarget iss.pc i
    match fetchWord s iss.u txe with
    | .error e => .error (e.stop iss.lanes s)
    | .ok (s, w) =>
      if bits w 31 24 ≠ 0xD7 then .error (.flt (fault .illegal) iss.lanes s)
      else eachLane (txbLane iss txe) s (iss.lanes.map (fun l => (l, l))))

/-! ## The commit of a lane (R202, R224) -/

/-- How a lane's commit ends: its outcome and state, or a wait. -/
inductive Commit where
  | done (cause : Nat) (s : State)
  | wait (r : Stall)
  deriving DecidableEq, Repr

/-- Meet one line of the write or read set at its home: it may be locked, not there, or denied. -/
def meetLine (s : State) (iss : Issue) (lane : Nat) (need : Need) (va : Nat) (go : State → Line → Commit) : Commit :=
  let w := whoOf s iss.u lane
  match fillL2 s w.die w.asid va w.cclass with
  | .error (.wait r) => .wait r
  | .error (.flt c a) => .done 5 (txPacket s iss.u c iss.pc a lane)
  | .ok (s1, l) =>
    if lockedOut s1 w needRW l.pa then .done 1 s1
    else
      match checkLine s1 w need va with
      | .error (.wait r) => .wait r
      | .error (.flt c a) => .done 5 (txPacket s1 iss.u c iss.pc a lane)
      | .ok (s, l) => go s l

/-- Lock and translate the write set. -/
def lockWrites (iss : Issue) (lane : Nat) (go : State → Commit) : State → List WLog → Commit
  | s, [] => go s
  | s, e :: es => meetLine s iss lane needW e.addr (fun s _ => lockWrites iss lane go s es)

/-- Validate the read log by value. -/
def validate (iss : Issue) (lane : Nat) (go : State → Commit) : State → List RLog → Commit
  | s, [] => go s
  | s, e :: es => meetLine s iss lane needR e.addr (fun s _ =>
      match readHome s (whoOf s iss.u lane) needR e.addr 8 with
      | .error (.wait r) => .wait r
      | .error (.flt c a) => .done 5 (txPacket s iss.u c iss.pc a lane)
      | .ok (s, v) => if v = e.val.toNat then validate iss lane go s es else .done 1 s)

/-- Write the masked bytes of a word. -/
def applyBytes (w : Who) (a : Nat) (e : WLog) : Nat → State → State
  | 0, s => s
  | n + 1, s =>
    let s := applyBytes w a e n s
    if e.mask.getLsbD n then (match writeLine s w (a + n) 1 (nbits e.val.toNat (8 * n + 7) (8 * n)) with | .ok s => s | .error _ => s) else s

/-- Apply the write log; bytes of remote lines reach their homes at once, so that the commit has one instant (R202). -/
def applyWrites (iss : Issue) (lane : Nat) (s : State) (es : List WLog) : State :=
  let w := whoOf s iss.u lane
  let s := es.foldl (fun s e => applyBytes w e.addr e 8 s) s
  es.foldl (fun s e => drainWts s w.die (fun t => decide (t.tag = nbits e.addr 56 7))) s

/-- The commit of a lane that is in a transaction and not doomed. -/
def commitLane (s : State) (iss : Issue) (lane : Nat) : Commit :=
  let t := laneTx s iss.p lane
  let ws := sortBy (fun (a b : WLog) => decide (a.addr < b.addr)) t.writes
  lockWrites iss lane (fun s => validate iss lane (fun s => .done 0 (applyWrites iss lane s ws)) s (if t.irrev then [] else t.reads)) s ws

/-! ## TXE (R224, R225) -/

/-- The count after an attempt with a cause. -/
def nextAborts (t : LaneTx) (cause : Nat) : Nat := if cause = 8 ∨ t.uncounted = true then t.aborts else if cause = 0 then 0 else min (t.aborts + 1) 8

/-- The outcome word. -/
def outcomeWord (t : LaneTx) (cause : Nat) : Nat :=
  cause + (if cause = 4 then 2 ^ 8 * t.code.toNat else 0) + (if t.irrev && decide (cause ≠ 8) then 2 ^ 16 else 0) + 2 ^ 24 * nextAborts t cause

/-- A lane leaves its transaction; the count and the TXB it belongs to stay. -/
def leaveTx (s : State) (iss : Issue) (lane cause : Nat) : State :=
  let t := laneTx s iss.p lane
  let s := freeRisers s iss.p lane
  let s := modTx s iss.p lane (fun t => { LaneTx.idle with txb := t.txb, aborts := nextAborts t cause })
  monEvent s iss.p.die 5 iss.u.ident.asid (quadOf iss.p.core) (decide (cause = 0)) ((txClock s iss.p - t.since).toNat)

/-- One lane of TXE: the state, its outcome word, and its cause. -/
def txeLane (s : State) (iss : Issue) (lane : Nat) : Except Stall (State × Nat × Nat) :=
  let t := laneTx s iss.p lane
  if !t.inTx then .ok (s, outcomeWord t 8, 8)
  else if t.doomed then .ok (leaveTx s iss lane t.cause, outcomeWord t t.cause, t.cause)
  else
    match commitLane s iss lane with
    | .wait r => .error r
    | .done c s => .ok (leaveTx s iss lane c, outcomeWord t c, c)

/-- The lanes in increasing order, each lane's whole commit before the next. -/
def txeLanes (iss : Issue) : State → List Nat → Except Stall (State × List (Nat × Nat × Nat))
  | s, [] => .ok (s, [])
  | s, l :: ls =>
    match txeLane s iss l with
    | .error r => .error r
    | .ok (s, w, c) => (txeLanes iss s ls).map (fun r => (r.1, (l, w, c) :: r.2))

/-- A slice whose lanes have left their transactions: the lanes active at their TXB, still live and held in no resume entry. -/
def Slice.rejoin (sl : Slice) (mask : BitVec 4) : Slice := { sl with active := mask &&& sl.live &&& ~~~sl.waiting }

/-- The lanes of slice i that were active at the TXBs of lanes whose transactions end. -/
def txbMask (u : Unit) (ended : List Nat) (i : Nat) : BitVec 4 :=
  (ended.filter (fun l => decide (laneSlice l = i))).foldl (fun m l => m ||| (smGet LaneTx.idle u.tx l).mask) 0

/-- The effect of TXE on the acting lanes. -/
def txeBody (d a : Opd) (iss : Issue) (s0 : State) : Run :=
  match txeLanes iss s0 iss.lanes with
  | .error r => .error (.wait r iss.lanes s0)
  | .ok (s, rs) =>
    let s := writeDst s iss.u d iss.lanes (rs.map (fun r => r.2.1))
    let m := maskOf (rs.filterMap (fun r => if r.2.2 = 0 then some r.1 else none))
    let s := s.modUnit iss.p (fun u => if isK a.f then u.modRegs (fun r => r.setKs (a.f.toNat - 0x80) (wordsOf 3 m.toNat)) else u)
    let ended := rs.filterMap (fun r => if r.2.2 = 8 then none else some r.1)
    .ok (s.modUnit iss.p (fun u => { u with slices := (dedup (ended.map laneSlice)).foldl (fun ss i => modAt ss i (fun sl => sl.rejoin (txbMask iss.u ended i))) u.slices }))

/-- TXE acts on the active lanes and on the doomed lanes that rejoin there, whatever the guard. -/
def execTxe (d a : Fld) (s : State) : Res :=
  let (od, oa) := ((dst d .one).must .lane, dst a .mask)
  let ds : Desc := { opds := [od, oa], perGang := true, always := true }
  afterMem s (match issueOf s true with
    | none => .fault .noAgent
    | some iss =>
      let back := (lanesIn (fun i => iss.u.doomedIn i) iss.slices).filter (fun l =>
        !iss.lanes.contains l && !iss.u.ctl.done.getLsbD l && decide ((smGet LaneTx.idle iss.u.tx l).txe = iss.pc))
      let iss := { iss with lanes := sortBy (fun x y => decide (x < y)) (iss.lanes ++ back) }
      match checks iss.u ds with
      | some c => .next (takeFault s iss (fault c) iss.lanes)
      | none =>
        if namesPending s iss.u ds then .next (blocked s iss .token iss.lanes)
        else if iss.lanes.isEmpty then .next (complete s iss false)
        else .next (settleRun iss ds (withTokens s iss ds (fun s => issueBody s iss ds (txeBody od oa)))))

/-! ## TXA and TXQ (R226) -/

def execTxa (i : BitVec 8) (s : State) : Res :=
  frame s {} (fun iss s => .ok (iss.lanes.foldl (fun s l => doomLane s iss.p l 4 i) s))

/-- What TXQ reports of a lane. -/
def txStatus (t : LaneTx) : Nat :=
  if t.inTx then 1 + (if t.doomed then 2 else 0) + (if t.irrev then 4 else 0) + 2 ^ 8 * t.reads.length + 2 ^ 16 * t.writes.length else 0

def execTxq (d : Fld) (s : State) : Res :=
  let out := dst d .one
  frame s { opds := [out] } (fun iss s => .ok (writeDst s iss.u out iss.lanes (iss.lanes.map (fun l => txStatus (laneTx s iss.p l)))))

end Sys2Proof.Machine
end

