-- ==== Sys2Proof/Machine/Queues.lean ====
section
/-! DEFINITION. Opcodes 0xF0 to 0xF9: queue registers, messages, Launders and the reservation table; and the deliveries of messages and fault
packets (R158, R243 to R261, R330 to R332). -/

namespace Sys2Proof.Machine

/-! ## QBIND (R243) -/

/-- A selector that binds nothing it may not: its kind, reserved bits and index. -/
def selectorOk (w : Word) : Bool :=
  if !bit w 31 then decide (w = 0)
  else
    decide (bits w 27 8 = 0) &&
    (match bits w 30 28 with
     | 0 => decide (bits w 7 0 < 16)
     | 1 => decide (bits w 7 0 < 16)
     | 2 => decide (bits w 7 0 < 8)
     | 3 => decide (bits w 7 0 = 0)
     | _ => false)

/-- The fault of a selector, if any: a supervisor thread binds only its inbox (R427); a quad's channels belong to chan_owner's ASID (R244). -/
def bindFault (s : State) (u : Unit) (w : Word) : Option Cause :=
  if u.isSup && bit w 31 && decide (bits w 30 28 < 3) then some .illegal
  else if !selectorOk w then some .operand
  else match chanRef w with
    | none => none
    | some .inbox => none
    | some c => if chanAdmits s u c then none else some .prot

/-- A queue register that is named but neither popped nor pushed as an operand. -/
def probe (f : Fld) : Opd := { f := f, sh := .one, rd := false, wr := false, rule := .queue }

def execQbind (d a : Fld) (s : State) : Res :=
  let oa := (src a .one).must .uniform
  frame s { unlogged := true, opds := [probe d, oa] } (fun iss s0 =>
    let (s, vs) := readAllOpds s0 iss.u false iss.lanes [oa]
    let w : Word := BitVec.ofNat 32 ((col vs 0).headD 0)
    match bindFault s iss.u w with
    | some c => .error (.flt (fault c) iss.lanes s)
    | none => .ok (s.modUnit iss.p (fun u => u.modRegs (fun r => { r with q := setAt r.q (d.toNat - 0xC0) w }))))

/-! ## QTRY, QPUT and QCNT (R247) -/

/-- The fault of a probe that would move n words (R244, R246). DEDUCED (log entry 112): QCNT, as QTRY and QPUT, raises FLT_PROT on a quad channel or mailbox
that the unit's context no longer owns. -/
def probeFault (s : State) (u : Unit) (f : Fld) (push : Bool) (n : Nat) : Option Cause :=
  match u.chanOf f with
  | none => some .queue
  | some c =>
    if !chanAdmits s u c then some .prot
    else if push && (match c with | .mbox _ => true | .inbox => true | _ => false) then some .queue
    else if chanDepth u c < n then some .queue
    else none

/-- The channel of a probe and its words. -/
def probeChan (u : Unit) (f : Fld) : ChanRef := (u.chanOf f).getD .inbox

def execQtry (d a b : Fld) (s : State) : Res :=
  let (od, ob) := ((dst d .one).must .lane, (dst b .one).must .pred)
  frame s { opds := [probe a, od, ({ od with wr := false }).must .noQueue, ob] } (fun iss s =>
    let n := iss.lanes.length
    match probeFault s iss.u a false n with
    | some c => .error (.flt (fault c) iss.lanes s)
    | none =>
      let c := probeChan iss.u a
      if (chanGet s iss.u c).words.length < n then .ok (writeDst s iss.u ob iss.lanes (iss.lanes.map (fun _ => 0)))
      else
        let (s, ws) := chanPop s iss.u c n
        let s := writeDst s iss.u od iss.lanes (ws.map (·.toNat))
        .ok (writeDst s iss.u ob iss.lanes (iss.lanes.map (fun _ => 1))))

def execQput (d a b : Fld) (s : State) : Res :=
  let (oa, ob) := ((src a .one).must .noQueue, (dst b .one).must .pred)
  frame s { opds := [probe d, oa, ob] } (fun iss s =>
    let n := iss.lanes.length
    match probeFault s iss.u d true n with
    | some c => .error (.flt (fault c) iss.lanes s)
    | none =>
      let c := probeChan iss.u d
      if chanDepth iss.u c < (chanGet s iss.u c).words.length + n then .ok (writeDst s iss.u ob iss.lanes (iss.lanes.map (fun _ => 0)))
      else
        let s := chanPush s iss.u c (iss.lanes.map (fun l => BitVec.ofNat 32 (readOpd s iss.u oa false l)))
        .ok (writeDst s iss.u ob iss.lanes (iss.lanes.map (fun _ => 1))))

def execQcnt (d a : Fld) (s : State) : Res :=
  let od := (dst d .one).must .lane
  frame s { opds := [probe a, od] } (fun iss s =>
    match probeFault s iss.u a false 0 with
    | some c => .error (.flt (fault c) iss.lanes s)
    | none =>
      let n := (chanGet s iss.u (probeChan iss.u a)).words.length
      .ok (writeDst s iss.u od iss.lanes (iss.lanes.map (fun _ => n))))

/-! ## SEND and RSVD (R250, R332) -/

/-- The fault of a target: a reserved bit or unit code, or a supervisor core in user mode. -/
def targetFault (u : Unit) (w : Word) : Option Cause :=
  if pwReserved w then some .operand else if pwIsSup w && !u.isSup then some .priv else none

/-- A message ready to be sent: its target, its kind and tag, and its payload. -/
structure Outgoing where
  place : Word
  serial : Word
  kind : Nat
  tag : Word
  payload : List Word
  deriving DecidableEq, Repr

def outItem (s : State) (u : Unit) (m : Outgoing) : Item :=
  itemTo m.place m.serial (asidOf s u) (messageWords m.kind m.tag (senderWord s u) (senderSerial u) (nowOf s u.place.die) m.payload)

/-- One lane's message enters the output buffer of its core, or waits for room. -/
def sendLane (iss : Issue) (s : State) (_ : Nat) (m : Outgoing) : Acc State :=
  if outbufFull s iss.p.die iss.p.core then .error (.wait .queue s) else .ok (sendItem s iss.p.die iss.p.core (outItem s iss.u m))

/-- Every target is checked before a message leaves. -/
def sendAll (s : State) (iss : Issue) (ms : List (Nat × Outgoing)) : Run :=
  match ms.findSome? (fun m => targetFault iss.u m.2.place) with
  | some c => .error (.flt (fault c) iss.lanes s)
  | none => eachLane (sendLane iss) s ms

def execSend (d a b : Fld) (s : State) : Res :=
  let ds : Desc := { unlogged := true, opds := [src d .quad, src a .pair, src b .one] }
  frame s ds (fun iss s0 =>
    let (s, vs) := sources s0 iss ds
    sendAll s iss (lanesWith iss vs (fun x =>
      { place := BitVec.ofNat 32 (x1 x), serial := BitVec.ofNat 32 (x1 x / 2 ^ 32), kind := 0, tag := BitVec.ofNat 32 (x2 x), payload := wordsOf 4 (x0 x) })))

/-- RSVD answers the request whose first three words a names. -/
def execRsvd (d a : Fld) (s : State) : Res :=
  let ds : Desc := { engines := .mccOnly, scope := true, opds := [src d .quad, src a .quad] }
  frame s ds (fun iss s0 =>
    let (s, vs) := sources s0 iss ds
    sendAll (release s (whoOf s iss.u 0) (modeScope iss.u.regs.mode)) iss (lanesWith iss vs (fun x =>
      let w := wordsOf 3 (x1 x)
      { place := w.getD 1 0, serial := w.getD 2 0, kind := 3, tag := w.getD 0 0, payload := wordsOf 4 (x0 x) })))

/-! ## Launders (R254, R255) -/

def launderOf (s : State) (u : Unit) (n : Nat) : Launder := (s.quad u.place.die (quadOf u.place.core)).launders.getD n { cfg := 0, entries := [], waiters := [] }

def modLaunder (s : State) (u : Unit) (n : Nat) (f : Launder → Launder) : State :=
  s.modQuad u.place.die (quadOf u.place.core) (fun q => { q with launders := modAt q.launders n f })

/-- The register group of an entry size. -/
def entryShape (cfg : Word) : Shape := if bits cfg 29 28 = 2 then .hex else if bits cfg 29 28 = 1 then .oct else .quad

/-- The Launder that the unit cur names would use. -/
def curLaunder (s : State) (n : Nat) : Launder := (issueOf s false).elim { cfg := 0, entries := [], waiters := [] } (fun i => launderOf s i.u n)

/-- The fault of using a Launder for n entries. -/
def launderFault (s : State) (u : Unit) (l : Launder) (n : Nat) : Option Cause :=
  if !quadAdmits s u then some .prot
  else if !bit l.cfg 31 then some .queue
  else if bits l.cfg 25 12 < n then some .queue
  else none

/-- Whether an RQP or RQG can move its entries now, in blocking order (R245). -/
def launderReady (s : State) (iss : Issue) (l : Launder) (pop : Bool) (n : Nat) : Bool :=
  !overtaken s l.waiters iss.p iss.gang pop && (if pop then decide (n ≤ l.entries.length) else decide (l.entries.length + n ≤ bits l.cfg 25 12))

def launderWait (s : State) (iss : Issue) (n : Nat) (pop : Bool) : State :=
  modLaunder s iss.u n (fun l => { l with waiters := addWait l.waiters { place := iss.p, gang := iss.gang, pop := pop } })

def launderLeave (s : State) (iss : Issue) (n : Nat) (pop : Bool) : State :=
  modLaunder s iss.u n (fun l => { l with waiters := dropWait l.waiters { place := iss.p, gang := iss.gang, pop := pop } })

/-- The frame of RQP and RQG. -/
def launderOp (s : State) (d : Fld) (i : BitVec 4) (pop : Bool) (go : Issue → State → Launder → Opd → State) : Res :=
  let sh := entryShape (curLaunder s i.toNat).cfg
  let o := (if pop then dst d sh else src d sh).must .vk
  frame s { engines := .notSup, unlogged := true, opds := [o] } (fun iss s =>
    let l := launderOf s iss.u i.toNat
    match launderFault s iss.u l iss.lanes.length with
    | some c => .error (.flt (fault c) iss.lanes (launderLeave s iss i.toNat pop))
    | none =>
      if launderReady s iss l pop iss.lanes.length then .ok (go iss (launderLeave s iss i.toNat pop) l o)
      else .error (.wait .queue iss.lanes (launderWait s iss i.toNat pop)))

def execRqp (d : Fld) (i : BitVec 4) (s : State) : Res :=
  launderOp s d i false (fun iss s _ o =>
    let es := iss.lanes.map (fun l => wordsOf o.sh.words (readOpd s iss.u o false l))
    modLaunder (release s (whoOf s iss.u 0) 1) iss.u i.toNat (fun l => { l with entries := l.entries ++ es }))

def execRqg (d : Fld) (i : BitVec 4) (s : State) : Res :=
  launderOp s d i true (fun iss s l o =>
    let n := iss.lanes.length
    let s := modLaunder s iss.u i.toNat (fun l => { l with entries := l.entries.drop n })
    let s := writeDst s iss.u o iss.lanes ((l.entries.take n).map ofWords)
    acquire s (whoOf s iss.u 0) 1)

/-! ## The reservation table (R330, R331) -/

/-- One lane of RSVP: x is the request word and the payload. -/
def rsvpLane (iss : Issue) (out : Opd) (s : State) (lane : Nat) (x : Nat × List Word) : Acc State :=
  let u := iss.u
  let (die, q) := (u.place.die, nbits x.1 13 8)
  -- entries of the context that a save has left in the Flask are posted ahead of any later post (R333)
  let s := loadResv s die q u.ident.asid
  let t := s.quad die q
  match (if resvWaiting s die q u.ident.asid then none else t.resv.findIdx? (·.isNone)) with
  | none => .error (.wait .queue s)
  | some i =>
    let tag : Word := BitVec.ofNat 32 (t.posts % 2 ^ 26 * 64 + i)
    let r : Resv := { asid := u.ident.asid, place := senderWord s u, serial := u.ident.serial, prio := nbits x.1 2 0, payload := x.2, order := s.seq, tag := tag }
    let s := s.modQuad die q (fun t => { t with resv := setAt t.resv i (some r), posts := (t.posts + 1) % 2 ^ 26 })
    .ok (writeDst s.tickSeq u out [lane] [tag.toNat])

/-- A request word with a reserved bit, or with a quad above 59. -/
def requestBad (w : Nat) : Bool := decide (2 ^ 14 ≤ w) || decide (nbits w 7 3 ≠ 0) || decide (60 ≤ nbits w 13 8)

def execRsvp (d a b : Fld) (s : State) : Res :=
  let out := dst d .one
  let ds : Desc := { engines := .notSup, unlogged := true, opds := [src a .quad, src b .one, out] }
  frame s ds (fun iss s0 =>
    let (s, vs) := sources s0 iss ds
    let xs := lanesWith iss vs (fun x => (x1 x, wordsOf 4 (x0 x)))
    if xs.any (fun x => requestBad x.2.1) then .error (.flt (fault .operand) iss.lanes s) else eachLane (rsvpLane iss out) s xs)

/-- The first posted entry of an ASID: lowest prio, then earliest post. -/
def firstResv (q : Quad) (asid : Nat) : Option (Nat × Resv) :=
  (q.resv.zipIdx.filterMap (fun (r, i) => r.bind (fun r => if r.asid = asid then some (i, r) else none))).foldl (fun best x => match best with
    | none => some x
    | some y => if x.2.prio < y.2.prio ∨ (x.2.prio = y.2.prio ∧ x.2.order < y.2.order) then some x else some y) none

/-- Whether a thread of the same ASID began to wait earlier. -/
def resvBehind (s : State) (q : Quad) (u : Unit) : Bool :=
  (q.resvWait.takeWhile (fun p => decide (p ≠ u.place))).any (fun p => match s.unit? p with
    | some v => decide (v.ident.asid = u.ident.asid) && v.goes s
    | none => false)

/-- The eight words that RSVG writes. -/
def resvWords (r : Resv) : List Word := [r.tag, r.place, r.serial, BitVec.ofNat 32 (r.prio + 2 ^ 16 * r.asid)] ++ r.payload

def execRsvg (d : Fld) (s : State) : Res :=
  let out := dst d .oct
  frame s { engines := .mccOnly, opds := [out] } (fun iss s =>
    let (die, qn) := (iss.p.die, quadOf iss.p.core)
    let s := loadResv s die qn iss.u.ident.asid
    let q := s.quad die qn
    match (if resvBehind s q iss.u then none else firstResv q iss.u.ident.asid) with
    | none => .error (.wait .queue iss.lanes (s.modQuad die qn (fun q => { q with resvWait := if q.resvWait.contains iss.p then q.resvWait else q.resvWait ++ [iss.p] })))
    | some (i, r) =>
      let s := s.modQuad die qn (fun q => { q with resv := setAt q.resv i none, resvWait := q.resvWait.filter (fun p => decide (p ≠ iss.p)) })
      .ok (writeDst s iss.u out iss.lanes [ofWords (resvWords r)]))

/-! ## Deliveries (R252, R261) and the end of a SLEEP (R158) -/

/-- MESSAGE_DELIVERY: the oldest message of a core's output buffer reaches its target. -/
def execEvMessageDelivery (die core : Nat) (s : State) : Res :=
  let s := runNet s
  match outbufOf s die core with
  | [] => .next s
  | it :: _ =>
    -- behind a message of its sender that the network still holds
    if s.pkg.net.any it.sameSender then .next s
    else match acceptItem s it with
      | none => .next s
      | some s => .next (modOutbuf s die core (·.drop 1))

/-- INPUT_BUFFER_DELIVERY: first what was saved with the core's units, then the oldest message whose inbox has room. -/
def execEvInputBufferDelivery (die core : Nat) (s : State) : Res :=
  let s := if core < 240 then ((unitsOn s die core).filter (fun u => !u.book.saved.isEmpty)).foldl (fun s u => deliverSaved s u.place 64) s else s
  .next (deliverInbuf s die core)

/-- FAULT_PACKET_DELIVERY: the oldest packet of a die's fault buffer whose supervisor core has room. -/
def execEvFaultPacketDelivery (die : Nat) (s : State) : Res := .next (deliverFaultBuf s die)

/-- SLEEP_TIMEOUT: the time limit of a sleeping gang has passed. -/
def execEvSleepTimeout (p : Place) (gang : Nat) (s : State) : Res :=
  let now := nowOf s p.die
  .next (s.modUnit p (fun u => u.modBook (fun b => { b with sleeps := b.sleeps.map (fun z =>
    if z.gang = gang ∧ z.limit = true ∧ z.until_.toNat ≤ now.toNat then { z with woken := true } else z) })))

end Sys2Proof.Machine
end

