-- ==== Sys2Proof/Machine/Supervise.lean ====
section
/-! DEFINITION. Opcodes 0xFA to 0xFD, which only the supervisor issues: shootdown, bias flips, flush and page migration (R299 to R304). -/

namespace Sys2Proof.Machine

/-! ## SHOOT and FLUSH (R301 to R304) -/

/-- What a shootdown removes: ASIDs by the ASID word (none: all), and the addresses from lo up to hi. -/
structure Shot where
  asid : Option Nat
  lo : Nat
  hi : Nat
  deriving DecidableEq, Repr

def Shot.ofAsid (x : Shot) (a : Nat) : Bool := match x.asid with
  | none => true
  | some b => decide (a = b)

/-- The ASID of a copy or entry matches, or it is global. -/
def Shot.tagged (x : Shot) (a : Option Nat) : Bool := match a with
  | none => true
  | some a => x.ofAsid a

/-- The range from lo to hi meets n bytes at va. -/
def Shot.meets (x : Shot) (va n : Nat) : Bool := decide (va < x.hi ∧ x.lo < va + n)

/-- The ASID word (R302): none where a reserved bit is set. -/
def asidWord (w : Nat) : Option (Option Nat) := if 2 ^ 17 ≤ w then none else some (if w.testBit 16 then none else some (w % 65536))

/-- The shootdown removes a copy of the line at a location: one in the range, and by its own tag of the ASID or global. -/
def Shot.takes (x : Shot) (s : State) (loc : Nat) : Bool :=
  let hit (l : Line) : Bool := decide (l.pa / 128 = loc) && x.tagged l.asid && x.meets (l.tag * 128) 128
  s.dies.any (fun d => d.l2.any hit || d.rdc.any hit) || s.cores.any (fun k => k.2.l1.any hit)

/-- The range meets a word that a lane of the ASID has logged. -/
def Shot.logged (x : Shot) (t : LaneTx) : Bool :=
  t.reads.any (fun e => x.meets (e.addr / 128 * 128) 128) || t.writes.any (fun e => x.meets (e.addr / 128 * 128) 128)

/-- An irrevocable attempt that has locked a line that is removed is aborted, with cause fault (R304). -/
def shootTx (s : State) (x : Shot) : State :=
  s.units.foldl (fun s u =>
    let hit (l : Nat) : Bool :=
      let t := smGet LaneTx.idle u.tx l
      t.irrev && (t.locks.any (x.takes s) || (x.ofAsid (asidOf s u) && x.logged t))
    match u.txLanes.filter hit with
    | [] => s
    | ls => (doomLanes s u.place ls 5).modUnit u.place Unit.doomGo) s

/-- The write-throughs under way that used a removed translation are performed (R303 step 3). -/
def shootStores (s : State) (x : Shot) : State :=
  (List.range 4).foldl (fun s d => drainWts s d (fun t => x.tagged t.asid && x.meets (t.tag * 128) 128)) s

/-- Remove the lines of the range from every L1, L2 and RDC, their dirty bytes written back. -/
def shootLines (s : State) (x : Shot) : State :=
  (List.range 4).foldl (fun s d => purge s d (fun l => x.tagged l.asid && x.meets (l.tag * 128) 128)) s

/-- Remove the TLB entries whose page meets the range, and the walk-cache entries of the ASID. -/
def shootTlbs (s : State) (x : Shot) : State :=
  (List.range 4).foldl (fun s d => s.modDie d (fun y =>
    { y with tlbs := y.tlbs.map (fun l => l.filter (fun t => !(x.tagged t.asid && x.meets (t.va / 2 ^ t.size * 2 ^ t.size) (2 ^ t.size)))),
             walks := y.walks.filter (fun w => !x.ofAsid w.asid) })) s

/-- The frame of the privileged instructions of this file: one lane, its sources, a release at system scope before and an acquire after. -/
def supFrame (s : State) (opds : List Opd) (body : Issue → State → List Nat → Run) : Res :=
  let ds : Desc := { priv := true, opds := opds.map (fun o => o.must .uniform) }
  frame s ds (fun iss s0 =>
    let (s, vs) := sources s0 iss ds
    body iss s (vs.map (fun c => c.headD 0)))

def stopWith (iss : Issue) (s : State) (f : FaultInfo) : Run := .error (.flt f iss.lanes s)

def systemRelease (s : State) (iss : Issue) : State := release s (whoOf s iss.u 0) 5
def systemAcquire (s : State) (iss : Issue) : State := acquire s (whoOf s iss.u 0) 5

/-- The first address of the window region: pages there are skipped. -/
def windowLo : Nat := 0x00F0000000000000

def execShoot (d a b : Fld) (s : State) : Res :=
  supFrame s [src d .one, src a .pair, src b .one] (fun iss s x =>
    let (w, va, n) := (x0 x, x1 x, x2 x)
    match asidWord w with
    | none => stopWith iss s (fault .operand)
    | some asid =>
      if va % 4096 ≠ 0 then stopWith iss s (faultVa .align (BitVec.ofNat 64 va))
      else if 2 ^ 57 ≤ va ∨ n = 0 then stopWith iss s (fault .operand)
      else
        let t : Shot := { asid := asid, lo := va, hi := min (va + 4096 * n) windowLo }
        .ok (systemAcquire (shootLines (shootTlbs (shootStores (shootTx (systemRelease s iss) t) t) t) t) iss))

def execFlush (d a : Fld) (s : State) : Res :=
  supFrame s [src d .one, src a .one] (fun iss s x =>
    match asidWord (x0 x) with
    | none => stopWith iss s (fault .operand)
    | some asid =>
      if 1 < x1 x then stopWith iss s (fault .operand)
      else
        let t : Shot := { asid := asid, lo := 0, hi := 2 ^ 57 }
        let s := systemRelease s iss
        let s := shootTlbs (shootStores (if x1 x = 1 then shootTx s t else s) t) t
        .ok (systemAcquire (if x1 x = 1 then shootLines s t else s) iss))

/-! ## Pages by physical address -/

/-- Let the write-throughs to a page arrive, then write back and remove every on-chip copy of its lines (R294, R299). -/
def purgePage (s : State) (pa : Nat) : State :=
  let s := (List.range 4).foldl (fun s d => drainWts s d (fun t => decide (t.pa / 4096 = pa / 4096))) s
  (List.range 32).foldl (fun s i => purgePa s (pa / 4096 * 4096 + 128 * i)) s

/-- A page that BIAS and MGRT may act on: device memory of the own package, outside the bias table, the RDC carve-out and the reserved offsets. -/
def pageUsable (s : State) (pa : Nat) : Bool := decide (pa < 2 ^ 53) && ownDevice s pa && !inBiasTable pa && !inRdc s pa

/-- The flip of a page that still collects responses. -/
def flipOf (s : State) (page : Nat) : Option Flip := s.flips.find? (fun f => decide (f.page = page))

/-! ## BIAS (R299) -/

/-- BIAS to device bias starts: 64 snoops go out, and the page flips until they are answered. -/
def startFlip (s : State) (p : Place) (pa : Nat) : State :=
  let lines := (List.range 64).map (fun i => pa / 64 + i)
  let s := setBias s pa 2
  { s with flips := s.flips ++ [{ page := pa / 4096, left := lines, place := p, linkFail := false }], replies := s.replies ++ lines.map (fun l => .bisnp (64 * l)) }

/-- What BIAS writes to d. -/
def biasResult (before : Nat) (linkFail : Bool) : Nat := before + (if linkFail then 256 else 0)

def execBias (d a b : Fld) (s : State) : Res :=
  let out := dst d .one
  supFrame s [src a .pair, src b .one, out] (fun iss s x =>
    let (pa, req) := (x0 x, x1 x)
    let done (s : State) (v : Nat) : Run := .ok (writeDst s iss.u out iss.lanes (iss.lanes.map (fun _ => v)))
    if pa % 4096 ≠ 0 then stopWith iss s (faultVa .align (BitVec.ofNat 64 pa))
    else if !pageUsable s pa || decide (2 < req) then stopWith iss s (fault .operand)
    else
      match flipOf s (pa / 4096) with
      | some f =>
        if f.place = iss.p ∧ f.left.isEmpty = true then done (systemAcquire { s with flips := s.flips.filter (fun y => decide (y ≠ f)) } iss) (biasResult 1 f.linkFail)
        else .error (.wait .structural iss.lanes s)
      | none =>
        let s := systemRelease s iss
        let before := biasOf s pa
        if 2 ≤ before then .error (.wait .structural iss.lanes s)
        else if req = 2 ∨ req = before then done s before
        else if req = 1 then done (systemAcquire (setBias (purgePage s pa) pa 1) iss) 0
        else if s.pkg.cxlUp then .error (.wait .structural iss.lanes (startFlip s iss.p pa))
        else done (systemAcquire (((List.range 64).map (fun i => pa / 64 + i)).foldl lostLine (setBias s pa 0)) iss) (biasResult 1 true))

/-! ## MGRT (R300) -/

/-- The physical address of the level-1 entry of a VA, from a table of a level down. -/
def leafEntryFrom (s : State) (va : Nat) : Nat → Nat → Option Nat
  | 0, _ => none
  | lv + 1, table =>
    let shift := 12 + 9 * lv
    let pa := table + 8 * nbits va (shift + 8) shift
    if lv = 0 then some pa
    else match walkRead s pa 8 with
      | .ok e => leafEntryFrom s va lv (nbits e 52 12 * 4096)
      | .error _ => none

def leafEntry (s : State) (die asid va : Nat) : Option Nat := leafEntryFrom s va 5 (nbits (asidField s die asid 0) 52 12 * 4096)

/-- Move the page: copy it, point its entry at the copy, and forget every translation of the VA. -/
def movePage (s : State) (die asid va fromPa toPa : Nat) : Except Err State :=
  match leafEntry s die asid va with
  | none => .error (.flt .page (BitVec.ofNat 64 va))
  | some e =>
    let s := purgePage (purgePage s fromPa) toPa
    let s := shootTlbs s { asid := some asid, lo := va, hi := va + 4096 }
    let s := setBias (s.wr toPa 4096 (s.rd fromPa 4096)) toPa 0
    match physRead s e 8 with
    | .error err => .error err
    | .ok old => physWrite s e 8 (putBits (BitVec.ofNat 64 old) 52 12 (toPa / 4096)).toNat

/-- MGRT. A VA with a bit of [63:57] set, or in the window region, finds no page: it parks with FLT_PAGE (DESIGN CHOICE, log entry 126). -/
def execMgrt (d a b : Fld) (s : State) : Res :=
  supFrame s [src d .pair, src a .pair, src b .one] (fun iss s0 x =>
    let (toPa, va) := (x0 x, x1 x)
    if toPa % 4096 ≠ 0 then stopWith iss s0 (faultVa .align (BitVec.ofNat 64 toPa))
    else if va % 4096 ≠ 0 then stopWith iss s0 (faultVa .align (BitVec.ofNat 64 va))
    else if !pageUsable s0 toPa then stopWith iss s0 (fault .operand)
    else
      match asidWord (x2 x) with
      | none => stopWith iss s0 (fault .operand)
      | some none => stopWith iss s0 (fault .operand)
      | some (some asid) =>
        let s := systemRelease s0 iss
        if !translatedVa va then stopWith iss s (faultVa .page (BitVec.ofNat 64 va))
        else
          match walk s iss.p.die asid va with
          | .error (.wait r) => .error (.wait r iss.lanes s)
          | .error (.flt c _) => stopWith iss s (faultVa c (BitVec.ofNat 64 va))
          | .ok l =>
            if l.size ≠ 12 then stopWith iss s (fault .operand)
            else if !ownDevice s l.pa || decide (biasOf s l.pa ≠ 0) then stopWith iss s (faultVa .bias (BitVec.ofNat 64 va))
            else (lift iss.lanes s (movePage s iss.p.die asid va l.pa toPa)).map (fun s => systemAcquire s iss))

end Sys2Proof.Machine
end

