-- ==== Sys2Proof/Machine/Blnd.lean ====
section
/-! DEFINITION. Opcode 0xEC: BLND (R395, R396). -/

namespace Sys2Proof.Machine

/-- A mode word with a reserved bit or op. -/
def blendModeBad (m : Nat) : Bool := decide (2 ^ 8 ≤ m) || m.testBit 3 || m.testBit 2

/-- One lane of BLND: x is the colours, the mode word and the pixel mask. A fault on the spill area freezes the wave (R396). -/
def blndLane (iss : Issue) (s : State) (lane : Nat) (x : Nat × Nat × Nat) : Acc State :=
  let t := smGet 0 iss.u.tickets lane
  let e : BlendEntry := { ticket := t, mode := BitVec.ofNat 32 x.2.1, mask := x.2.2 % 16 &&& bits t 31 28, colours := wordsOf 8 x.1 }
  match blendEntry s iss.p.die (quadOf iss.p.core) e with
  | .error (.wait r) => .error (.wait r s)
  | .error (.flt c va) => .error (.flt { faultVa c va with frozen := true } s)
  | .ok s => .ok (s.modUnit iss.p (fun u => { u with tickets := smDel u.tickets lane }))

/-- Every active lane blends with its own ticket, whatever the class of the operands. -/
def execBlnd (d a b : Fld) (s : State) : Res :=
  let ds : Desc := { engines := .waveOnly, perGang := true, opds := [src d .oct, src a .one, src b .one] }
  frame s ds (fun iss s0 =>
    let (s, vs) := sources s0 iss ds
    let xs := lanesWith iss vs (fun x => (x0 x, x1 x, x2 x))
    if xs.any (fun x => blendModeBad x.2.2.1 || !iss.u.tickets.any (fun t => decide (t.1 = x.1))) then .error (.flt (fault .operand) iss.lanes s)
    else match eachLane (blndLane iss) s xs with
      -- a fault of one lane leaves no lane's blend made (R6); lanes before one that waits have blended
      | .error (.flt f _ _) => .error (.flt f iss.lanes s)
      | r => r)

end Sys2Proof.Machine
end

