-- ==== Sys2Proof/Machine/Special.lean ====
section
/-! DEFINITION. The correctly rounded special functions of R123: exact cases exactly, the others by fixed-point enclosures that are
narrowed until both ends round alike (log entry 11). -/

namespace Sys2Proof.Machine

/-- floor(sqrt n), one bit at a time from 2^k down. -/
def isqrtFrom (n : Nat) : Nat → Nat → Nat
  | 0, r => r
  | k + 1, r => let t := r + 2 ^ k; isqrtFrom n k (if t * t ≤ n then t else r)

def isqrt (n : Nat) : Nat := isqrtFrom n (Nat.log2 n / 2 + 1) 0

/-- SQRT and RSQ: the square root of n/d > 0 rounded once. A root that is not exact lies strictly between two neighbours of a grid far
finer than the format, and rounds as their midpoint does. -/
def rootQ (f : Fmt) (m : FMode) (n d : Nat) : FR :=
  let s : Nat := 200
  let x := n * 2 ^ (2 * s) / d
  let q := isqrt x
  if q * q * d = n * 2 ^ (2 * s) then f.roundQ m.rm m.sat m.ftz false q (2 ^ s)
  else f.roundQ m.rm m.sat m.ftz false (2 * q + 1) (2 ^ (s + 1))

/-- Fixed-point numbers with p fraction bits. -/
def fxMul (p : Nat) (a b : Int) : Int := (a * b) / (2 ^ p : Nat)

/-- atan(1/k) * 2^p, n terms. -/
def fxAtanInv (p k : Nat) : Nat → Nat → Int → Int → Int
  | 0, _, _, acc => acc
  | n + 1, i, pw, acc =>
    fxAtanInv p k n (i + 1) (pw / (k * k : Nat)) (acc + (if i % 2 = 0 then pw / (2 * i + 1 : Nat) else -(pw / (2 * i + 1 : Nat))))

/-- pi * 2^p (Machin). -/
def fxPi (p : Nat) : Int :=
  4 * (4 * fxAtanInv p 5 (p / 4 + 4) 0 ((2 ^ p : Nat) / 5) 0 - fxAtanInv p 239 (p / 15 + 4) 0 ((2 ^ p : Nat) / 239) 0)

/-- 2 * atanh z, with z = pw0 / 2^p at most 1/3. -/
def fxAtanh (p : Nat) (z2 : Int) : Nat → Nat → Int → Int → Int
  | 0, _, _, acc => 2 * acc
  | n + 1, i, pw, acc => fxAtanh p z2 n (i + 1) (fxMul p pw z2) (acc + pw / (2 * i + 1 : Nat))

/-- ln(a/b) * 2^p for 1 ≤ a/b ≤ 2. -/
def fxLn (p a b : Nat) : Int :=
  let z : Int := ((2 ^ p * (a - b)) / (a + b) : Nat)
  fxAtanh p (fxMul p z z) (p / 3 + 4) 0 z 0

/-- exp of a fixed-point r in [0, 1): Taylor. -/
def fxExpT (p : Nat) (r : Int) : Nat → Nat → Int → Int → Int
  | 0, _, _, acc => acc
  | n + 1, i, t, acc => let t' := fxMul p t r / (i : Nat); fxExpT p r n (i + 1) t' (acc + t')

def fxExp (p : Nat) (r : Int) : Int := fxExpT p r (p / 4 + 24) 1 (2 ^ p : Nat) (2 ^ p : Nat)

/-- sin of a fixed-point angle in [0, pi/2]: Taylor. -/
def fxSinT (p : Nat) (x2 : Int) : Nat → Nat → Int → Int → Int
  | 0, _, _, acc => acc
  | n + 1, i, t, acc => let t' := -(fxMul p t x2 / ((2 * i) * (2 * i + 1) : Nat)); fxSinT p x2 n (i + 1) t' (acc + t')

def fxSin (p : Nat) (x : Int) : Int := fxSinT p (fxMul p x x) (p / 8 + 24) 1 x x

/-- An enclosure [lo, hi] of a value, in units of 2^-p. -/
structure Encl where
  lo : Int
  hi : Int
  p : Nat

/-- Round both ends; none when they differ. -/
def Encl.round (f : Fmt) (m : FMode) (e : Encl) : Option FR :=
  let r (x : Int) := f.roundQ m.rm m.sat m.ftz (decide (x < 0)) x.natAbs (2 ^ e.p)
  if (decide (0 < e.lo) || decide (e.hi < 0)) && decide (r e.lo = r e.hi) then some (r e.lo) else none

/-- The slack that covers the truncations of the series above. -/
def slack (p : Nat) : Int := (64 * (p + 64) : Nat)

def enclose (p : Nat) (x : Int) (s : Int) : Encl := { lo := x - s, hi := x + s, p := p }

/-- Try enclosures at growing precision; when every one is too wide the value is left open. It is not exact: the exact cases are taken before. -/
def ziv (f : Fmt) (m : FMode) (g : Nat → Encl) (free : Nat) : FR :=
  match (g 192).round f m with
  | some r => r
  | none =>
    match (g 512).round f m with
    | some r => r
    | none =>
      match (g 1200).round f m with
      | some r => r
      | none => { v := (Config.specialValue free).toNat % 2 ^ f.w, fl := fNx }

/-- 2^(n/d) for a positive fraction n/d below 1, at precision p. -/
def fxExp2 (p n d : Nat) : Int := fxExp p ((fxLn p 2 1 * (n : Int)) / (d : Int))

/-- EXP2 of R123. -/
def exp2F (f : Fmt) (m : FMode) (free : Nat) (x : XR) : FR :=
  match x with
  | .nan => { v := f.nan, fl := 0 }
  | .inf true => { v := 0, fl := 0 }
  | .inf false => { v := f.infinite m.sat false, fl := 0 }
  | .fin s n e =>
    if n = 0 then f.roundQ m.rm m.sat m.ftz false 1 1
    else if ilog n 1 + e ≥ 12 then (if s then f.roundQ m.rm m.sat m.ftz false 1 (2 ^ 900) else f.roundQ m.rm m.sat m.ftz false (2 ^ 900) 1)
    else
      let (a, b) := dyadic n e
      let k := x.floor
      let fr : Nat := if s then (b - a % b) % b else a % b
      if fr = 0 then (let (u, v) := dyadic 1 k; f.roundQ m.rm m.sat m.ftz false u v)
      else
        ziv f m (fun p =>
          let v := fxExp2 p fr b
          let w := if k ≥ 0 then 0 else (-k).toNat
          let g := if k ≥ 0 then 2 ^ k.toNat else 1
          { lo := (v - slack p) * (g : Nat), hi := (v + slack p) * (g : Nat), p := p + w }) free

/-- LOG2 of R123. -/
def log2F (f : Fmt) (m : FMode) (free : Nat) (x : XR) : FR :=
  match x with
  | .nan => { v := f.nan, fl := 0 }
  | .inf true => { v := f.nan, fl := fNv }
  | .inf false => { v := f.infinite m.sat false, fl := 0 }
  | .fin s n e =>
    if n = 0 then { v := f.infinite m.sat true, fl := fDz }
    else if s then { v := f.nan, fl := fNv }
    else
      let l := Nat.log2 n
      let k : Int := l + e
      if n = 2 ^ l then f.roundQ m.rm m.sat m.ftz (decide (k < 0)) k.natAbs 1
      else
        ziv f m (fun p =>
          let y := (fxLn p n (2 ^ l) * (2 ^ p : Nat)) / fxLn p 2 1
          enclose p (y + k * (2 ^ p : Nat)) (4 * slack p)) free

/-- sin(pi * n/d) for 0 < n/d < 1/2, at precision p. -/
def fxSinPi (p n d : Nat) : Encl := enclose p (fxSin p ((fxPi p * (n : Int)) / (d : Int))) (slack p)

/-- sin(pi * a/b), a/b in [0, 2): sign, and the fraction of the first quarter turn. -/
def sinPiReduce (a b : Nat) : Bool × Nat :=
  let neg := decide (b ≤ a)
  let t := if neg then a - b else a
  (neg, if 2 * t ≤ b then t else b - t)

/-- sin(pi * a/b) for a/b in [0, 2), not an integer. -/
def sinPiCore (f : Fmt) (m : FMode) (free : Nat) (flip : Bool) (a b : Nat) : FR :=
  let (s, t) := sinPiReduce a b
  let neg := s ^^ flip
  if 2 * t = b then f.roundQ m.rm m.sat m.ftz neg 1 1
  else
    ziv f m (fun p =>
      let e := fxSinPi p t b
      if neg then { lo := -e.hi, hi := -e.lo, p := e.p } else e) free

/-- SINP of R123. -/
def sinpF (f : Fmt) (m : FMode) (free : Nat) (x : XR) : FR :=
  match x with
  | .nan => { v := f.nan, fl := 0 }
  | .inf _ => { v := f.nan, fl := fNv }
  | .fin s n e =>
    if n = 0 then { v := f.signed s 0, fl := 0 }
    else if e ≥ 0 then { v := 0, fl := 0 }
    else
      let b := 2 ^ (-e).toNat
      let a := n % (2 * b)
      if a % b = 0 then { v := 0, fl := 0 } else sinPiCore f m free s a b

/-- COSP of R123: cos(pi x) = sin(pi (|x| + 1/2)). -/
def cospF (f : Fmt) (m : FMode) (free : Nat) (x : XR) : FR :=
  match x with
  | .nan => { v := f.nan, fl := 0 }
  | .inf _ => { v := f.nan, fl := fNv }
  | .fin _ n e =>
    let (p, q) := dyadic n e
    let b := 2 * q
    let a := (2 * p + q) % (2 * b)
    if a % b = 0 then { v := 0, fl := 0 } else sinPiCore f m free false a b

/-- TANH of R123: 1 - 2 / (exp(2 |x|) + 1). From |x| = 32 on it lies between 1 - 2^-64 and 1, and rounds as 1 - 2^-900 does. -/
def tanhF (f : Fmt) (m : FMode) (free : Nat) (x : XR) : FR :=
  match x with
  | .nan => { v := f.nan, fl := 0 }
  | .inf s => f.roundQ m.rm m.sat m.ftz s 1 1
  | .fin s n e =>
    if n = 0 then { v := f.signed s 0, fl := 0 }
    else if ilog n 1 + e ≥ 5 then f.roundQ m.rm m.sat m.ftz s (2 ^ 900 - 1) (2 ^ 900)
    else
      let (a, b) := dyadic n e
      ziv f m (fun p =>
        let ln2 := fxLn p 2 1
        let y : Int := (2 * a * 2 ^ p / b : Nat)
        let k := y / ln2
        let ex := fxExp p (y - k * ln2) * (2 ^ k.toNat : Nat)
        let sl := slack p * (2 ^ k.toNat : Nat) * (k + 2)
        let one : Int := (2 ^ p : Nat)
        let t (z : Int) : Int := one - (2 * one * one) / (z + one)
        let lo := t (ex - sl) - 2
        let hi := t (ex + sl) + 2
        if s then { lo := -hi, hi := -lo, p := p } else { lo := lo, hi := hi, p := p }) free

/-- RCP, RSQ and SQRT of R123. -/
def rcpF (f : Fmt) (m : FMode) (x : XR) : FR := f.divX m (.fin false 1 0) x

def rsqF (f : Fmt) (m : FMode) (x : XR) : FR :=
  match x with
  | .nan => { v := f.nan, fl := 0 }
  | .inf true => { v := f.nan, fl := fNv }
  | .inf false => { v := 0, fl := 0 }
  | .fin s n e =>
    if n = 0 then { v := f.infinite m.sat s, fl := fDz }
    else if s then { v := f.nan, fl := fNv }
    else (let (a, b) := dyadic n e; rootQ f m b a)

def sqrtF (f : Fmt) (m : FMode) (x : XR) : FR :=
  match x with
  | .nan => { v := f.nan, fl := 0 }
  | .inf true => { v := f.nan, fl := fNv }
  | .inf false => { v := f.infinite m.sat false, fl := 0 }
  | .fin s n e =>
    if n = 0 then { v := f.signed s 0, fl := 0 }
    else if s then { v := f.nan, fl := fNv }
    else (let (a, b) := dyadic n e; rootQ f m a b)

end Sys2Proof.Machine
end

