-- ==== Sys2Proof/Machine/FloatAlu.lean ====
section
/-! DEFINITION. Opcodes 0x60 to 0x76: conversions, special functions, rounding, DOT, block formats and table interpolation (R118 to R131). -/

namespace Sys2Proof.Machine

/-- A group of n registers as a shape (R119). -/
def groupShape (n : Nat) : Shape := if n = 1 then .one else if n = 2 then .pair else if n = 4 then .quad else .oct

/-! ## Conversions (R118 to R122) -/

/-- A float value into a float format, with the extra cases of formats without infinity (R120, R121). -/
def toFloat (f : Fmt) (m : FMode) (x : XR) : FR :=
  match x with
  | .nan => if f.hasNan then { v := f.nan, fl := 0 } else { v := 0, fl := fNv }
  | .inf s =>
    if f.hasInf then { v := f.infinite m.sat s, fl := 0 }
    else { v := f.infinite m.sat s, fl := fNv }
  | .fin s n e => let (a, b) := dyadic n e; f.roundQ m.rm m.sat m.ftz s a b

/-- One element from type S to type T (R120). -/
def convertElem (ts tt : Nat) (m : FMode) (x : Nat) : VF :=
  if isFloatTy ts then
    let v := (floatFmt ts).decodeFtz m.ftz x
    if isFloatTy tt then (toFloat (floatFmt tt) m v).vf
    else let r := toIntegral m.rm (typeMin tt) (typeMax tt) v; (fit tt false r.1, r.2)
  else if isFloatTy tt then (toFloat (floatFmt tt) m (XR.ofInt (elemInt ts x))).vf
  else (fit tt m.sat (elemInt ts x), 0)

/-- Whether CVT converts S to T (R118). -/
def cvtOk (ts tt : Nat) : Bool :=
  decide (ts < 14 ∧ tt < 14) && (!is64 ts || decide (tt < 5)) && (!is64 tt || decide (ts < 5))

/-- The elements that one CVT converts (R119). -/
def cvtCount (ts tt : Nat) : Nat := max 1 (max (32 / elemBits ts) (32 / elemBits tt))

/-- Convert the elements of a group. -/
def convertGroup (n ts tt : Nat) (f : Nat → Nat → VF) (v : Nat) : VF :=
  (List.range n).foldr (fun e acc => let r := f e (v / 2 ^ (elemBits ts * e) % 2 ^ elemBits ts); (r.1 % 2 ^ elemBits tt + 2 ^ elemBits tt * acc.1, r.2 ||| acc.2)) (0, 0)

/-- The registers of a CVT source group from type S to type T. -/
def cvtGroup (ts tt : Nat) : Nat := cvtCount ts tt * elemBits ts / 32

/-- A word that names a source type whose group takes n registers. -/
def cvtNames (x : Word) (tt n : Nat) : Bool := decide (x.toNat < 16) && cvtOk x.toNat tt && decide (cvtGroup x.toNat tt = n)

/-- The source type that the queue of b gives a thread: its oldest word; where a pops the same queue first (R32), the word after a's one or two. DESIGN
CHOICE (log entry 113): a's group is one register when the word after it says so, else a pair when the third word says so. none: a word is missing. -/
def cvtQueued (ws : List Word) (tt : Nat) (shared : Bool) : Option Nat :=
  if !shared then ws.head?.map (·.toNat)
  else
    match ws[1]?, ws[2]? with
    | some x, y => if cvtNames x tt 1 then some x.toNat else y.map (fun y => if cvtNames y tt 2 then y.toNat else x.toNat)
    | none, _ => none

/-- a and b name one queue of a thread. -/
def cvtShared (i : Issue) (a b : Fld) : Bool := isQ a && isQ b && decide (i.u.chanOf a = i.u.chanOf b)

/-- The word that gives CVT its source type, before it issues; none when it is not to be had or not wanted: a lane-class b in a wave, a queue without it or
one that no active lane pops (R64), a register whose token is pending (R48), a conversion that the strand has made already (R31). -/
def cvtSource (s : State) (a b : Fld) (tt : Nat) : Option Nat :=
  match issueOf s true with
  | none => none
  | some i =>
    if i.u.isWave && i.shared.isSome then none
    else if isQ b then
      (if i.u.isWave || i.lanes.isEmpty then none
       else (i.u.chanOf b).bind (fun c => cvtQueued (chanGet s i.u c).words tt (cvtShared i a b)))
    else if i.u.isWave && !isUniform b then none
    else if namesPending s i.u { opds := [src b .one] } then none
    else some (readOpd s i.u (src b .one) false 0)

/-- A CVT whose source type is not to be had is held back, or passes, as its operands have it. -/
def cvtUnknown (s : State) (d a b : Fld) : Res :=
  let pair := (issueOf s true).elim false (fun i => cvtShared i a b)
  lanewise s { types := some (List.range 14), opds := [src a (if pair then .pair else .one), (src b .one).must .uniform] } (dst d .one) (fun _ _ => (0, 0))

def execCvt (d a b : Fld) (s : State) : Res :=
  let tt := curType s
  let ob := (src b .one).must .uniform
  match cvtSource s a b tt with
  | none => cvtUnknown s d a b
  | some w =>
    let ts := w % 16
    if decide (w / 16 = 0) && cvtOk ts tt then
      let n := cvtCount ts tt
      lanewise s { types := some allTypes, opds := [src a (groupShape (n * elemBits ts / 32)), ob] } (dst d (groupShape (n * elemBits tt / 32)))
        (fun iss x => convertGroup n ts tt (fun _ y => convertElem ts tt (fmodeOf iss.u.regs.mode) y) (x0 x))
    else lanewise s { types := some [], opds := [ob] } (dst d .one) (fun _ _ => (0, 0))

/-- Stochastic rounding of R122, with k random bits r. -/
def stochastic (f : Fmt) (m : FMode) (k r : Nat) (x : XR) : FR :=
  match x with
  | .fin s n e =>
    if n = 0 then { v := f.signed s 0, fl := 0 }
    else
      let (a, b) := dyadic n e
      let emin : Int := 1 - (f.bias : Int)
      let ex := max (ilog a b) emin
      let (z, c) := quantise (a * 2 ^ k) b (ex - f.fb)
      let t := z / 2 ^ k
      let inexact := decide (c ≠ 0) || decide (z % 2 ^ k ≠ 0)
      let t := if 2 ^ k ≤ z % 2 ^ k + r then t + 1 else t
      let code := t + (ex - emin).toNat * 2 ^ f.fb
      let tiny := decide (code < 2 ^ f.fb)
      if f.maxCode < code then { v := f.signed s f.maxCode, fl := fOf ||| fNx }
      else if m.ftz && f.flush && tiny then { v := f.signed s 0, fl := fUf ||| fNx }
      else { v := f.signed s code, fl := (if inexact then fNx else 0) ||| (if tiny && inexact then fUf else 0) }
  | y => toFloat f m y

def execCvtr (d a b : Fld) (s : State) : Res :=
  let tt := curType s
  let n := 32 / elemBits tt
  lanewise s { types := some [5, 6, 7, 8, 13], opds := [src a (groupShape n), src b .one] } (dst d .one)
    (fun iss x =>
      let m := fmodeOf iss.u.regs.mode
      let k := 32 / n
      convertGroup n 4 tt (fun j y => (stochastic (floatFmt tt) m k (x1 x / 2 ^ (k * j) % 2 ^ k) (fp32.decodeFtz m.ftz y)).vf) (x0 x))

/-! ## Special functions (R123) -/

/-- Names an evaluation for the values that the enclosures leave undecided (log entry 11). -/
def evalName (op ty : Nat) (m : FMode) (x : Nat) : Nat :=
  ((((op * 16 + ty) * 4 + (match m.rm with | .rne => 0 | .rtz => 1 | .rdn => 2 | .rup => 3)) * 2 + bitOf m.sat) * 2 + bitOf m.ftz) * 2 ^ 32 + x

def specialOp (s : State) (op : Nat) (d a : Fld) (f : Fmt → FMode → Nat → XR → FR) : Res :=
  typedOp s genericFloat d [src a .one]
    (fun ty m x => (f (floatFmt ty) m (evalName op ty m (x0 x)) ((floatFmt ty).decodeFtz m.ftz (x0 x))).vf)

def execRcp (d a : Fld) (s : State) : Res := specialOp s 0 d a (fun f m _ x => rcpF f m x)
def execRsq (d a : Fld) (s : State) : Res := specialOp s 1 d a (fun f m _ x => rsqF f m x)
def execSqrt (d a : Fld) (s : State) : Res := specialOp s 2 d a (fun f m _ x => sqrtF f m x)
def execExp2 (d a : Fld) (s : State) : Res := specialOp s 3 d a exp2F
def execLog2 (d a : Fld) (s : State) : Res := specialOp s 4 d a log2F
def execSinp (d a : Fld) (s : State) : Res := specialOp s 5 d a sinpF
def execCosp (d a : Fld) (s : State) : Res := specialOp s 6 d a cospF
def execTanh (d a : Fld) (s : State) : Res := specialOp s 7 d a tanhF

/-! ## Rounding to integers (R124) -/

def roundOp (s : State) (d a : Fld) (rm : FMode → Rm) : Res :=
  typedOp s genericFloat d [src a .one] (fun ty m x => ((floatFmt ty).integral (rm m) m.ftz (x0 x)).vf)

def execFlr (d a : Fld) (s : State) : Res := roundOp s d a (fun _ => .rdn)
def execCeil (d a : Fld) (s : State) : Res := roundOp s d a (fun _ => .rup)
def execTrnc (d a : Fld) (s : State) : Res := roundOp s d a (fun _ => .rtz)
def execRint (d a : Fld) (s : State) : Res := roundOp s d a (fun m => m.rm)

/-- FRAC: a minus its floor, kept below 1.0. -/
def Fmt.frac (f : Fmt) (m : FMode) (a : Nat) : FR :=
  match f.decodeFtz m.ftz a with
  | .nan => { v := f.nan, fl := 0 }
  | .inf _ => { v := f.nan, fl := fNv }
  | .fin s n e =>
    if n = 0 then { v := 0, fl := 0 }
    else
      let x : XR := .fin s n e
      let (y, _) := XR.sum m.rm [x, XR.ofInt (-x.floor)]
      let r := f.round m.rm false m.ftz false y
      let one := f.bias * 2 ^ f.fb
      if r.v = one then { r with v := one - 1 } else r

def execFrac (d a : Fld) (s : State) : Res :=
  typedOp s genericFloat d [src a .one] (fun ty m x => ((floatFmt ty).frac m (x0 x)).vf)

/-! ## SCALE, CPSGN, DOT (R125, R126) -/

/-- a × 2^n rounded once; beyond ±600 every finite nonzero a overflows or underflows alike. -/
def Fmt.scale (f : Fmt) (m : FMode) (a : Nat) (n : Int) : FR :=
  f.round m.rm m.sat m.ftz false ((f.decodeFtz m.ftz a).scale (max (-600) (min n 600)))

def execScale (d a b : Fld) (s : State) : Res :=
  lanewise s { types := some genericFloat, opds := [src a .one, src b .one] } (dst d .one)
    (fun iss x =>
      let ty := modeType iss.u.regs.mode
      perElem ty (fun y => ((floatFmt ty).scale (fmodeOf iss.u.regs.mode) (x0 y) (sint 32 (x1 x))).vf) [x0 x])

def Fmt.copySign (f : Fmt) (a b : Nat) : Nat :=
  if (f.decode a).isNan then f.nan else a % 2 ^ (f.w - 1) + b / 2 ^ (f.w - 1) % 2 * 2 ^ (f.w - 1)

def execCpsgn (d a b : Fld) (s : State) : Res :=
  typedOp s genericFloat d [src a .one, src b .one] (fun ty _ x => ((floatFmt ty).copySign (x0 x) (x1 x), 0))

/-- The elements of a register. -/
def elemsOf (ty x : Nat) : List Nat := (List.range (elemCount ty)).map (fun e => x / 2 ^ (elemBits ty * e) % 2 ^ elemBits ty)

/-- One rounding of the exact d + Σ a × b (R126). -/
def dotFloat (ty : Nat) (m : FMode) (a b d : Nat) : FR :=
  let f := floatFmt ty
  let ps := ((elemsOf ty a).zip (elemsOf ty b)).map (fun p => (f.decodeFtz m.ftz p.1).mul (f.decodeFtz m.ftz p.2))
  if ps.any (·.2) then { v := fp32.nan, fl := fNv }
  else
    let (x, i) := XR.sum m.rm (fp32.decodeFtz m.ftz d :: ps.map (·.1))
    fp32.round m.rm m.sat m.ftz i x

def dotInt (ty : Nat) (sat : Bool) (a b d : Nat) : Nat :=
  let t := if ty = 11 then 0 else 1
  fit t sat (((elemsOf ty a).zip (elemsOf ty b)).foldl (fun z p => z + elemInt ty p.1 * elemInt ty p.2) (elemInt t d))

def execDot (d a b : Fld) (s : State) : Res :=
  lanewise s { types := some [5, 6, 7, 8, 11, 12], opds := [src a .one, src b .one, rwOpd d .one] } (dst d .one)
    (fun iss x =>
      let ty := modeType iss.u.regs.mode
      if isFloatTy ty then (dotFloat ty (fmodeOf iss.u.regs.mode) (x0 x) (x1 x) (x2 x)).vf
      else (dotInt ty (modeSat iss.u.regs.mode) (x0 x) (x1 x) (x2 x), 0))

/-! ## QG4 and FP4 block operations (R109, R110, R127 to R129) -/

/-- The QG4 levels in units of 1/128 (R110). -/
def qgLevel (i : Nat) : Nat := [0, 13, 27, 41, 56, 74, 96, 128].getD (i % 8) 0

/-- The block scale of R110 as an f32 pattern. -/
def blockScale (sup c : Nat) : Nat :=
  match fp32.decode sup with
  | .fin z n e => (fp32.round .rne false false false (.fin z (n * (c + 1)) (e - 8))).v
  | x => (fp32.round .rne false false false x).v

/-- The exact value of a QG4 code under a block scale; NaN for a scale that is NaN or infinite (R110). -/
def qgValue (bs : XR) (code : Nat) : XR :=
  match bs with
  | .fin z n e => if qgLevel code = 0 then .fin false 0 0 else .fin (z ^^ code.testBit 3) (n * qgLevel code) (e - 7)
  | _ => .nan

/-- Eight values as an octet of f32. -/
def octet (f : Nat → VF) : VF :=
  (List.range 8).foldr (fun j acc => let r := f j; (r.1 % 2 ^ 32 + 2 ^ 32 * acc.1, r.2 ||| acc.2)) (0, 0)

/-- Eight 4-bit codes. -/
def codes8 (f : Nat → VF) : VF :=
  (List.range 8).foldr (fun j acc => let r := f j; (r.1 % 16 + 16 * acc.1, r.2 ||| acc.2)) (0, 0)

def qdecVal (m : FMode) (a b : Nat) : VF :=
  let bs := fp32.decode (blockScale (b % 2 ^ 32) (b / 2 ^ 32 % 256))
  if bs.isNan || bs.isInf then octet (fun _ => (fp32.nan, fNv))
  else octet (fun j => (fp32.round m.rm m.sat m.ftz false (qgValue bs (a / 16 ^ j % 16))).vf)

def execQdec (d a b : Fld) (s : State) : Res :=
  lanewise s { types := some [14], opds := [src a .one, src b .pair] } (dst d .oct) (fun iss x => qdecVal (fmodeOf iss.u.regs.mode) (x0 x) (x1 x))

/-- A magnitude is a positive finite number. -/
def XR.posFin : XR → Bool
  | .fin z n _ => !z && decide (n ≠ 0)
  | _ => false

/-- 256 × |x| / y for finite x and positive y, as a fraction. -/
def ratio256 (x y : XR) : Nat × Nat :=
  match x, y with
  | .fin _ n e, .fin _ k g => let (a, b) := dyadic n (e - g + 8); (a, b * k)
  | _, _ => (0, 1)

/-- The scale code of QENC under f32 (R128). -/
def qencScale (ftz : Bool) (a b : Nat) : VF :=
  let m := fp32.decodeFtz ftz a
  let sc := fp32.decodeFtz ftz b
  if !sc.posFin || m.isNan || m.isInf then (255, fNv)
  else
    let (p, q) := ratio256 m sc
    (min ((p + q - 1) / q - 1) 255, 0)

/-- The level index of p/q in units of 1/256 (R128): above a threshold the higher index, at one the even index. -/
def qgIndex (p q : Nat) : Nat :=
  ([13, 40, 68, 97, 130, 170, 224].zipIdx.filter (fun (t, k) => decide (t * q < p) || (decide (t * q = p) && decide (k % 2 = 1)))).length

def qencElem (ftz : Bool) (bs : XR) (x : Nat) : VF :=
  let v := fp32.decodeFtz ftz x
  match v with
  | .nan => (0, fNv)
  | .inf z => (7 + 8 * bitOf z, fNx)
  | .fin z n e =>
    let (p, q) := ratio256 (.fin z n e) bs
    let i := qgIndex p q
    let code := if i = 0 then 0 else i + 8 * bitOf z
    (code, if (qgValue bs code).cmp v = 0 then 0 else fNx)

def execQenc (d a b : Fld) (s : State) : Res :=
  let ty := curType s
  lanewise s { types := some [4, 14], opds := [src a (if ty = 14 then .oct else .one), src b .one] } (dst d .one)
    (fun iss x =>
      let ftz := modeFtz iss.u.regs.mode
      if modeType iss.u.regs.mode = 4 then qencScale ftz (x0 x) (x1 x)
      else
        let bs := fp32.decodeFtz ftz (x1 x)
        if bs.posFin then codes8 (fun j => qencElem ftz bs (x0 x / 2 ^ (32 * j) % 2 ^ 32)) else (0, fNv))

/-- F4DEC (R129). -/
def f4decVal (m : FMode) (a c : Nat) : VF :=
  if c = 0xFF then octet (fun _ => (fp32.nan, fNv))
  else octet (fun j => (fp32.round m.rm m.sat m.ftz false ((e2m1.decode (a / 16 ^ j % 16)).scale ((c : Int) - 127))).vf)

def execF4dec (d a b : Fld) (s : State) : Res :=
  lanewise s { types := some [13], opds := [src a .one, src b .one] } (dst d .oct) (fun iss x => f4decVal (fmodeOf iss.u.regs.mode) (x0 x) (x1 x % 256))

/-- The scale code of F4ENC under f32 (R129). -/
def f4encScale (ftz : Bool) (a : Nat) : VF :=
  match fp32.decodeFtz ftz a with
  | .fin _ n e => if n = 0 then (0, 0) else ((max 0 (min ((Nat.log2 n : Int) + e + 125) 254)).toNat, 0)
  | _ => (0xFF, fNv)

def f4encVal (m : FMode) (a c : Nat) : VF :=
  if c = 0xFF then (0, fNv)
  else codes8 (fun j => (toFloat e2m1 { m with sat := false } ((fp32.decodeFtz m.ftz (a / 2 ^ (32 * j) % 2 ^ 32)).scale (127 - (c : Int)))).vf)

/-- Under f32 the b field is unused and must be 0x00 (R57, R129). -/
def execF4enc (d a b : Fld) (s : State) : Res :=
  let ty := curType s
  lanewise s { types := some [4, 13], bad := decide (ty = 4 ∧ b ≠ 0), opds := if ty = 13 then [src a .oct, src b .one] else [src a .one] } (dst d .one)
    (fun iss x =>
      let m := fmodeOf iss.u.regs.mode
      if modeType iss.u.regs.mode = 4 then f4encScale m.ftz (x0 x) else f4encVal m (x0 x) (x1 x % 256))

/-! ## Table interpolation (R130) -/

/-- Plain RNE, without sat or ftz. -/
def plainMode : FMode := { rm := .rne, sat := false, ftz := false }

/-- One interpolation: the table's entries by index, its number of entries, and the f32 input. -/
def tliElem (m : FMode) (out : Fmt) (entry : Nat → Nat) (n x0 invH x : Nat) : VF :=
  let dx := fp32.sub plainMode (if m.ftz && (fp32.decodeFtz true x).isZero then x / 2 ^ 31 * 2 ^ 31 else x) x0
  let t := fp32.mul plainMode dx.v invH
  match fp32.decode t.v with
  | .nan => (out.nan, dx.fl ||| t.fl)
  | tv =>
    let fl : Int := match tv with | .inf z => (if z then -1 else (n : Int)) | v => v.floor
    let i := (max 0 (min fl ((n : Int) - 2))).toNat
    let one : XR := .fin false 1 0
    let f : XR := match tv with
      | .inf z => if z then .fin false 0 0 else one
      | v =>
        let (y, _) := XR.sum .rne [v, XR.ofInt (-(i : Int))]
        if y.neg? then .fin false 0 0 else if one.below y then one else y
    let g := fp32.sub plainMode (entry (i + 1)) (entry i)
    let (p, inv) := f.mul (fp32.decode g.v)
    let (z, inv2) := XR.sum m.rm [p, fp32.decode (entry i)]
    let y := if inv then { v := out.nan, fl := fNv } else out.round m.rm m.sat m.ftz inv2 z
    (y.v, dx.fl ||| t.fl ||| g.fl ||| y.fl)

/-- The bytes of local store that a unit's launch gives it (R165, R171, R427). -/
def lsBytes (s : State) (u : Unit) : Nat := if u.isSup then 0 else (s.core u.place.die u.place.core).split * 65536

def execTli (d a b : Fld) (s : State) : Res :=
  let od := dst d .one
  frame s { types := some [4, 6], opds := [src a .one, (src b .quad).must .kOnly, od] } (fun iss s =>
    let q := readOpd s iss.u (src b .quad) false 0
    let base := q % 2 ^ 32
    let e := q / 2 ^ 32 % 16
    let n := 2 ^ e
    if decide (1 ≤ e ∧ e ≤ 10) && decide (q / 2 ^ 36 % 2 ^ 28 = 0) && decide (base % 4 = 0) && decide (base + 4 * n ≤ lsBytes s iss.u) then
      let ty := modeType iss.u.regs.mode
      let m := fmodeOf iss.u.regs.mode
      let entry (i : Nat) : Nat := s.rd (locLs iss.u.place.die iss.u.place.core (base + 4 * i)) 4
      let (s, vs) := readAllOpds s iss.u (signedTy ty) iss.lanes [src a .one]
      let rs := (col vs 0).map (perElem ty (fun x =>
        tliElem m (floatFmt ty) entry n (q / 2 ^ 64 % 2 ^ 32) (q / 2 ^ 96 % 2 ^ 32) (if ty = 6 then x0 x * 65536 else x0 x)) ∘ fun v => [v])
      let s := orFlags s iss.u.place (rs.foldl (fun f r => f ||| r.2) 0)
      .ok (writeDst s iss.u od iss.lanes (rs.map (·.1)))
    else .error (.flt (fault .operand) iss.lanes s))

end Sys2Proof.Machine
end

