-- ==== Sys2Proof/Machine/Matrix.lean ====
section
/-! DEFINITION. Opcodes 0x78 to 0x7F and the engine's events: format blocks, planes, streams and accumulator slots (R308 to R329). -/

namespace Sys2Proof.Machine

/-! ## The arrays (R308) and format blocks (R311, R312) -/

def mxCols (quad : Nat) : Nat := if quad < 40 then 64 else 256
def mxGroup (quad : Nat) : Nat := if quad < 40 then 32 else 64
/-- The bytes of an activation row and of a tile column. -/
def mxRowBytes (quad : Nat) : Nat := if quad < 40 then 256 else 128

/-- One operand of a stream as a format block describes it. -/
structure MxHalf where
  fmt : Nat
  blen : Nat
  sfmt : Nat
  scale : Nat
  sup : BitVec 32
  deriving DecidableEq, Repr

def blockCtl (b : BitVec 256) : BitVec 64 := b.extractLsb' 0 64

def wHalf (b : BitVec 256) : MxHalf :=
  let c := blockCtl b
  { fmt := bits c 3 0, blen := bits c 5 4, sfmt := bits c 7 6, scale := (b.extractLsb' 64 64).toNat, sup := b.extractLsb' 192 32 }

def aHalf (b : BitVec 256) : MxHalf :=
  let c := blockCtl b
  { fmt := bits c 11 8, blen := bits c 13 12, sfmt := bits c 15 14, scale := (b.extractLsb' 128 64).toNat, sup := b.extractLsb' 224 32 }

def MxHalf.ok (h : MxHalf) : Bool :=
  decide (h.sfmt = 0 ↔ h.blen = 0) && decide (h.blen < 3) &&
  (match h.fmt with
   | 1 => decide (h.sfmt = 0)
   | 2 => decide (h.sfmt < 2)
   | 3 => decide (h.sfmt < 2)
   | 4 => decide (h.sfmt < 2)
   | 5 => decide (h.sfmt = 2 ∧ h.blen = 2)
   | _ => false)

/-- The pairs of element formats of a quad kind. -/
def mxPair (quad w a : Nat) : Bool :=
  if quad < 40 then decide (w = 1 ∧ a = 1) || (decide (w = 2 ∨ w = 3) && decide (a = 2 ∨ a = 3)) else decide (w = 4 ∨ w = 5) && decide (a = 4 ∨ a = 5)

def blockOk (quad : Nat) (b : BitVec 256) : Bool :=
  decide (bits (blockCtl b) 63 16 = 0) && (wHalf b).ok && (aHalf b).ok && mxPair quad (wHalf b).fmt (aHalf b).fmt

/-- K, the length of the dot product, by element format. -/
def mxK (fmt : Nat) : Nat := if fmt = 1 then 128 else 256

/-- The blocks per row or column that carry a scale. -/
def MxHalf.blocks (h : MxHalf) : Nat := if h.blen = 0 then 0 else mxK h.fmt / (16 * 2 ^ h.blen)

/-! ## Element values (R313, R314) -/

def mxBits (fmt : Nat) : Nat := if fmt = 1 then 16 else if fmt ≤ 3 then 8 else 4

/-- An element under its block's scale code and super-scale. -/
def MxHalf.value (h : MxHalf) (x c sup : Nat) : XR :=
  let y := match h.fmt with
    | 1 => bf16.decode x
    | 2 => e4m3.decode x
    | 3 => e5m2.decode x
    | _ => e2m1.decode x
  match h.sfmt with
  | 0 => y
  | 1 => if c = 255 then .nan else y.scale ((c : Int) - 127)
  | _ => qgValue (fp32.decode (blockScale sup c)) x

/-- The K values of a row or column from its bytes, its scale codes and its super-scale. -/
def MxHalf.values (h : MxHalf) (raw : Nat) (codes : List Nat) (sup : Nat) : List XR :=
  let w := mxBits h.fmt
  let len := 16 * 2 ^ h.blen
  (List.range (mxK h.fmt)).map (fun k => h.value (raw / 2 ^ (w * k) % 2 ^ w) (codes.getD (k / len) 0) sup)

/-- The exact sum of one group of products, a zero sum as +0. -/
def mxExact (as ws : List XR) : XR :=
  match (XR.sum .rne ((as.zip ws).map (fun p => (p.1.mul p.2).1))).1 with
  | .fin z n e => if n = 0 then .fin false 0 0 else .fin z n e
  | x => x

/-- One group: its sum rounded to FP32, added to the accumulator with one rounding. -/
def mxStep (acc : Nat) (as ws : List XR) : Nat :=
  let t := (fp32.round .rne false false false (mxExact as ws)).v
  (fp32.add { rm := .rne, sat := false, ftz := false } acc t).v

/-- n groups of g products each, in K order. -/
def mxDot (g : Nat) : Nat → Nat → List XR → List XR → Nat
  | 0, acc, _, _ => acc
  | n + 1, acc, as, ws => mxDot g n (mxStep acc (as.take g) (ws.take g)) (as.drop g) (ws.drop g)

/-! ## The weight plane -/

/-- The W operand of a loaded plane. -/
def Plane.half (p : Plane) : MxHalf := wHalf (BitVec.ofNat 256 p.ctl.toNat)

/-- The K values of column n. -/
def Plane.column (p : Plane) (quad n : Nat) : List XR :=
  let h := p.half
  let nb := h.blocks
  let raw := ofBytes ((p.tile.drop (n * mxRowBytes quad)).take (mxRowBytes quad))
  h.values raw (((p.scales.drop (n * nb)).take nb).map (·.toNat)) (p.sups.getD (n * nb / 256) 0).toNat

/-- The new row of a slot: every column's new accumulator. -/
def mxRow (p : Plane) (quad : Nat) (as : List XR) (row : Nat) : Nat :=
  ofWords ((List.range (mxCols quad)).map (fun n =>
    BitVec.ofNat 32 (mxDot (mxGroup quad) (mxK p.half.fmt / mxGroup quad) (row / 2 ^ (32 * n) % 2 ^ 32) as (p.column quad n))))

/-! ## Accumulator words (R316) and rows -/

def accSlot (w : Nat) : Nat := w % 64
def accRow (w : Nat) : Nat := nbits w 14 8
def accBad (quad w : Nat) : Bool := decide (2 ^ 15 ≤ w) || decide (nbits w 7 6 ≠ 0) || decide (slotCount quad ≤ accSlot w)

/-- Where row r of a physical slot lies. -/
def rowLoc (die quad slot r : Nat) : Nat := locAcc die quad (slot * slotBytes quad + r * rowBytes quad)

/-- Whether engine work streams into or drains a logical slot of an ASID (R319). -/
def slotStreams (s : State) (die quad asid l : Nat) : Bool :=
  (s.quad die quad).jobs.any (fun j => decide (j.kind ≠ .load) && decide (accSlot j.acc.toNat = l) && ((s.unit? j.place).elim false (fun u => decide (u.ident.asid = asid))))

def mxDesc (opds : List Opd) : Desc := { engines := .mccOnly, opds := opds }

def uQuad (u : Unit) : Nat := quadOf u.place.core

/-- A stop of an MCC thread's one lane. -/
def mxFlt {α : Type} (iss : Issue) (s : State) (f : FaultInfo) : Except Stop α := .error (.flt f iss.lanes s)
def mxWait {α : Type} (iss : Issue) (s : State) (r : Stall) : Except Stop α := .error (.wait r iss.lanes s)

def putJob (s : State) (u : Unit) (j : MxJob) : State := s.modQuad u.place.die (uQuad u) (fun q => { q with jobs := q.jobs ++ [j] })

/-- What the operands of an instruction that hands work to the engine popped. -/
def poppedBy (u : Unit) (xs : List (Opd × Nat)) : List (Word × Word) :=
  xs.flatMap (fun x => if isQ x.1.f then (wordsOf x.1.sh.words x.2).map (fun w => (u.regs.q.getD (x.1.f.toNat - 0xC0) 0, w)) else [])

/-! ## MXFB, MXWL and MXSW (R321 to R323) -/

def fbIndex (d : Fld) : Nat := d.toNat - 0xE0
def fbOpd (d : Fld) : Opd := { f := d, sh := .one, rd := false, wr := false, rule := .fb }
def fbOf (u : Unit) (i : Nat) : BitVec 256 := u.regs.fb.getD i 0

def execMxfb (d a : Fld) (s : State) : Res :=
  let ds := mxDesc [fbOpd d, src a .pair]
  memFrame s ds (fun iss s0 =>
    let (s, vs) := sources s0 iss ds
    let va := (col vs 0).headD 0
    if va % 32 ≠ 0 then mxFlt iss s (faultVa .align (BitVec.ofNat 64 va))
    else
      match load s (whoOf s iss.u 0) va 32 with
      | .error e => .error (e.stop iss.lanes s)
      | .ok (s, x) =>
        let b := BitVec.ofNat 256 x
        if blockOk (uQuad iss.u) b then .ok (loadEvent (s.modUnit iss.p (fun u => u.modRegs (fun r => { r with fb := setAt r.fb (fbIndex d) b }))) iss.u)
        else mxFlt iss s (fault .operand))

/-- Whether an MXWL proceeds on a quad. -/
def mxLoading (s : State) (die quad : Nat) : Bool := (s.quad die quad).jobs.any (fun j => decide (j.kind = .load))

/-- What MXWL checks and starts: va and c are its operands. -/
def startLoad (s : State) (iss : Issue) (b : BitVec 256) (va c : Nat) (back : List (Word × Word)) : Run :=
  let u := iss.u
  let (die, quad) := (iss.p.die, uQuad u)
  if !quadAdmits s u then mxFlt iss s (fault .prot)
  else if !blockOk quad b then mxFlt iss s (fault .operand)
  else if va % 128 ≠ 0 ∨ c % 128 ≠ 0 then mxFlt iss s (faultVa .align (BitVec.ofNat 64 va))
  else if mxLoading s die quad then mxWait iss s .structural
  else
    let s := s.modQuad die quad (fun q => { q with shadow := Plane.invalid })
    .ok (putJob s u { place := iss.p, kind := .load, acc := 0, va := BitVec.ofNat 64 va, queue := false, ctl := BitVec.ofNat 32 c, fb := b, back := back })

/-- Whether a row of a stream finds its words in channel 14, or a row of a drain room in channel 15 (R325, R326). -/
def rowFits (s : State) (u : Unit) (j : MxJob) : Bool :=
  match j.kind with
  | .load => true
  | .stream => decide (mxRowBytes (uQuad u) / 4 ≤ (chanGet s u (.quad 14)).words.length)
  | .drain => decide ((chanGet s u (.quad 15)).words.length + (if j.ctl.getLsbD 0 then 2 else 4) * mxCols (uQuad u) / 4 ≤ 512)

/-- The reason a thread waits for changes. -/
def mxStall (s : State) (p : Place) (r : Stall) : State := s.modUnit p (fun u => u.modBook (fun b => { b with stall := smPut b.stall 0 r.rank }))

/-- What a thread waits for whose engine work is in progress: words or room in its channel, a free slot for its stream (R317), or the engine. -/
def mxWaitsFor (s : State) (u : Unit) (j : MxJob) : Stall :=
  if j.queue && !rowFits s u j then .queue
  else match j.kind, mapSlot s u.place.die (uQuad u) u.ident.asid (accSlot j.acc.toNat) with
    | .stream, .error (.wait r) => r
    | _, _ => .load

/-- The thread that cur names waits for engine work that is in progress: it goes on reporting what it waits for. -/
def mxHeld (s : State) : Option State :=
  match s.cur with
  | .unit p _ =>
    match s.jobOf p, s.unit? p with
    | some j, some u => some (mxStall s p (mxWaitsFor s u j))
    | _, _ => none
  | _ => none

def execMxwl (d a b : Fld) (s : State) : Res :=
  let ds : Desc := { mxDesc [fbOpd d, src a .pair, src b .one] with holds := true }
  match mxHeld s with
  | some s => .next s
  | none => frame s ds (fun iss s0 =>
    let (s, vs) := sources s0 iss ds
    let va := (col vs 0).headD 0
    let c := (col vs 1).headD 0
    startLoad s iss (fbOf iss.u (fbIndex d)) va c (poppedBy iss.u [(src a .pair, va), (src b .one, c)]))

/-- Loads of n bytes at each address, in order. -/
def loadEach (w : Who) (n : Nat) : State → List Nat → Except Err (State × List Nat)
  | s, [] => .ok (s, [])
  | s, va :: vas =>
    match load s w va n with
    | .error e => .error e
    | .ok (s, x) => (loadEach w n s vas).map (fun (s, xs) => (s, x :: xs))

/-- The address of super-scale i of an operand. -/
def MxHalf.supVa (h : MxHalf) (i : Nat) : Nat := (BitVec.ofNat 64 h.scale + h.sup.signExtend 64 + BitVec.ofNat 64 (4 * i)).toNat

/-- The address of the first scale code of row or column i. -/
def MxHalf.codeVa (h : MxHalf) (i : Nat) : Nat := (BitVec.ofNat 64 (h.scale + i * h.blocks)).toNat

/-- The plane that a load brings. -/
def loadTile (s : State) (u : Unit) (j : MxJob) : Except Err (State × Plane) :=
  let quad := uQuad u
  let w := whoOf s u 0
  let h := wHalf j.fb
  let c := if j.ctl = 0 then mxRowBytes quad else j.ctl.toNat
  let cols := List.range (mxCols quad)
  match loadEach w (mxRowBytes quad) s (cols.map (fun n => j.va.toNat + n * c)) with
  | .error e => .error e
  | .ok (s, tile) =>
    match loadEach w h.blocks s (if h.sfmt = 0 then [] else cols.map h.codeVa) with
    | .error e => .error e
    | .ok (s, codes) =>
      match loadEach w 4 s (if h.sfmt = 2 then (List.range ((mxCols quad * h.blocks + 255) / 256)).map h.supVa else []) with
      | .error e => .error e
      | .ok (s, sups) =>
        .ok (s, { valid := true, ctl := (blockCtl j.fb).extractLsb' 0 16, tile := tile.flatMap (bytesOf (mxRowBytes quad)), scales := codes.flatMap (bytesOf h.blocks),
                  sups := sups.map (BitVec.ofNat 32) })

/-! ## Engine work: its thread, its end, its faults -/

/-- The issue of a thread whose engine work may proceed: it is ready and its context is not being saved. -/
def mxIssue (s : State) (p : Place) : Option Issue :=
  match issueAt s p 0 true with
  | none => none
  | some iss => if iss.u.ctl.run = .ready ∧ iss.u.ctl.halted = false ∧ preempting s p.die (asidOf s iss.u) = false then some iss else none

def setBusy (s : State) (p : Place) (x : Bool) : State := s.modUnit p (fun u => u.modCtl (fun c => { c with mxBusy := x }))

/-- Engine work ends with its instruction complete. -/
def endJob (s : State) (iss : Issue) : State :=
  let s := s.modQuad iss.p.die (uQuad iss.u) (fun q => { q with jobs := q.jobs.filter (fun x => decide (x.place ≠ iss.p)) })
  complete (setBusy s iss.p false) iss false

/-- Engine work ends with a fault of its instruction. -/
def failJob (s : State) (iss : Issue) (f : FaultInfo) : State := takeFault (dropJob s iss.u) iss f iss.lanes

/-- MXWL_COMPLETION: the whole tile and its scales have arrived, or a load of them faults. -/
def execEvMxwlCompletion (die quad : Nat) (s : State) : Res :=
  match (s.quad die quad).jobs.find? (fun j => decide (j.kind = .load)) with
  | none => .next s
  | some j =>
    match mxIssue s j.place with
    | none => .next s
    | some iss =>
      if pageBehind s (.job j.place) then .next s
      else
        let s := pageLeave s (.job j.place)
        match loadTile s iss.u j with
        | .error (.wait _) => .next (pageNote s (.job j.place))
        | .error (.flt c va) => .next (failJob s iss (faultVa c va))
        | .ok (s, pl) => .next (endJob (s.modQuad die quad (fun q => { q with shadow := pl })) iss)

def swapPlanes (s : State) (die quad : Nat) : State := s.modQuad die quad (fun q => { q with active := q.shadow, shadow := q.active, swapReq := none })

/-- Whether an MXST streams on a quad. -/
def mxStreaming (s : State) (die quad : Nat) : Bool := (s.quad die quad).jobs.any (fun j => decide (j.kind = .stream))

def execMxsw (s : State) : Res :=
  frame s (mxDesc []) (fun iss s =>
    let (die, quad) := (iss.p.die, uQuad iss.u)
    if !quadAdmits s iss.u then mxFlt iss s (fault .prot)
    else if mxLoading s die quad then mxWait iss s .structural
    else
      match (s.quad die quad).swapReq with
      | some p =>
        if p ≠ iss.p ∨ mxStreaming s die quad = true then mxWait iss s .structural else .ok (swapPlanes s die quad)
      | none =>
        if mxStreaming s die quad then mxWait iss (s.modQuad die quad (fun q => { q with swapReq := some iss.p })) .structural
        else .ok (swapPlanes s die quad))

/-- A row boundary: an exchange that waits for it takes effect, and its MXSW completes; it waits on for an MXWL in progress (R323). -/
def rowBoundary (s : State) (die quad : Nat) : State :=
  match (s.quad die quad).swapReq with
  | none => s
  | some p =>
    if mxLoading s die quad then s else
    match mxIssue s p with
    | none => s
    | some iss => complete (swapPlanes s die quad) iss false

/-! ## MXST (R324, R325) -/

/-- Operand a of MXST, and d of MXRD: a queue register, whose words the engine moves, or a pair. -/
def rowOpd (f : Fld) : Opd := if isQ f then { f := f, sh := .one, rd := false, wr := false, rule := .queue } else src f .pair

/-- The queue register names the quad channel with this index. -/
def boundTo (u : Unit) (f : Fld) (i : Nat) : Bool := decide (u.chanOf f = some (.quad i))

def ctlRows (w : Nat) : Nat := nbits w 15 8
def ctlStride (w : Nat) : Nat := nbits w 31 16

/-- The checks that a stream or drain word makes of itself and of its rows. -/
def ctlBad (quad acc w : Nat) (queue : Bool) : Bool :=
  decide (nbits w 7 2 ≠ 0) || decide (128 < ctlRows w) || accBad quad acc || decide (128 < accRow acc + ctlRows w) || (queue && decide (ctlStride w ≠ 0))

/-- Whether this issue continues rows that an earlier issue has done (R334; log entry 32). -/
def mxResumes (iss : Issue) : Bool := iss.u.ctl.mxBusy && decide (iss.u.ctl.mxPc = iss.pc)

/-- The first issue sets mxpi to 0; a replayed or restored one keeps it. -/
def mxArm (s : State) (iss : Issue) : State :=
  let s := if mxResumes iss then s else s.modUnit iss.p (fun u => u.modRegs (fun r => { r with mxpi := 0 }))
  (setBusy s iss.p true).modUnit iss.p (fun u => u.modCtl (fun c => { c with mxPc := iss.pc }))

/-- Rows left to do at an issue. -/
def mxLeft (iss : Issue) (w : Nat) : Bool := decide ((if mxResumes iss then iss.u.regs.mxpi.toNat else 0) < ctlRows w)

/-- The row checks (R325): the active plane is valid and pairs with the A format. -/
def planePairs (s : State) (die quad : Nat) (b : BitVec 256) : Bool :=
  (s.quad die quad).active.valid && mxPair quad (s.quad die quad).active.half.fmt (aHalf b).fmt

/-- What MXST checks and starts. -/
def startStream (s : State) (iss : Issue) (j : MxJob) (bound : Bool) : Run :=
  let (die, quad) := (iss.p.die, uQuad iss.u)
  let w := j.ctl.toNat
  if !quadAdmits s iss.u then mxFlt iss s (fault .prot)
  else if j.queue && !bound then mxFlt iss s (fault .queue)
  else if ctlBad quad j.acc.toNat w j.queue || !blockOk quad j.fb then mxFlt iss s (fault .operand)
  else if !j.queue ∧ j.va.toNat % 64 ≠ 0 then mxFlt iss s (faultVa .align j.va)
  else if mxStreaming s die quad || slotStreams s die quad iss.u.ident.asid (accSlot j.acc.toNat) then mxWait iss s .structural
  else if !planePairs s die quad j.fb then mxFlt iss s (fault .operand)
  else if ctlRows w = 0 then .ok s
  else if mxLeft iss w then .ok (putJob (mxArm s iss) iss.u j)
  else .ok (setBusy s iss.p false)

def execMxst (d a b : Fld) (s : State) : Res :=
  let ds : Desc := { mxDesc [src d .one, rowOpd a, src b .one] with holds := true }
  match mxHeld s with
  | some s => .next s
  | none => frame s ds (fun iss s0 =>
    let (s, vs) := sources s0 iss ds
    let acc := (col vs 0).headD 0
    let va := if isQ a then 0 else (col vs 1).headD 0
    let w := (col vs (if isQ a then 1 else 2)).headD 0
    startStream s iss { place := iss.p, kind := .stream, acc := BitVec.ofNat 32 acc, va := BitVec.ofNat 64 va, queue := isQ a, ctl := BitVec.ofNat 32 w,
                        fb := fbOf iss.u (w % 4), back := poppedBy iss.u [(src d .one, acc), (src b .one, w)] } (boundTo iss.u a 14))

/-- Why a row does not happen: a fault, or a wait. -/
inductive RowStop where
  | flt (f : FaultInfo)
  | wait (r : Stall)
  deriving DecidableEq, Repr

/-- A fault of a row's access is a fault of the stream (R260, kind 5). -/
def rowErr {α : Type} (x : Except Err α) : Except RowStop α :=
  match x with
  | .ok a => .ok a
  | .error (.flt c va) => .error (.flt { faultVa c va with stream := true })
  | .error (.wait r) => .error (.wait r)

/-- The bytes from one row to the next. -/
def rowStride (w packed : Nat) : Nat := if ctlStride w = 0 then packed else 64 * ctlStride w

/-- The bytes of row i of a stream: from memory, or popped from channel 14 as a whole. -/
def takeRow (s : State) (u : Unit) (j : MxJob) (i : Nat) : Except RowStop (State × Nat) :=
  let quad := uQuad u
  let n := mxRowBytes quad
  if j.queue then
    let c := chanGet s u (.quad 14)
    if c.words.length < n / 4 || overtaken s c.waiters u.place 0 true then .error (.wait .queue)
    else .ok (chanMod s u (.quad 14) (fun c => { c with words := c.words.drop (n / 4) }), ofWords (c.words.take (n / 4)))
  else rowErr (load s (whoOf s u 0) (j.va.toNat + i * rowStride j.ctl.toNat n) n)

/-- The scale codes and the super-scale of row i. -/
def takeScales (s : State) (u : Unit) (h : MxHalf) (i : Nat) : Except RowStop (State × List Nat × Nat) :=
  if h.sfmt = 0 then .ok (s, [], 0)
  else
    match rowErr (load s (whoOf s u 0) (h.codeVa i) h.blocks) with
    | .error e => .error e
    | .ok (s, x) =>
      let codes := (bytesOf h.blocks x).map (·.toNat)
      if h.sfmt = 2 then (rowErr (load s (whoOf s u 0) (h.supVa (i * h.blocks / 256)) 4)).map (fun (s, y) => (s, codes, y)) else .ok (s, codes, 0)

/-- One row of a stream. -/
def streamRow (s : State) (u : Unit) (j : MxJob) : Except RowStop State :=
  let (die, quad) := (u.place.die, uQuad u)
  let i := u.regs.mxpi.toNat
  if !planePairs s die quad j.fb then .error (.flt (fault .operand))
  else
    match takeRow s u j i with
    | .error e => .error e
    | .ok (s, raw) =>
      match takeScales s u (aHalf j.fb) i with
      | .error e => .error e
      | .ok (s, codes, sup) =>
        match mapSlot s die quad u.ident.asid (accSlot j.acc.toNat) with
        | .error (.flt c _) => .error (.flt (fault c))
        | .error (.wait r) => .error (.wait r)
        | .ok (s, slot) =>
          let loc := rowLoc die quad slot (accRow j.acc.toNat + i)
          let row := mxRow (s.quad die quad).active quad ((aHalf j.fb).values raw codes sup) (s.rd loc (rowBytes quad))
          .ok (s.wr loc (rowBytes quad) row)

/-- A row that waits at its stream port has a place in the blocking order of the channel (R245), which it gives up when it moves. -/
def rowPlace (s : State) (u : Unit) (j : MxJob) (keep : Bool) : State :=
  let i := if j.kind = .stream then 14 else 15
  let w : QWait := { place := u.place, gang := 0, pop := decide (j.kind = .stream) }
  if j.queue then chanMod s u (.quad i) (fun c => { c with waiters := if keep then addWait c.waiters w else dropWait c.waiters w }) else s

/-- A row event: the row, then mxpi, the end of the instruction after its last row, and the row boundary. A row that faults or waits changes nothing
else. -/
def rowEvent (s : State) (p : Place) (kind : MxKind) (row : State → Unit → MxJob → Except RowStop State) : State :=
  match s.jobOf p, mxIssue s p with
  | some j, some iss =>
    if j.kind = kind ∧ pageBehind s (.job p) = false then
      let s := pageLeave s (.job p)
      match row s iss.u j with
      | .error (.flt f) => failJob s iss f
      | .error (.wait .queue) => rowPlace (mxStall s p .queue) iss.u j true
      | .error (.wait r) => pageNote (mxStall s p r) (.job p)
      | .ok s =>
        let s := rowPlace s iss.u j false
        let n := iss.u.regs.mxpi + 1
        let s := mxStall (s.modUnit p (fun u => u.modRegs (fun r => { r with mxpi := n }))) p .load
        let s := if ctlRows j.ctl.toNat ≤ n.toNat then endJob s iss else s
        if kind = .stream then rowBoundary s p.die (uQuad iss.u) else s
    else s
  | _, _ => s

/-- MXST_ROW: one activation row is summed into its slot row. -/
def execEvMxstRow (p : Place) (s : State) : Res := .next (rowEvent s p .stream streamRow)

/-! ## MXRD (R326) -/

/-- What MXRD checks and starts. -/
def startDrain (s : State) (iss : Issue) (j : MxJob) (bound : Bool) : Run :=
  let quad := uQuad iss.u
  let w := j.ctl.toNat
  if !quadAdmits s iss.u then mxFlt iss s (fault .prot)
  else if j.queue && !bound then mxFlt iss s (fault .queue)
  else if ctlBad quad j.acc.toNat w j.queue then mxFlt iss s (fault .operand)
  else if !j.queue ∧ j.va.toNat % 64 ≠ 0 then mxFlt iss s (faultVa .align j.va)
  else if mxLeft iss w then .ok (putJob (mxArm s iss) iss.u j)
  else .ok (setBusy (mxArm s iss) iss.p false)

def execMxrd (d a b : Fld) (s : State) : Res :=
  let ds : Desc := { mxDesc [rowOpd d, src a .one, src b .one] with holds := true }
  match mxHeld s with
  | some s => .next s
  | none => frame s ds (fun iss s0 =>
    let (s, vs) := sources s0 iss ds
    let n := if isQ d then 0 else 1
    let va := if isQ d then 0 else (col vs 0).headD 0
    let acc := (col vs n).headD 0
    let w := (col vs (n + 1)).headD 0
    startDrain s iss { place := iss.p, kind := .drain, acc := BitVec.ofNat 32 acc, va := BitVec.ofNat 64 va, queue := isQ d, ctl := BitVec.ofNat 32 w, fb := 0,
                       back := poppedBy iss.u [(src a .one, acc), (src b .one, w)] } (boundTo iss.u d 15))

/-- The bytes of a row as drained, and how many. -/
def drained (quad row : Nat) (bf : Bool) : Nat × Nat :=
  let xs := (List.range (mxCols quad)).map (fun n => row / 2 ^ (32 * n) % 2 ^ 32)
  if bf then (xs.foldr (fun x acc => (bf16.round .rne false false false (fp32.decode x)).v + 65536 * acc) 0, 2 * mxCols quad) else (row, 4 * mxCols quad)

/-- The row goes to memory, or to channel 15 as a whole. -/
def giveRow (s : State) (u : Unit) (j : MxJob) (i n v : Nat) : Except RowStop State :=
  if j.queue then
    let c := chanGet s u (.quad 15)
    if decide (512 < c.words.length + n / 4) || overtaken s c.waiters u.place 0 false then .error (.wait .queue) else .ok (chanPush s u (.quad 15) (wordsOf (n / 4) v))
  else rowErr (store s (whoOf s u 0) (j.va.toNat + i * rowStride j.ctl.toNat n) n v)

/-- One row of a drain. -/
def drainRow (s : State) (u : Unit) (j : MxJob) : Except RowStop State :=
  let (die, quad) := (u.place.die, uQuad u)
  let i := u.regs.mxpi.toNat
  let loc := (slotOf s die quad u.ident.asid (accSlot j.acc.toNat)).map (fun k => rowLoc die quad k (accRow j.acc.toNat + i))
  let (v, n) := drained quad (loc.elim 0 (fun a => s.rd a (rowBytes quad))) (j.ctl.getLsbD 0)
  match giveRow s u j i n v with
  | .error e => .error e
  | .ok s => .ok (if j.ctl.getLsbD 1 then loc.elim s (fun a => s.wr a (rowBytes quad) 0) else s)

/-- MXRD_ROW: one row of a slot is drained. -/
def execEvMxrdRow (p : Place) (s : State) : Res := .next (rowEvent s p .drain drainRow)

/-! ## MXREL, MXZ and MXQ (R327, R328) -/

def execMxrel (d : Fld) (s : State) : Res :=
  let ds := mxDesc [src d .one]
  frame s ds (fun iss s0 =>
    let (s, vs) := sources s0 iss ds
    let w := (col vs 0).headD 0
    let (die, quad) := (iss.p.die, uQuad iss.u)
    if accBad quad w then mxFlt iss s (fault .operand)
    else if slotStreams s die quad iss.u.ident.asid (accSlot w) then mxWait iss s .structural
    else .ok (s.modQuad die quad (fun q => { q with slots := q.slots.map (fun t => if t = some { asid := iss.u.ident.asid, slot := accSlot w } then none else t) })))

/-- n copies of a word as bytes. -/
def repeatWord (n w : Nat) : List Byte := (List.replicate n (bytesOf 4 w)).flatten

def execMxz (d a : Fld) (s : State) : Res :=
  let ds := mxDesc [src d .one, src a .one]
  frame s ds (fun iss s0 =>
    let (s, vs) := sources s0 iss ds
    let w := (col vs 0).headD 0
    let x := (col vs 1).headD 0
    let (die, quad) := (iss.p.die, uQuad iss.u)
    if accBad quad w then mxFlt iss s (fault .operand)
    else if slotStreams s die quad iss.u.ident.asid (accSlot w) then mxWait iss s .structural
    else
      match mapSlot s die quad iss.u.ident.asid (accSlot w) with
      | .error (.flt c _) => mxFlt iss s (fault c)
      | .error (.wait r) => mxWait iss s r
      | .ok (s, slot) => .ok (s.wrBytes (rowLoc die quad slot 0) (repeatWord (slotBytes quad / 4) x)))

/-- The logical slots from lo up to lo + 31 that an ASID has mapped, as bits. -/
def slotBits (q : Quad) (asid lo : Nat) : Nat :=
  ((List.range 32).map (fun i => if q.slots.contains (some { asid := asid, slot := lo + i }) then 2 ^ i else 0)).sum

def execMxq (d a : Fld) (s : State) : Res :=
  let out := dst d .one
  let ds := mxDesc [src a .one, out]
  frame s ds (fun iss s0 =>
    let (s, vs) := sources s0 iss ds
    let q := s.quad iss.p.die (uQuad iss.u)
    let asid := iss.u.ident.asid
    let done (v : Nat) : Run := .ok (writeDst s iss.u out iss.lanes (iss.lanes.map (fun _ => v)))
    match (col vs 0).headD 0 with
    | 0 =>
      if quadAdmits s iss.u then
        done ((q.slots.filter (·.isNone)).length * 2 ^ 24 + (q.slots.filter (fun t => t.elim false (fun t => decide (t.asid = asid)))).length * 2 ^ 16 +
              (if q.shadow.valid then 512 else 0) + (if q.active.valid then 256 else 0))
      else mxFlt iss s (fault .prot)
    | 1 => done (slotBits q asid 0)
    | 2 => done (slotBits q asid 32)
    | 3 => done (q.resv.filter (fun r => r.elim false (fun r => decide (r.asid = asid)))).length
    | _ => mxFlt iss s (fault .operand))

end Sys2Proof.Machine
end

