-- ==== Sys2Proof/Machine/Clock.lean ====
section
/-! DEFINITION. The passing of one main clock, and the events of sampling and of words without an instruction (R60, R63, R277, R280, R282, R400 to R415). -/

namespace Sys2Proof.Machine

/-! ## Stall reasons (R282) -/

/-- The rank that applies to a gang that does not issue: 11 where it is ready. -/
def gangRank (s : State) (u : Unit) (g : Nat) : Nat :=
  match u.ctl.run with
  | .parked => 1
  | .frozen => 3
  | .stopped => 3
  | .suspended => 4
  | .ready =>
    if u.ctl.halted then 2
    else if !u.isSup && preempting s u.place.die u.ident.asid then 4
    else if (u.gangSlices g).any (fun i => (u.slice i).atRegang) then 5
    else smGet 11 u.book.stall g

/-- The rank of a unit: the first that applies to any of its gangs. -/
def unitRank (s : State) (u : Unit) : Nat := (u.gangs.map (gangRank s u)).foldl min 11

/-- One clock of a unit: its wait counts, its promotions, and its stall counter if none of its gangs has issued. -/
def clockUnit (s : State) (u : Unit) : Unit :=
  let waits := u.gangs.filter (fun g => decide (gangRank s u g = 11) && !u.book.issued.contains g)
  let gwait := waits.foldl (fun m g => smPut m g (smGet 0 u.book.gwait g + 1)) []
  let due := waits.filter (fun g => decide (256 ≤ smGet 0 gwait g) && !u.book.promoted.contains g)
  let r := unitRank s u
  u.modBook (fun b => { b with
    gwait := gwait, promoted := b.promoted ++ due, issued := [],
    stalls := if u.book.issued.isEmpty then smPut b.stalls r (smGet 0 b.stalls r + 1) else b.stalls })

/-! ## One main clock -/

/-- A core: lost clocks while it is gated (R400), the time at which it was last not empty (R431), its sampling count (R415). -/
def clockCore (s : State) (die core : Nat) (k : Core) : Core :=
  { k with
    cycOff := if k.gated then k.cycOff + 1 else k.cycOff,
    emptySince := if coreIdle s die core then k.emptySince else nowOf s die,
    smpCount := if bit k.smpCfg 31 then k.smpCount + 1 else 0,
    issued := [], tried := [], uniUsed := false }

/-- A bin's timer counts from its first record and stops at the template's value (R277). -/
def clockBin (b : Bin) : Bin := if b.state = .filling ∧ b.recs ≠ [] then { b with elapsed := min b.timer (b.elapsed + 1) } else b

/-- The periods that the level monitors count (R406), and the dispatcher's next placement (R274). -/
def clockMons (d : Die) : Die :=
  { d with disp := { d.disp with placed := false }, monCount := d.mons.foldl (fun m x => if bit (smGet 0 x.2 0) 31 ∧ bits (smGet 0 x.2 0) 26 24 = 6 then smPut m x.1 (smGet 0 m x.1 + 1) else m) d.monCount }

/-- A main clock passes on the package: its counters, timers and device times. -/
def clockTick (s : State) : State :=
  let s := { s with units := s.units.map (clockUnit s), pkg := { s.pkg with clocks := s.pkg.clocks + 1 } }
  let s := { s with dies := s.dies.map (fun (d : Die) => clockMons (d.clock s.pkg.clk)) }
  { s with cores := s.cores.map (fun (x : Nat × Core) => (x.1, clockCore s (x.1 / 240) (x.1 % 240) x.2)),
           quads := s.quads.map (fun (x : Nat × Quad) => (x.1, { x.2 with bins := x.2.bins.map clockBin })) }

/-- The write-throughs of a die that found no home which answers are reported by the port that they left through (R170, R260; log entry 116). -/
def reportWts (s : State) (die : Nat) : State :=
  match (s.die die).wtErrs with
  | [] => s
  | pas => pas.foldl (fun s pa =>
      sendPacket s die 0 { cause := .ecc, halted := false, tx := false, asid := 0, imm := 0, kind := if paHost pa then 7 else 8, place := 0, serial := 0, pc := 0,
                           va := BitVec.ofNat 64 pa, unfinished := 0, detail := if paHost pa then 0 else BitVec.ofNat 64 (olunPort pa) })
    (s.modDie die (fun d => { d with wtErrs := [] }))

/-- What a die does that waited for a flip, for room or for a context: reports, trace records, register writes, bins (R170, R277, R298, R412). -/
def dieChores (s : State) (die : Nat) : State :=
  let s := reportWts s die
  let s := match (s.die die).trcWait with
    | [] => s
    | ws => flushTrace s die ws
  wakeContexts (replayRegs s die) die

/-- What the package does in a clock besides: a step of bring-up, the network, tickets that blenders owe, cores that power up, and the dies' chores. -/
def chores (s : State) : State :=
  let s := wakeDue (runNet (advanceBoot s))
  let s := (s.quads.filter (fun x => !x.2.owed.isEmpty)).foldl (fun s x => payTickets s (x.1 / 60) (x.1 % 60)) s
  (List.range 4).foldl dieChores s

def tick (s : State) : State := clockTick (chores (if s.pkg.heldReqs.isEmpty then s else serveHeld s))

/-! ## SAMPLE_RECORD (R415) -/

/-- The sampling period: 2^lsp clocks, 8 to 24. -/
def samplePeriod (cfg : Word) : Nat := let l := bits cfg 4 0; 2 ^ (if 8 ≤ l ∧ l ≤ 24 then l else 24)

/-- The next resident unit in the order of slots 0 to 63 and then the threads, from a code on, wrapping. -/
def nextSampled (us : List Unit) (code : Nat) : Option Unit :=
  (List.range 192).findSome? (fun i => us.find? (fun u => decide (u.place.unit = (code + i) % 192)))

/-- SAMPLE_RECORD: at the end of a period, a kind-3 record of the next resident wave or thread. -/
def execEvSampleRecord (die core : Nat) (s : State) : Res :=
  let k := s.core die core
  if bit k.smpCfg 31 ∧ samplePeriod k.smpCfg ≤ k.smpCount then
    let s := s.modCore die core (fun k => { k with smpCount := k.smpCount % samplePeriod k.smpCfg })
    match nextSampled (unitsOn s die core) k.smpNext with
    | none => .next s
    | some u =>
      let s := s.modCore die core (fun k => { k with smpNext := (u.place.unit + 1) % 192 })
      let why := if u.book.issued.isEmpty then unitRank s u else 0
      .next (traceWrite s die 3 (traceRecord 3 why (asidOf s u) (placeWord u.place (ownPkg s)) (nowOf s die) (firstIssue u).pc u.activation.tag (senderSerial u)))
  else .next s

/-! ## MONITOR_LEVEL_SAMPLE (R406, R407) -/

/-- The level sampling period: 2^lper clocks, 4 to 24. -/
def levelPeriod (cfg : Word) : Nat := let l := bits cfg 4 0; 2 ^ (if 4 ≤ l ∧ l ≤ 24 then l else 24)

/-- The words or entries that the queue named by a filter holds on a quad. -/
def levelOf (q : Quad) (filter : Word) : Nat :=
  let i := bits filter 3 0
  match bits filter 7 4 with
  | 0 => (q.chans.getD i Chan.empty).words.length
  | 1 => (q.launders.getD i { cfg := 0, entries := [], waiters := [] }).entries.length
  | 2 => (q.mboxes.getD i Chan.empty).words.length
  | _ => 0

/-- MONITOR_LEVEL_SAMPLE: at the end of a period, a level monitor takes a value for each quad that qualifies, for the ASID of its chan_owner; a
monitor of any ASID takes an unowned quad too. -/
def execEvMonitorLevelSample (die mon : Nat) (s : State) : Res :=
  let d := s.die die
  let m := smGet [] d.mons mon
  let p := levelPeriod (smGet 0 m 0)
  if p ≤ smGet 0 d.monCount mon then
    let ok (q : Nat) : Bool := (bit (s.quad die q).chanOwner 16 || bit (smGet 0 m 1) 15) && monQualifies m 6 (bits (s.quad die q).chanOwner 15 0) q
    let m := ((List.range 60).filter ok).foldl (fun m q => monUpdate m (levelOf (s.quad die q) (smGet 0 m 1))) m
    .next (s.modDie die (fun d => { d with monCount := smPut d.monCount mon (smGet 0 d.monCount mon % p), mons := smSet [] d.mons mon m }))
  else .next s

/-! ## UNASSIGNED_OPCODE (R60, R63) -/

/-- The engines that an opcode executes on, by stage 2 of R63. -/
def opcodeEngines (op : Nat) : Engines :=
  if (0x80 ≤ op ∧ op ≤ 0x8B) ∨ op = 0xEC then .waveOnly else if (0x78 ≤ op ∧ op ≤ 0x7F) ∨ op = 0xF8 ∨ op = 0xF9 then .mccOnly else .all

/-- The words that need supervisor mode, by stage 3 of R63. -/
def wordPriv (w : Word) : Bool :=
  let op := (opcodeOf w).toNat
  decide (op = 0x1D ∨ op = 0x1F ∨ (0xFA ≤ op ∧ op ≤ 0xFD)) || (decide (op = 0x1C) && decide (0x40 ≤ (field w 0 8).toNat))

/-- The fault of a word that is no instruction: its opcode is unassigned, or a reserved field is set. -/
def wordFault (u : Unit) (w : Word) : Cause :=
  if opcodeAssigned (opcodeOf w).toNat && (opcodeEngines (opcodeOf w).toNat).allow u.engine && wordPriv w && !u.isSup then .priv else .illegal

/-- The opcodes that act on the slice, strand or wave as a whole, which the guard does not shape (R64): NOP, JOINAT, REGANG, LOOP, LBRK, LAND, YIELD and
the MODE family. -/
def wholeOpcode (op : Nat) : Bool := ([0x01, 0x09, 0x0A, 0x0B, 0x0C, 0x0E, 0x0F] : List Nat).contains op || decide (0x10 ≤ op ∧ op ≤ 0x15)

/-- UNASSIGNED_OPCODE: a fetched word that no instruction has. -/
def execEvUnassignedOpcode (w : Word) (s : State) : Res :=
  match issueOf s (!wholeOpcode (opcodeOf w).toNat) with
  | none => .fault .noAgent
  | some iss => .next (takeFault s iss (fault (wordFault iss.u w)) iss.lanes)

end Sys2Proof.Machine
end

