-- ==== Sys2Proof/Machine/Dispatch.lean ====
section
/-! DEFINITION. The meaning of every row of the opcode table: one arm per constructor, one direct call each. -/

namespace Sys2Proof.Machine

/-- One instruction of the agent that cur names, one micro-instruction of the ray that cur names, or one event. -/
def exec (i : Instr) (s : State) : Host.Outcome State Fault Refusal :=
  match i with
  | .nop => Sys2Proof.Machine.execNop s
  | .bra off => Sys2Proof.Machine.execBra off s
  | .call off => Sys2Proof.Machine.execCall off s
  | .brt d imm => Sys2Proof.Machine.execBrt d imm s
  | .brf d imm => Sys2Proof.Machine.execBrf d imm s
  | .bri a => Sys2Proof.Machine.execBri a s
  | .calli d a => Sys2Proof.Machine.execCalli d a s
  | .ret a => Sys2Proof.Machine.execRet a s
  | .joinat imm => Sys2Proof.Machine.execJoinat imm s
  | .regang => Sys2Proof.Machine.execRegang s
  | .loop d imm => Sys2Proof.Machine.execLoop d imm s
  | .lbrk => Sys2Proof.Machine.execLbrk s
  | .exit => Sys2Proof.Machine.execExit s
  | .land => Sys2Proof.Machine.execLand s
  | .yield => Sys2Proof.Machine.execYield s
  | .mode imm => Sys2Proof.Machine.execMode imm s
  | .modet t => Sys2Proof.Machine.execModet t s
  | .modeg e n g => Sys2Proof.Machine.execModeg e n g s
  | .modes sc => Sys2Proof.Machine.execModes sc s
  | .moder r => Sys2Proof.Machine.execModer r s
  | .modew a => Sys2Proof.Machine.execModew a s
  | .trap imm => Sys2Proof.Machine.execTrap imm s
  | .bkpt imm => Sys2Proof.Machine.execBkpt imm s
  | .migr off => Sys2Proof.Machine.execMigr off s
  | .spawn d a => Sys2Proof.Machine.execSpawn d a s
  | .fork a => Sys2Proof.Machine.execFork a s
  | .callat d a b => Sys2Proof.Machine.execCallat d a b s
  | .mfs d imm => Sys2Proof.Machine.execMfs d imm s
  | .mts a imm => Sys2Proof.Machine.execMts a imm s
  | .sleep a => Sys2Proof.Machine.execSleep a s
  | .halt a b => Sys2Proof.Machine.execHalt a b s
  | .add d a b => Sys2Proof.Machine.execAdd d a b s
  | .sub d a b => Sys2Proof.Machine.execSub d a b s
  | .mul d a b => Sys2Proof.Machine.execMul d a b s
  | .mad d a b => Sys2Proof.Machine.execMad d a b s
  | .min d a b => Sys2Proof.Machine.execMin d a b s
  | .max d a b => Sys2Proof.Machine.execMax d a b s
  | .neg d a => Sys2Proof.Machine.execNeg d a s
  | .abs d a => Sys2Proof.Machine.execAbs d a s
  | .addi d a imm => Sys2Proof.Machine.execAddi d a imm s
  | .muli d a imm => Sys2Proof.Machine.execMuli d a imm s
  | .clamp d a b => Sys2Proof.Machine.execClamp d a b s
  | .mulh d a b => Sys2Proof.Machine.execMulh d a b s
  | .div d a b => Sys2Proof.Machine.execDiv d a b s
  | .rem d a b => Sys2Proof.Machine.execRem d a b s
  | .sad d a b => Sys2Proof.Machine.execSad d a b s
  | .addc d a b => Sys2Proof.Machine.execAddc d a b s
  | .ceq d a b => Sys2Proof.Machine.execCeq d a b s
  | .cne d a b => Sys2Proof.Machine.execCne d a b s
  | .clt d a b => Sys2Proof.Machine.execClt d a b s
  | .cle d a b => Sys2Proof.Machine.execCle d a b s
  | .cgt d a b => Sys2Proof.Machine.execCgt d a b s
  | .cge d a b => Sys2Proof.Machine.execCge d a b s
  | .cun d a b => Sys2Proof.Machine.execCun d a b s
  | .ceqi d a imm => Sys2Proof.Machine.execCeqi d a imm s
  | .clti d a imm => Sys2Proof.Machine.execClti d a imm s
  | .pand d a b => Sys2Proof.Machine.execPand d a b s
  | .por d a b => Sys2Proof.Machine.execPor d a b s
  | .pxor d a b => Sys2Proof.Machine.execPxor d a b s
  | .pnot d a => Sys2Proof.Machine.execPnot d a s
  | .class d a b => Sys2Proof.Machine.execClass d a b s
  | .tstb d a imm => Sys2Proof.Machine.execTstb d a imm s
  | .pmov d a b => Sys2Proof.Machine.execPmov d a b s
  | .and d a b => Sys2Proof.Machine.execAnd d a b s
  | .or d a b => Sys2Proof.Machine.execOr d a b s
  | .xor d a b => Sys2Proof.Machine.execXor d a b s
  | .not d a => Sys2Proof.Machine.execNot d a s
  | .andn d a b => Sys2Proof.Machine.execAndn d a b s
  | .shl d a b => Sys2Proof.Machine.execShl d a b s
  | .shr d a b => Sys2Proof.Machine.execShr d a b s
  | .sar d a b => Sys2Proof.Machine.execSar d a b s
  | .rol d a b => Sys2Proof.Machine.execRol d a b s
  | .shli d a imm => Sys2Proof.Machine.execShli d a imm s
  | .shri d a imm => Sys2Proof.Machine.execShri d a imm s
  | .sari d a imm => Sys2Proof.Machine.execSari d a imm s
  | .popc d a => Sys2Proof.Machine.execPopc d a s
  | .clz d a => Sys2Proof.Machine.execClz d a s
  | .brev d a => Sys2Proof.Machine.execBrev d a s
  | .bfe d a b => Sys2Proof.Machine.execBfe d a b s
  | .mov d a => Sys2Proof.Machine.execMov d a s
  | .movl d imm => Sys2Proof.Machine.execMovl d imm s
  | .movh d imm => Sys2Proof.Machine.execMovh d imm s
  | .movs d imm => Sys2Proof.Machine.execMovs d imm s
  | .bfi d a b => Sys2Proof.Machine.execBfi d a b s
  | .prmt d a b => Sys2Proof.Machine.execPrmt d a b s
  | .pack d a b => Sys2Proof.Machine.execPack d a b s
  | .adda d a b => Sys2Proof.Machine.execAdda d a b s
  | .addai d a imm => Sys2Proof.Machine.execAddai d a imm s
  | .lane d a b => Sys2Proof.Machine.execLane d a b s
  | .bcast d a => Sys2Proof.Machine.execBcast d a s
  | .suba d a b => Sys2Proof.Machine.execSuba d a b s
  | .clta d a b => Sys2Proof.Machine.execClta d a b s
  | .ceqa d a b => Sys2Proof.Machine.execCeqa d a b s
  | .cvt d a b => Sys2Proof.Machine.execCvt d a b s
  | .cvtr d a b => Sys2Proof.Machine.execCvtr d a b s
  | .rcp d a => Sys2Proof.Machine.execRcp d a s
  | .rsq d a => Sys2Proof.Machine.execRsq d a s
  | .sqrt d a => Sys2Proof.Machine.execSqrt d a s
  | .exp2 d a => Sys2Proof.Machine.execExp2 d a s
  | .log2 d a => Sys2Proof.Machine.execLog2 d a s
  | .sinp d a => Sys2Proof.Machine.execSinp d a s
  | .cosp d a => Sys2Proof.Machine.execCosp d a s
  | .tanh d a => Sys2Proof.Machine.execTanh d a s
  | .flr d a => Sys2Proof.Machine.execFlr d a s
  | .ceil d a => Sys2Proof.Machine.execCeil d a s
  | .trnc d a => Sys2Proof.Machine.execTrnc d a s
  | .rint d a => Sys2Proof.Machine.execRint d a s
  | .frac d a => Sys2Proof.Machine.execFrac d a s
  | .tli d a b => Sys2Proof.Machine.execTli d a b s
  | .dot d a b => Sys2Proof.Machine.execDot d a b s
  | .scale d a b => Sys2Proof.Machine.execScale d a b s
  | .cpsgn d a b => Sys2Proof.Machine.execCpsgn d a b s
  | .qdec d a b => Sys2Proof.Machine.execQdec d a b s
  | .qenc d a b => Sys2Proof.Machine.execQenc d a b s
  | .f4dec d a b => Sys2Proof.Machine.execF4dec d a b s
  | .f4enc d a b => Sys2Proof.Machine.execF4enc d a b s
  | .mxfb d a => Sys2Proof.Machine.execMxfb d a s
  | .mxwl d a b => Sys2Proof.Machine.execMxwl d a b s
  | .mxsw => Sys2Proof.Machine.execMxsw s
  | .mxst d a b => Sys2Proof.Machine.execMxst d a b s
  | .mxrd d a b => Sys2Proof.Machine.execMxrd d a b s
  | .mxrel d => Sys2Proof.Machine.execMxrel d s
  | .mxz d a => Sys2Proof.Machine.execMxz d a s
  | .mxq d a => Sys2Proof.Machine.execMxq d a s
  | .shfl d a b => Sys2Proof.Machine.execShfl d a b s
  | .shflx d a b => Sys2Proof.Machine.execShflx d a b s
  | .shflu d a imm => Sys2Proof.Machine.execShflu d a imm s
  | .shfld d a imm => Sys2Proof.Machine.execShfld d a imm s
  | .vote d a => Sys2Proof.Machine.execVote d a s
  | .vany d a => Sys2Proof.Machine.execVany d a s
  | .vall d a => Sys2Proof.Machine.execVall d a s
  | .rdx d a b => Sys2Proof.Machine.execRdx d a b s
  | .scan d a b => Sys2Proof.Machine.execScan d a b s
  | .topk d a b => Sys2Proof.Machine.execTopk d a b s
  | .matchLanes d a b => Sys2Proof.Machine.execMatchLanes d a b s
  | .elect d a => Sys2Proof.Machine.execElect d a s
  | .ldb d a b => Sys2Proof.Machine.execLdb d a b s
  | .ldh d a b => Sys2Proof.Machine.execLdh d a b s
  | .ldw d a b => Sys2Proof.Machine.execLdw d a b s
  | .ldd d a b => Sys2Proof.Machine.execLdd d a b s
  | .ldq d a b => Sys2Proof.Machine.execLdq d a b s
  | .ldo d a b => Sys2Proof.Machine.execLdo d a b s
  | .stb d a b => Sys2Proof.Machine.execStb d a b s
  | .sth d a b => Sys2Proof.Machine.execSth d a b s
  | .stw d a b => Sys2Proof.Machine.execStw d a b s
  | .std d a b => Sys2Proof.Machine.execStd d a b s
  | .stq d a b => Sys2Proof.Machine.execStq d a b s
  | .sto d a b => Sys2Proof.Machine.execSto d a b s
  | .lda d a b => Sys2Proof.Machine.execLda d a b s
  | .stl d a b => Sys2Proof.Machine.execStl d a b s
  | .stmc d a b => Sys2Proof.Machine.execStmc d a b s
  | .pref a b => Sys2Proof.Machine.execPref a b s
  | .ldwi d a imm => Sys2Proof.Machine.execLdwi d a imm s
  | .lddi d a imm => Sys2Proof.Machine.execLddi d a imm s
  | .ldqi d a imm => Sys2Proof.Machine.execLdqi d a imm s
  | .stwi d a imm => Sys2Proof.Machine.execStwi d a imm s
  | .stdi d a imm => Sys2Proof.Machine.execStdi d a imm s
  | .stqi d a imm => Sys2Proof.Machine.execStqi d a imm s
  | .ldbi d a imm => Sys2Proof.Machine.execLdbi d a imm s
  | .stbi d a imm => Sys2Proof.Machine.execStbi d a imm s
  | .aadd o d a b => Sys2Proof.Machine.execAadd o d a b s
  | .amin o d a b => Sys2Proof.Machine.execAmin o d a b s
  | .amax o d a b => Sys2Proof.Machine.execAmax o d a b s
  | .aand o d a b => Sys2Proof.Machine.execAand o d a b s
  | .aor o d a b => Sys2Proof.Machine.execAor o d a b s
  | .axor o d a b => Sys2Proof.Machine.execAxor o d a b s
  | .axch o d a b => Sys2Proof.Machine.execAxch o d a b s
  | .acas o d a b => Sys2Proof.Machine.execAcas o d a b s
  | .wait d a b => Sys2Proof.Machine.execWait d a b s
  | .wake d a b => Sys2Proof.Machine.execWake d a b s
  | .binit a b => Sys2Proof.Machine.execBinit a b s
  | .barv d a b => Sys2Proof.Machine.execBarv d a b s
  | .bwait d a b => Sys2Proof.Machine.execBwait d a b s
  | .binv a => Sys2Proof.Machine.execBinv a s
  | .txb imm => Sys2Proof.Machine.execTxb imm s
  | .txe d a => Sys2Proof.Machine.execTxe d a s
  | .txa imm => Sys2Proof.Machine.execTxa imm s
  | .txq d => Sys2Proof.Machine.execTxq d s
  | .ldn d a => Sys2Proof.Machine.execLdn d a s
  | .stn d a => Sys2Proof.Machine.execStn d a s
  | .acpy d a => Sys2Proof.Machine.execAcpy d a s
  | .aten d a => Sys2Proof.Machine.execAten d a s
  | .agth d a => Sys2Proof.Machine.execAgth d a s
  | .agtp d a => Sys2Proof.Machine.execAgtp d a s
  | .asct d a => Sys2Proof.Machine.execAsct d a s
  | .acol d a => Sys2Proof.Machine.execAcol d a s
  | .pub d a => Sys2Proof.Machine.execPub d a s
  | .hget d a => Sys2Proof.Machine.execHget d a s
  | .trace d a => Sys2Proof.Machine.execTrace d a s
  | .rast d a => Sys2Proof.Machine.execRast d a s
  | .trsm d a => Sys2Proof.Machine.execTrsm d a s
  | .acan d => Sys2Proof.Machine.execAcan d s
  | .blnd d a b => Sys2Proof.Machine.execBlnd d a b s
  | .qbind d a => Sys2Proof.Machine.execQbind d a s
  | .qtry d a b => Sys2Proof.Machine.execQtry d a b s
  | .qcnt d a => Sys2Proof.Machine.execQcnt d a s
  | .send d a b => Sys2Proof.Machine.execSend d a b s
  | .qput d a b => Sys2Proof.Machine.execQput d a b s
  | .rqp d imm => Sys2Proof.Machine.execRqp d imm s
  | .rqg d imm => Sys2Proof.Machine.execRqg d imm s
  | .rsvp d a b => Sys2Proof.Machine.execRsvp d a b s
  | .rsvg d => Sys2Proof.Machine.execRsvg d s
  | .rsvd d a => Sys2Proof.Machine.execRsvd d a s
  | .shoot d a b => Sys2Proof.Machine.execShoot d a b s
  | .bias d a b => Sys2Proof.Machine.execBias d a b s
  | .flush d a => Sys2Proof.Machine.execFlush d a s
  | .mgrt d a b => Sys2Proof.Machine.execMgrt d a b s
  | .uNfet => Sys2Proof.Machine.execUNfet s
  | .uBoxt => Sys2Proof.Machine.execUBoxt s
  | .uTrit => Sys2Proof.Machine.execUTrit s
  | .uEdgt => Sys2Proof.Machine.execUEdgt s
  | .uSplt => Sys2Proof.Machine.execUSplt s
  | .uDepz => Sys2Proof.Machine.execUDepz s
  | .uOrdr => Sys2Proof.Machine.execUOrdr s
  | .uPush => Sys2Proof.Machine.execUPush s
  | .uPop => Sys2Proof.Machine.execUPop s
  | .uNext => Sys2Proof.Machine.execUNext s
  | .uLeaf a => Sys2Proof.Machine.execULeaf a s
  | .uInst => Sys2Proof.Machine.execUInst s
  | .uIpop => Sys2Proof.Machine.execUIpop s
  | .uHit => Sys2Proof.Machine.execUHit s
  | .uTmax => Sys2Proof.Machine.execUTmax s
  | .uAnyh => Sys2Proof.Machine.execUAnyh s
  | .uEmit => Sys2Proof.Machine.execUEmit s
  | .uLdr a b imm => Sys2Proof.Machine.execULdr a b imm s
  | .uFlg imm => Sys2Proof.Machine.execUFlg imm s
  | .uBrc n flag t => Sys2Proof.Machine.execUBrc n flag t s
  | .uJmp t => Sys2Proof.Machine.execUJmp t s
  | .uYld => Sys2Proof.Machine.execUYld s
  | .uStat a imm => Sys2Proof.Machine.execUStat a imm s
  | .uDone => Sys2Proof.Machine.execUDone s
  | .evPowerOn b => Sys2Proof.Machine.execEvPowerOn b s
  | .evReportQuery => Sys2Proof.Machine.execEvReportQuery s
  | .evAttestationRequest nonce => Sys2Proof.Machine.execEvAttestationRequest nonce s
  | .evHostRequest r => Sys2Proof.Machine.execEvHostRequest r s
  | .evOlunRequest port r => Sys2Proof.Machine.execEvOlunRequest port r s
  | .evFlitFailure port => Sys2Proof.Machine.execEvFlitFailure port s
  | .evBirspArrival line wb => Sys2Proof.Machine.execEvBirspArrival line wb s
  | .evCxlLinkDown => Sys2Proof.Machine.execEvCxlLinkDown s
  | .evTimeCorrection die ns => Sys2Proof.Machine.execEvTimeCorrection die ns s
  | .evPowerMeasurement draw => Sys2Proof.Machine.execEvPowerMeasurement draw s
  | .evCoreGating die core => Sys2Proof.Machine.execEvCoreGating die core s
  | .evCoreWake die core => Sys2Proof.Machine.execEvCoreWake die core s
  | .evSoftError e => Sys2Proof.Machine.execEvSoftError e s
  | .evMboxPush die quad n w => Sys2Proof.Machine.execEvMboxPush die quad n w s
  | .evLqBell die w => Sys2Proof.Machine.execEvLqBell die w s
  | .evLqErrRead die => Sys2Proof.Machine.execEvLqErrRead die s
  | .evCtxPre die w => Sys2Proof.Machine.execEvCtxPre die w s
  | .evReplay die core unit => Sys2Proof.Machine.execEvReplay die core unit s
  | .evResume die core unit => Sys2Proof.Machine.execEvResume die core unit s
  | .evRedirect die core unit => Sys2Proof.Machine.execEvRedirect die core unit s
  | .evReturn die core unit => Sys2Proof.Machine.execEvReturn die core unit s
  | .evReleaseWaiter die core unit => Sys2Proof.Machine.execEvReleaseWaiter die core unit s
  | .evKill die core unit => Sys2Proof.Machine.execEvKill die core unit s
  | .evDiscardTask die core unit => Sys2Proof.Machine.execEvDiscardTask die core unit s
  | .evReplayCommand die core unit => Sys2Proof.Machine.execEvReplayCommand die core unit s
  | .evCancelCommand die core unit => Sys2Proof.Machine.execEvCancelCommand die core unit s
  | .evChanOwner die quad w => Sys2Proof.Machine.execEvChanOwner die quad w s
  | .evLdrCfg die quad n w => Sys2Proof.Machine.execEvLdrCfg die quad n w s
  | .evRdcCfg die w => Sys2Proof.Machine.execEvRdcCfg die w s
  | .evWaiterCfg die w => Sys2Proof.Machine.execEvWaiterCfg die w s
  | .evCtrDataRead die core => Sys2Proof.Machine.execEvCtrDataRead die core s
  | .evCtrDataWrite die core w => Sys2Proof.Machine.execEvCtrDataWrite die core w s
  | .evDlyDataWrite die core w => Sys2Proof.Machine.execEvDlyDataWrite die core w s
  | .evMonCfgWrite die w => Sys2Proof.Machine.execEvMonCfgWrite die w s
  | .evPortFrz die w => Sys2Proof.Machine.execEvPortFrz die w s
  | .evNgateWrite die w => Sys2Proof.Machine.execEvNgateWrite die w s
  | .evStopRequest die core => Sys2Proof.Machine.execEvStopRequest die core s
  | .evStopRelease die core => Sys2Proof.Machine.execEvStopRelease die core s
  | .evSfstatClr d => Sys2Proof.Machine.execEvSfstatClr d s
  | .evStimeLo d => Sys2Proof.Machine.execEvStimeLo d s
  | .evSretLo d => Sys2Proof.Machine.execEvSretLo d s
  | .evCycLo die core => Sys2Proof.Machine.execEvCycLo die core s
  | .evMsgDrop die => Sys2Proof.Machine.execEvMsgDrop die s
  | .evSeCorr die => Sys2Proof.Machine.execEvSeCorr die s
  | .evSeUnc die => Sys2Proof.Machine.execEvSeUnc die s
  | .evTrcLost die => Sys2Proof.Machine.execEvTrcLost die s
  | .evTrcHead die => Sys2Proof.Machine.execEvTrcHead die s
  | .evDwDataRead die core => Sys2Proof.Machine.execEvDwDataRead die core s
  | .evDwDataWrite die core w => Sys2Proof.Machine.execEvDwDataWrite die core w s
  | .evSystemRegisterWrite die core n w => Sys2Proof.Machine.execEvSystemRegisterWrite die core n w s
  | .evLaunchQueueTake die slot prio => Sys2Proof.Machine.execEvLaunchQueueTake die slot prio s
  | .evDependenceNotification die asid va => Sys2Proof.Machine.execEvDependenceNotification die asid va s
  | .evConditionRead die slot prio => Sys2Proof.Machine.execEvConditionRead die slot prio s
  | .evPlacement die => Sys2Proof.Machine.execEvPlacement die s
  | .evGridCompletion grid => Sys2Proof.Machine.execEvGridCompletion grid s
  | .evSliceExpiry die slot => Sys2Proof.Machine.execEvSliceExpiry die slot s
  | .evPreemptionComplete die => Sys2Proof.Machine.execEvPreemptionComplete die s
  | .evCapture slot => Sys2Proof.Machine.execEvCapture slot s
  | .evBinLaunch die quad bin => Sys2Proof.Machine.execEvBinLaunch die quad bin s
  | .evBinTimerExpiry die quad bin => Sys2Proof.Machine.execEvBinTimerExpiry die quad bin s
  | .evTaskDispatch die core mcc => Sys2Proof.Machine.execEvTaskDispatch die core mcc s
  | .evGangPromotion p gang => Sys2Proof.Machine.execEvGangPromotion p gang s
  | .evRegangRejoin p => Sys2Proof.Machine.execEvRegangRejoin p s
  | .evHaltTakesEffect p => Sys2Proof.Machine.execEvHaltTakesEffect p s
  | .evFillArrival die => Sys2Proof.Machine.execEvFillArrival die s
  | .evWriteThroughArrival die => Sys2Proof.Machine.execEvWriteThroughArrival die s
  | .evMessageDelivery die core => Sys2Proof.Machine.execEvMessageDelivery die core s
  | .evInputBufferDelivery die core => Sys2Proof.Machine.execEvInputBufferDelivery die core s
  | .evFaultPacketDelivery die => Sys2Proof.Machine.execEvFaultPacketDelivery die s
  | .evSleepTimeout p gang => Sys2Proof.Machine.execEvSleepTimeout p gang s
  | .evRiserGrant die => Sys2Proof.Machine.execEvRiserGrant die s
  | .evCommandBlock cmd => Sys2Proof.Machine.execEvCommandBlock cmd s
  | .evTokenWrite cmd => Sys2Proof.Machine.execEvTokenWrite cmd s
  | .evMxwlCompletion die quad => Sys2Proof.Machine.execEvMxwlCompletion die quad s
  | .evMxstRow p => Sys2Proof.Machine.execEvMxstRow p s
  | .evMxrdRow p => Sys2Proof.Machine.execEvMxrdRow p s
  | .evStackSpill batch => Sys2Proof.Machine.execEvStackSpill batch s
  | .evBatchCompletion batch => Sys2Proof.Machine.execEvBatchCompletion batch s
  | .evComparatorFire p gang n => Sys2Proof.Machine.execEvComparatorFire p gang n s
  | .evSampleRecord die core => Sys2Proof.Machine.execEvSampleRecord die core s
  | .evPreciseStopReached die core => Sys2Proof.Machine.execEvPreciseStopReached die core s
  | .evMonitorLevelSample die mon => Sys2Proof.Machine.execEvMonitorLevelSample die mon s
  | .evUnassignedOpcode w => Sys2Proof.Machine.execEvUnassignedOpcode w s
  | .evReservedMicroOperation w => Sys2Proof.Machine.execEvReservedMicroOperation w s
  | .evSilentPackage pkg => Sys2Proof.Machine.execEvSilentPackage pkg s
  | .evWriteThroughAcknowledgement die => Sys2Proof.Machine.execEvWriteThroughAcknowledgement die s

end Sys2Proof.Machine
end

