-- ==== Sys2Proof/Machine/Issue.lean ====
section
/-! DEFINITION. Issuing: fetch, decode and execution of a gang's next instruction, the choice among gangs and threads, and a ray's next
micro-instruction (R22, R63, R65, R280, R417, R418). -/

namespace Sys2Proof.Machine

/-! ## One gang -/

/-- A gang that may issue: its unit runs, it does not wait at REGANG, and the rest its own instruction decides. -/
def mayIssue (s : State) (u : Unit) (g : Nat) : Bool :=
  u.goes s && !(u.gangSlices g).isEmpty && !(u.gangSlices g).any (fun i => (u.slice i).atRegang)

/-- The state in which a gang's instruction executes: its slices have made the arrival test, and its stall reason is that of this attempt. -/
def atGang (s : State) (p : Place) (g : Nat) : State := { s.modUnit p (fun u => (u.poise g).modBook (fun b => { b with stall := smDel b.stall g })) with cur := .unit p g }

/-- A fetched word executes: as its instruction, or as a word that is none. -/
def runWord (s : State) (w : Word) : Res :=
  match decode w with
  | some i => exec i s
  | none => execEvUnassignedOpcode w s

/-- Fetch the word at the pc of an issue and execute it. -/
def fetchRun (s : State) (iss : Issue) : Res :=
  match fetchWord s iss.u iss.pc with
  | .error (.flt c va) => .next (takeFault s iss (faultVa c va) iss.lanes)
  | .error (.wait r) => .next (blocked s iss r iss.lanes)
  | .ok (s, w) => runWord s w

/-- A gang's next instruction: its comparators, then fetch and execution. -/
def runGang (s : State) (p : Place) (g : Nat) : Res :=
  let behind := pageBehind s (.dev p g)
  let s := if behind then atGang s p g else pageLeave (atGang s p g) (.dev p g)
  match issueAt s p g true with
  | none => .next s
  | some iss =>
    if behind then .next (blocked s iss .load iss.lanes)
    else match comparatorAt s iss with
    | none => fetchRun s iss
    | some (n, c) => if bit c.ctl 29 then fetchRun (fire s iss n c) iss else .next (fire s iss n c)

/-- The attempt left the gang waiting. -/
def stillBlocked (s : State) (p : Place) (g : Nat) : Bool := (s.unit? p).elim false (fun u => u.book.stall.any (fun x => decide (x.1 = g)))

/-- The gang has issued in this clock. -/
def noteIssue (s : State) (p : Place) (g : Nat) : State := s.modUnit p (fun u => u.modBook (fun b => { b with issued := g :: b.issued }))

/-- A gang whose attempt waits while a flip is in progress takes its place in the queue (R298, R299). -/
def notePage (s : State) (p : Place) (g : Nat) : State :=
  let r := (s.unit? p).elim 0 (fun u => smGet 0 u.book.stall g)
  if r = Stall.load.rank ∨ r = Stall.structural.rank then pageNote s (.dev p g) else s

/-- The first of some gangs whose instruction does not end waiting issues; done says what its issuer notes, idle what it notes when all wait. -/
def tryGangs (done : State → Place → Nat → State) (idle : State → State) : State → List (Place × Nat) → Res
  | s, [] => .next (idle s)
  | s, (p, g) :: rest =>
    match runGang s p g with
    | .next s' => if stillBlocked s' p g then tryGangs done idle (notePage s' p g) rest else .next (done (noteIssue s' p g) p g)
    | r => r

/-- The stall reason that an attempt of a gang would meet now, none where it would issue (R282). -/
def attemptStall (s : State) (u : Unit) (g : Nat) : Option Nat :=
  match runGang s u.place g with
  | .next s' => (s'.unit? u.place).bind (fun x => (x.book.stall.find? (fun y => decide (y.1 = g))).map (·.2))
  | _ => none

/-- The stall reasons of a unit's gangs as a clock ends: a gang that its unit has not tried may have become ready, or may wait (R280, R282). -/
def reviewUnit (s : State) (u : Unit) : Unit :=
  (u.gangs.filter (fun g => mayIssue s u g && !u.book.issued.contains g)).foldl (fun u' g => match attemptStall s u g with
    | some r => u'.modBook (fun b => { b with stall := smPut b.stall g r })
    | none => u'.modBook (fun b => { b with stall := smDel b.stall g })) u

/-- The review of a clock that ends: no uniform unit is taken in it any more, so that a gang which none has tried counts as ready (R21, R281). -/
def review (s : State) : State :=
  let s' := { s with cores := s.cores.map (fun (x : Nat × Core) => (x.1, { x.2 with uniUsed := false })) }
  { s with units := s.units.map (reviewUnit s') }

/-! ## A 32-lane unit (R280) -/

/-- A candidate with what orders it. -/
structure Pick where
  p : Place
  g : Nat
  yielded : Bool
  promoted : Bool
  waited : Nat
  prio : Nat
  age : Nat
  deriving DecidableEq, Repr

/-- a goes before b: a gang that has yielded is last, promoted gangs are first, then the lowest prio, the oldest wave, the lowest gang. -/
def Pick.before (a b : Pick) : Bool :=
  if a.yielded ≠ b.yielded then b.yielded
  else if a.promoted ≠ b.promoted then a.promoted
  else if a.promoted ∧ a.waited ≠ b.waited then decide (b.waited < a.waited)
  else if a.prio ≠ b.prio then decide (a.prio < b.prio)
  else if a.age ≠ b.age then decide (a.age < b.age)
  else decide (a.g < b.g)

def insertPick (x : Pick) : List Pick → List Pick
  | [] => [x]
  | y :: ys => if y.before x then y :: insertPick x ys else x :: y :: ys

def sortPicks (xs : List Pick) : List Pick := xs.foldr insertPick []

def pickOf (u : Unit) (g : Nat) : Pick :=
  { p := u.place, g := g, yielded := u.book.yielded.contains g, promoted := u.book.promoted.contains g, waited := smGet 0 u.book.gwait g, prio := u.ident.prio,
    age := u.ident.age }

/-- The candidates of unit x of a core, in order: a gang whose uniform instruction has issued and waits for the uniform unit is not chosen again (R281). -/
def lanePicks (s : State) (die core x : Nat) : List (Place × Nat) :=
  let us := (unitsOn s die core).filter (fun u => u.isWave && decide (u.place.unit / 16 = x))
  let ks := (sortPicks (us.flatMap (fun u => (u.gangs.filter (mayIssue s u)).map (pickOf u)))).map (fun k => (k.p, k.g))
  let ws := (s.core die (pairCore core)).uniQ.filter (fun w => w.waits s)
  let first (k : Place × Nat) : Bool := ws.any (fun w => decide (w.place = k.1 ∧ w.gang = k.2))
  ks.filter first ++ ks.filter (fun k => !first k)

def coreIssued (s : State) (die core i : Nat) : Bool := (s.core die core).issued.contains i
def noteCore (s : State) (die core i : Nat) : State := s.modCore die core (fun k => { k with issued := i :: k.issued })

/-- Unit or swarm core i has tried every candidate in this clock. -/
def noteTried (die core i : Nat) (s : State) : State := s.modCore die core (fun k => { k with tried := i :: k.tried })

/-- It has had its turn in this clock. -/
def hadTurn (s : State) (die core i : Nat) : Bool := coreIssued s die core i || (s.core die core).tried.contains i

/-- A YIELD counts for one selection of its unit: the others' are forgotten. -/
def forgetYields (s : State) (die core x : Nat) (p : Place) (g : Nat) : State :=
  { s with units := s.units.map (fun u =>
    if u.place.die = die ∧ u.place.core = core ∧ u.isWave = true ∧ u.place.unit / 16 = x then
      u.modBook (fun b => { b with yielded := if u.place = p then b.yielded.filter (fun h => decide (h = g)) else [] }) else u) }

/-- A 32-lane unit issues at most one gang in a clock. -/
def runLane32 (s : State) (die core x : Nat) : Res :=
  if coreIssued s die core x then .next s
  else tryGangs (fun s p g => noteCore (forgetYields s die core x p g) die core x) (noteTried die core x) s (lanePicks s die core x)

/-! ## A swarm core (R22) -/

/-- The threads of a swarm core from the one it serves next; one that has yielded is last. -/
def swarmPicks (s : State) (die core sc : Nat) : List (Place × Nat) :=
  let us := (List.range 8).filterMap (fun i => s.unit? { die := die, core := core, unit := 0x40 + 8 * sc + (smGet 0 (s.core die core).rr sc + i) % 8 })
  let us := us.filter (fun u => mayIssue s u 0)
  (us.filter (fun u => u.book.yielded.isEmpty) ++ us.filter (fun u => !u.book.yielded.isEmpty)).map (fun u => (u.place, 0))

/-- After a thread has been served: the next one is due, and the other threads' YIELDs are forgotten. -/
def servedSwarm (die core sc : Nat) (s : State) (p : Place) (_g : Nat) : State :=
  let s := { s with units := s.units.map (fun u =>
    if u.place.die = die ∧ u.place.core = core ∧ 0x40 + 8 * sc ≤ u.place.unit ∧ u.place.unit < 0x48 + 8 * sc ∧ u.place ≠ p then u.modBook (fun b => { b with yielded := [] }) else u) }
  (noteCore s die core (4 + sc)).modCore die core (fun k => { k with rr := smPut k.rr sc ((p.unit + 1) % 8) })

def runSwarm (s : State) (die core sc : Nat) : Res :=
  if coreIssued s die core (4 + sc) then .next s else tryGangs (servedSwarm die core sc) (noteTried die core (4 + sc)) s (swarmPicks s die core sc)

/-! ## MCC and supervisor threads, rays -/

/-- A thread of an MCC or a supervisor core issues. -/
def runThread (s : State) (p : Place) (g : Nat) : Res :=
  match s.unit? p with
  | none => .next s
  | some u => if (u.engine = .mcc ∨ u.engine = .sup) ∧ mayIssue s u g = true then tryGangs (fun s _ _ => s) id s [(p, g)] else .next s

/-- The intersection unit's next step of a ray: its own, or one micro-instruction (R348). -/
def rayStep (s : State) (batch lane : Nat) : Res :=
  match rayNext s batch lane with
  | .idle => .next s
  | .own s => .next s
  | .word w =>
    let s := { s with cur := .ray batch lane }
    match decodeMicro w with
    | some i => exec i s
    | none => execEvReservedMicroOperation w s

/-- The ray as it stands. -/
def rayAt (s : State) (batch lane : Nat) : Option Ray := (batchOf s batch).bind (fun b => b.ray? lane)

/-- Its step in its turn at the queue of a flipping page (R299): one that leaves it as it was, for no other reason, waits there. -/
def runRay (s : State) (batch lane : Nat) : Res :=
  let w := PageWait.ray batch lane
  if pageBehind s w then .next s
  else
    let s := pageLeave s w
    match rayStep s batch lane with
    | .next t => .next (if rayAt t batch lane = rayAt s batch lane ∧ (rayAt t batch lane).elim false (fun r => decide (r.stalled = 0)) = true then pageNote t w else t)
    | r => r

/-- One entry of the schedule (log entry 1). -/
def runAction (a : Action) (s : State) : Res :=
  match a with
  | .tick => .next (tick (review s))
  | .lane32 die core x => runLane32 s die core x
  | .swarmCore die core sc => runSwarm s die core sc
  | .gang p g => runThread s p g
  | .ray b l => runRay s b l
  | .event e => exec e s
  | .bar off wr => .next (hostBar off wr s)
  | .config off => .next (configRead off s)
  | .sample die core => execEvSampleRecord die core s
  | .level die mon => execEvMonitorLevelSample die mon s

/-- The samples whose period has passed: of cores (R415) and of level monitors (R406). -/
def dueSamples (s : State) : List Action :=
  (s.cores.filter (fun x => bit x.2.smpCfg 31 && decide (samplePeriod x.2.smpCfg ≤ x.2.smpCount))).map (fun x => .sample (x.1 / 240) (x.1 % 240)) ++
  (List.range 4).flatMap (fun d => ((s.die d).monCount.filter (fun x => decide (levelPeriod (smGet 0 (smGet [] (s.die d).mons x.1) 0) ≤ x.2))).map
    (fun x => .level d x.1))

/-- What has to be done before the clock ends: the 32-lane units and swarm cores that have a candidate and have not had their turn in this clock, lower
cores first; then the samples that are due, which see what has issued (R413). -/
def due (s : State) : List Action :=
  let keys := sortBy (fun a b => decide (a < b)) (dedup (s.units.filterMap (fun u => if u.place.core < 240 then some (coreKey u.place.die u.place.core) else none)))
  keys.flatMap (fun k =>
    let (die, core) := (k / 240, k % 240)
    ((List.range 4).filter (fun x => !hadTurn s die core x && !(lanePicks s die core x).isEmpty)).map (.lane32 die core) ++
    ((List.range 16).filter (fun x => !hadTurn s die core (4 + x) && !(swarmPicks s die core x).isEmpty)).map (.swarmCore die core)) ++
  dueSamples s

/-- The turn that goes before the head of the schedule: no clock passes while a turn is left in it (R21, R22, R280), and of the units that share a
uniform unit the lower core's and the lower unit's come first (R281; log entry 1). -/
def turnBefore (s : State) : Option Action :=
  match s.agenda with
  | [] => (due s).head?
  | .tick :: _ => (due s).head?
  | .lane32 die core x :: _ => (due s).find? (fun a => match a with
    | .lane32 d c y => decide (d = die ∧ pairCore c = pairCore core ∧ (c < core ∨ (c = core ∧ y < x)))
    | _ => false)
  | _ => none

/-- What the step runs: a turn that goes first, or the head of the schedule, with the schedule that is left; an empty schedule lets a clock pass. -/
def nextAction (s : State) : Action × State :=
  match turnBefore s with
  | some a => (a, { s with cur := .none })
  | none => match s.agenda with
    | [] => (.tick, { s with cur := .none })
    | a :: rest => (a, { s with cur := .none, agenda := rest })

/-! ## Placing a word where the next step fetches it -/

/-- The unit that executes a placed word: a wave of 24 slices, or a thread, with lane 0 alone live. -/
def probeUnit (p : Place) (e : Engine) (pc : DWord) : Unit :=
  { blankUnit p e 0 0 with
    slices := { blankSlice with pc := pc, live := 1, active := 1 } :: List.replicate (if e = .wave then 23 else 0) blankSlice }

/-- The first of the agents that execute a word of the map of R59: a wave; an MCC thread for opcodes 0x78 to 0x7F, RSVG and RSVD; a supervisor thread for
the privileged words. -/
def probePlace (w : Word) : Place × Engine :=
  let op := (opcodeOf w).toNat
  if (opcodeEngines op) = .mccOnly then ({ die := 0, core := 0, unit := 0xC0 }, .mcc)
  else if wordPriv w then ({ die := 0, core := 240, unit := 0 }, .sup)
  else ({ die := 0, core := 0, unit := 0 }, .wave)

/-- The physical offset and the VA at which a placed word lies. -/
def probeOff : Nat := 0x1000000
def probeVa : Nat := 0x100000

/-- The TLB entry through which a placed word is fetched. -/
def probeTlb (s : State) : TlbEntry := { va := probeVa, size := 12, asid := none, pa := paOf s 0 probeOff, r := true, w := true, x := true, user := true, cclass := 0 }

/-- A unit with the word at its pc, alone on its core, first on the schedule. -/
def placeIsa (s : State) (w : Word) : State :=
  let (p, e) := probePlace w
  let pc : DWord := BitVec.ofNat 64 (if e = .sup then 0x100 * 2 ^ 48 + paOf s 0 probeOff else probeVa)
  let s := s.wr (paOf s 0 probeOff) 4 w.toNat
  let s := s.modDie 0 (fun d => { d with tlbs := modAt d.tlbs (homeSlice probeVa % 16) (fun l => probeTlb s :: l) })
  { s with
    units := probeUnit p e pc :: s.units.filter (fun u => decide (¬(u.place.die = p.die ∧ u.place.core = p.core))),
    agenda := (if e = .wave then .lane32 0 0 0 else .gang p 0) :: s.agenda }

/-- A ray with the micro-word as its program, first on the schedule. -/
def placeMicro (s : State) (w : Word) : State :=
  let r := { newRay 0 0 false with state := .running, code := [w], armed := true }
  let b : Batch := { id := s.seq, die := 0, quad := 0, issuer := { die := 0, core := 0, unit := 0 }, serial := 0, pc := 0, asid := 0, grid := none, token := 0, lanes := 1,
                     scope := 0, raster := false, rays := [r], cancelled := false, stopping := false, cclass := 0, entry := none }
  { s with batches := s.batches ++ [b], seq := s.seq + 1, agenda := .ray s.seq 0 :: s.agenda }

end Sys2Proof.Machine
end

