-- ==== Sys2Proof/Machine/Step.lean ====
section
/-! DEFINITION. The step: the head of the schedule happens; and placing a word where the next step fetches it. -/

namespace Sys2Proof.Machine

/-- One step of the machine: what the schedule names next. -/
def step (s : State) : Host.Outcome State Fault Refusal := runAction (nextAction s).1 (nextAction s).2

/-- s with an instruction placed where the next step fetches and runs it: a word of the map of R59 at the pc of a unit, or else a micro-word as the
program of a ray. -/
def State.withFetchWord (s : State) (nbits w : Nat) : State :=
  let x : Word := BitVec.ofNat 32 (w % 2 ^ nbits)
  if (decode x).isNone ∧ (decodeMicro x).isSome then placeMicro s x else placeIsa s x

end Sys2Proof.Machine
end

