-- ==== Sys2Proof/Vocabulary.lean ====
section
/-! DEFINITION. The terms in which statements speak of the machine: what R63 checks of each instruction, when a gang or thread may execute one, and
what an instruction leaves unchanged. -/

namespace Sys2Proof.Spec

open Sys2Proof.Machine

/-! ## What R63 checks of each instruction -/

/-- A destination of a typed instruction: a pair under i64 and u64, else one register (R75). -/
def typedDst (s : State) (d : Fld) : Opd := dst d (wide (is64 (curType s)))

/-- A lane by lane instruction: the types it reads (none where it reads no type), its sources in order, its destination. -/
structure LaneForm where
  types : Option (List Nat)
  srcs : List Opd
  out : Opd
  deriving DecidableEq, Repr

/-- Its checks, the destination last. -/
def LaneForm.desc (f : LaneForm) : Desc := { types := f.types, opds := f.srcs ++ [f.out] }

def typedForm (s : State) (types : List Nat) (d : Fld) (srcs : List Opd) : LaneForm := { types := some types, srcs := srcs, out := typedDst s d }
def oneForm (types : Option (List Nat)) (d : Fld) (srcs : List Opd) : LaneForm := { types := types, srcs := srcs, out := dst d .one }

/-- The form of CVT: its groups follow from the source type that b holds (R118, R119). -/
def cvtForm (s : State) (d a b : Fld) : Option LaneForm :=
  match cvtSource s a b (curType s) with
  | none => none
  | some w =>
    let (ts, tt) := (w % 16, curType s)
    if w < 16 ∧ cvtOk ts tt = true then
      let n := cvtCount ts tt
      some { types := some allTypes, srcs := [src a (groupShape (n * elemBits ts / 32)), (src b .one).must .uniform], out := dst d (groupShape (n * elemBits tt / 32)) }
    else none

/-- The instructions that compute one value in each active lane (R75 to R94, R106, R115 to R129), with their operands. -/
def laneForm (s : State) (i : Instr) : Option LaneForm :=
  let t (f : Fld) : Opd := tsrc s f
  let rw (f : Fld) : Opd := rwOpd f (wide (is64 (curType s)))
  let one (f : Fld) : Opd := src f .one
  let pair (f : Fld) : Opd := src f .pair
  match i with
  | .add d a b => some (typedForm s genericTypes d [t a, t b])
  | .sub d a b => some (typedForm s genericTypes d [t a, t b])
  | .mul d a b => some (typedForm s genericTypes d [t a, t b])
  | .mad d a b => some (typedForm s genericTypes d [t a, t b, rw d])
  | .min d a b => some (typedForm s genericTypes d [t a, t b])
  | .max d a b => some (typedForm s genericTypes d [t a, t b])
  | .neg d a => some (typedForm s genericTypes d [t a])
  | .abs d a => some (typedForm s genericTypes d [t a])
  | .addi d a _ => some (typedForm s scalarInt d [t a])
  | .muli d a _ => some (typedForm s scalarInt d [t a])
  | .clamp d a b => some (typedForm s genericTypes d [t a, t b, rw d])
  | .mulh d a b => some (typedForm s scalarInt d [t a, t b])
  | .div d a b => some (typedForm s (scalarInt ++ genericFloat) d [t a, t b])
  | .rem d a b => some (typedForm s scalarInt d [t a, t b])
  | .sad d a b => some (oneForm (some [0, 1, 9, 10, 11, 12]) d [one a, one b, rwOpd d .one])
  | .addc d a b => some { types := some [0, 1], srcs := [one a, one b, rwOpd d .pair], out := dst d .pair }
  | .ceq d a b => some (oneForm (some genericTypes) d [t a, t b])
  | .cne d a b => some (oneForm (some genericTypes) d [t a, t b])
  | .clt d a b => some (oneForm (some genericTypes) d [t a, t b])
  | .cle d a b => some (oneForm (some genericTypes) d [t a, t b])
  | .cgt d a b => some (oneForm (some genericTypes) d [t a, t b])
  | .cge d a b => some (oneForm (some genericTypes) d [t a, t b])
  | .cun d a b => some (oneForm (some genericFloat) d [t a, t b])
  | .ceqi d a _ => some (oneForm (some scalarInt) d [t a])
  | .clti d a _ => some (oneForm (some scalarInt) d [t a])
  | .pand d a b => some (oneForm none d [one a, one b])
  | .por d a b => some (oneForm none d [one a, one b])
  | .pxor d a b => some (oneForm none d [one a, one b])
  | .pnot d a => some (oneForm none d [one a])
  | .class d a b => some (oneForm (some genericFloat) d [one a, one b])
  | .tstb d a _ => some (oneForm none d [one a])
  | .pmov d a b => some (oneForm none d [one a, one b, rwOpd d .one])
  | .and d a b => some (typedForm s allTypes d [t a, t b])
  | .or d a b => some (typedForm s allTypes d [t a, t b])
  | .xor d a b => some (typedForm s allTypes d [t a, t b])
  | .not d a => some (typedForm s allTypes d [t a])
  | .andn d a b => some (typedForm s allTypes d [t a, t b])
  | .shl d a b => some (typedForm s scalarInt d [t a, one b])
  | .shr d a b => some (typedForm s scalarInt d [t a, one b])
  | .sar d a b => some (typedForm s scalarInt d [t a, one b])
  | .rol d a b => some (typedForm s scalarInt d [t a, one b])
  | .shli d a _ => some (typedForm s scalarInt d [t a])
  | .shri d a _ => some (typedForm s scalarInt d [t a])
  | .sari d a _ => some (typedForm s scalarInt d [t a])
  | .popc d a => some (oneForm (some scalarInt) d [t a])
  | .clz d a => some (oneForm (some scalarInt) d [t a])
  | .brev d a => some (typedForm s scalarInt d [t a])
  | .bfe d a b => some (oneForm (some [0, 1]) d [one a, one b])
  | .mov d a => some (typedForm s allTypes d [t a])
  | .movl d _ => some (oneForm none d [])
  | .movh d _ => some (oneForm none d [rwOpd d .one])
  | .movs d _ => some (oneForm none d [])
  | .bfi d a b => some (oneForm none d [one a, one b, rwOpd d .one])
  | .prmt d a b => some (oneForm none d [pair a, one b])
  | .pack d a b => some (oneForm (some [9, 10, 11, 12]) d [one a, one b])
  | .adda d a b => some { types := none, srcs := [pair a, one b], out := dst d .pair }
  | .addai d a _ => some { types := none, srcs := [pair a], out := dst d .pair }
  | .suba d a b => some { types := none, srcs := [pair a, pair b], out := dst d .pair }
  | .clta d a b => some (oneForm none d [pair a, pair b])
  | .ceqa d a b => some (oneForm none d [pair a, pair b])
  | .cvt d a b => cvtForm s d a b
  | .cvtr d a b =>
    let n := 32 / elemBits (curType s)
    some (oneForm (some [5, 6, 7, 8, 13]) d [src a (groupShape n), one b])
  | .rcp d a => some (typedForm s genericFloat d [one a])
  | .rsq d a => some (typedForm s genericFloat d [one a])
  | .sqrt d a => some (typedForm s genericFloat d [one a])
  | .exp2 d a => some (typedForm s genericFloat d [one a])
  | .log2 d a => some (typedForm s genericFloat d [one a])
  | .sinp d a => some (typedForm s genericFloat d [one a])
  | .cosp d a => some (typedForm s genericFloat d [one a])
  | .tanh d a => some (typedForm s genericFloat d [one a])
  | .flr d a => some (typedForm s genericFloat d [one a])
  | .ceil d a => some (typedForm s genericFloat d [one a])
  | .trnc d a => some (typedForm s genericFloat d [one a])
  | .rint d a => some (typedForm s genericFloat d [one a])
  | .frac d a => some (typedForm s genericFloat d [one a])
  | .dot d a b => some (oneForm (some [5, 6, 7, 8, 11, 12]) d [one a, one b, rwOpd d .one])
  | .scale d a b => some (oneForm (some genericFloat) d [one a, one b])
  | .cpsgn d a b => some (typedForm s genericFloat d [one a, one b])
  | .qdec d a b => some { types := some [14], srcs := [one a, pair b], out := dst d .oct }
  | .qenc d a b => some (oneForm (some [4, 14]) d [src a (if curType s = 14 then .oct else .one), one b])
  | .f4dec d a b => some { types := some [13], srcs := [one a, one b], out := dst d .oct }
  | .f4enc d a b =>
    if curType s = 13 then some (oneForm (some [4, 13]) d [src a .oct, one b])
    else if b = 0 then some (oneForm (some [4, 13]) d [one a]) else none
  | _ => none

/-- An instruction without operands that acts on the gang whatever the guard. -/
def wholeDesc : Desc := { guarded := false, always := true }

/-- A plain load or store of form A or I with its data operand. -/
def accessDesc (types : Option (List Nat)) (opds : List Opd) : Desc := { types := types, opds := opds }

/-- An atomic's operands: the address pair, the operand group, the destination (R211). -/
def atomicDesc (s : State) (types : List Nat) (d a b : Fld) (sh : Shape) : Desc :=
  { types := some types, scope := true, opds := [src a .pair, src b sh, dst d (dataShape (typedSize s))] }

/-- An instruction of a strand that waits for its gangs (R95). -/
def strandDesc (types : Option (List Nat)) (free : Bool) (opds : List Opd) : Desc := { engines := .waveOnly, types := types, freeClass := free, opds := opds }

/-- A supervisor's instruction with uniform operands (R299 to R304). -/
def supDesc (opds : List Opd) : Desc := { priv := true, opds := opds.map (fun o => o.must .uniform) }

/-- The group of a typed operand. -/
def tyShape (s : State) : Shape := wide (is64 (curType s))

/-- The other instructions of the map of R59: what each checks. -/
def otherDesc (s : State) (i : Instr) : Option Desc :=
  let one (f : Fld) : Opd := src f .one
  let pair (f : Fld) : Opd := src f .pair
  let data (f : Fld) : Opd := src f (dataShape (typedSize s))
  match i with
  | .nop => some wholeDesc
  | .land => some wholeDesc
  | .yield => some wholeDesc
  | .mode _ => some wholeDesc
  | .modet _ => some wholeDesc
  | .modeg _ _ _ => some wholeDesc
  | .modes _ => some wholeDesc
  | .moder _ => some wholeDesc
  | .joinat _ => some wholeDesc
  | .regang => some wholeDesc
  | .lbrk => some { wholeDesc with moves := true }
  | .bra _ => some { moves := true }
  | .call _ => some { moves := true, opds := [dst 0 .pair] }
  | .brt d _ => some { moves := true, opds := [(one d).must .noQueue], perGang := true, always := curIsWave s && isUniform d }
  | .brf d _ => some { moves := true, opds := [(one d).must .noQueue], perGang := true, always := curIsWave s && isUniform d }
  | .bri a => some { moves := true, opds := [pair a], perGang := true, always := curIsWave s && isUniform a }
  | .calli d a => some { moves := true, opds := [pair a, dst d .pair], perGang := true, always := curIsWave s && isUniform a && isUniform d }
  | .ret a => some { moves := true, opds := [pair a], perGang := true, always := curIsWave s && isUniform a }
  | .loop d _ => some { guarded := false, always := true, moves := true, perGang := true, opds := if isQ d then [] else [one d] }
  | .exit => some { scope := curHasCaller s, reads := if curHasCaller s then [src 0 .quad] else [] }
  | .modew a => some { guarded := false, always := true, opds := if isQ a && !curIsWave s then [] else [(one a).must .uniform] }
  | .trap _ => some {}
  | .bkpt _ => some {}
  | .migr _ => some { engines := .notSupMcc, unlogged := true, scope := curHasCaller s, reads := migrReads }
  | .spawn d a => some { engines := .notSup, unlogged := true, opds := [src d .quad, pair a] }
  | .fork a => some { engines := .notSup, unlogged := true, opds := [if curIsWave s then (pair a).must .uniform else pair a], perGang := true, always := curIsWave s }
  | .callat d a b => some { unlogged := true, scope := true, opds := [{ f := d, sh := .quad, rd := true, wr := true, rule := .any }, pair a, one b] }
  | .mfs d n => some { priv := decide (0x40 ≤ n.toNat), bad := decide ((numUserReg ≤ n.toNat ∧ n.toNat < 0xC0) ∨ 0xDE < n.toNat), perGang := decide (n.toNat = 7),
                       opds := [if n.toNat = 7 then (dst d .one).must .lane else dst d .one] }
  | .mts a n => some { priv := true, bad := decide (n.toNat < 0xC0 ∨ 0xDE < n.toNat), opds := [(one a).must .uniform] }
  | .sleep a => some { perGang := true, opds := if isQ a && !curIsWave s then [] else [(one a).must .uniform] }
  | .halt a b => some { priv := true, opds := [one a, one b] }
  | .tli d a b => some { types := some [4, 6], opds := [one a, (src b .quad).must .kOnly, dst d .one] }
  | .mxfb d a => some (mxDesc [fbOpd d, pair a])
  | .mxwl d a b => some { mxDesc [fbOpd d, pair a, one b] with holds := true }
  | .mxsw => some (mxDesc [])
  | .mxst d a b => some { mxDesc [one d, rowOpd a, one b] with holds := true }
  | .mxrd d a b => some { mxDesc [rowOpd d, one a, one b] with holds := true }
  | .mxrel d => some (mxDesc [one d])
  | .mxz d a => some (mxDesc [one d, one a])
  | .mxq d a => some (mxDesc [one a, dst d .one])
  | .lane d a b => some { opds := [noQ a .one, uni b .one, dst d .one], freeClass := true }
  | .bcast d a => some { opds := [noQ a .one, (dst d .one).must .lane] }
  | .shfl d a b => some (strandDesc none false [noQ a .one, noQ b .one, (dst d .one).must .lane])
  | .shflx d a b => some (strandDesc none false [noQ a .one, uni b .one, (dst d .one).must .lane])
  | .shflu d a n => some { strandDesc none false [noQ a .one, (dst d .one).must .lane] with bad := shiftBad n }
  | .shfld d a n => some { strandDesc none false [noQ a .one, (dst d .one).must .lane] with bad := shiftBad n }
  | .vote d a => some (strandDesc none true [noQ a .one, dst d (if isK d then .mask else .one)])
  | .vany d a => some (strandDesc none true [noQ a .one, dst d .one])
  | .vall d a => some (strandDesc none true [noQ a .one, dst d .one])
  | .rdx d a b => some (strandDesc (some reduceTypes) true [noQ a (tyShape s), uni b .one, dst d (tyShape s)])
  | .scan d a b => some (strandDesc (some reduceTypes) false [noQ a (tyShape s), uni b .one, (dst d (tyShape s)).must .lane])
  | .topk d a b => some (strandDesc (some [0, 1, 4]) true [noQ a .one, uni b .one, dst d .one])
  | .matchLanes d a b => some (strandDesc (some allTypes) true [noQ a (tyShape s), uni b (tyShape s), dst d .mask])
  | .elect d a => some (strandDesc none true [noQ a .one, dst d .one])
  | .ldb d a b => some (accessDesc (some allTypes) [pair a, one b, dst d .one])
  | .ldh d a b => some (accessDesc (some allTypes) [pair a, one b, dst d .one])
  | .ldw d a b => some (accessDesc none [pair a, one b, dst d .one])
  | .ldd d a b => some (accessDesc none [pair a, one b, dst d .pair])
  | .ldq d a b => some (accessDesc none [pair a, one b, dst d .quad])
  | .ldo d a b => some (accessDesc none [pair a, one b, dst d .oct])
  | .ldbi d a _ => some (accessDesc (some allTypes) [pair a, dst d .one])
  | .ldwi d a _ => some (accessDesc none [pair a, dst d .one])
  | .lddi d a _ => some (accessDesc none [pair a, dst d .pair])
  | .ldqi d a _ => some (accessDesc none [pair a, dst d .quad])
  | .stb d a b => some (accessDesc none [one d, pair a, one b])
  | .sth d a b => some (accessDesc none [one d, pair a, one b])
  | .stw d a b => some (accessDesc none [one d, pair a, one b])
  | .std d a b => some (accessDesc none [pair d, pair a, one b])
  | .stq d a b => some (accessDesc none [src d .quad, pair a, one b])
  | .sto d a b => some (accessDesc none [src d .oct, pair a, one b])
  | .stbi d a _ => some (accessDesc none [one d, pair a])
  | .stwi d a _ => some (accessDesc none [one d, pair a])
  | .stdi d a _ => some (accessDesc none [pair d, pair a])
  | .stqi d a _ => some (accessDesc none [src d .quad, pair a])
  | .lda d a b => some { types := some allTypes, scope := true, opds := [pair a, one b, dst d (dataShape (typedSize s))] }
  | .stl d a b => some { types := some allTypes, scope := true, opds := [data d, pair a, one b] }
  | .stmc d a b => some { types := some allTypes, unlogged := true, opds := [data d, pair a, one b] }
  | .pref a b => some { opds := [pair a, one b] }
  | .ldn d a => some { types := some allTypes, opds := [pair a, dst d (dataShape (typedSize s))] }
  | .stn d a => some { types := some allTypes, opds := [data d, pair a] }
  | .aadd _ d a b => some (atomicDesc s [0, 1, 2, 3, 4, 5, 6] d a b (dataShape (typedSize s)))
  | .amin _ d a b => some (atomicDesc s [0, 1, 2, 3, 4] d a b (dataShape (typedSize s)))
  | .amax _ d a b => some (atomicDesc s [0, 1, 2, 3, 4] d a b (dataShape (typedSize s)))
  | .aand _ d a b => some (atomicDesc s scalarInt d a b (dataShape (typedSize s)))
  | .aor _ d a b => some (atomicDesc s scalarInt d a b (dataShape (typedSize s)))
  | .axor _ d a b => some (atomicDesc s scalarInt d a b (dataShape (typedSize s)))
  | .axch _ d a b => some (atomicDesc s [0, 1, 2, 3, 4, 5, 6] d a b (dataShape (typedSize s)))
  | .acas _ d a b => some (atomicDesc s [0, 1, 2, 3, 4, 5, 6] d a b (if is64 (curType s) then .quad else .pair))
  | .wait d a b => some { types := some allTypes, scope := true, unlogged := true, opds := [pair a, data b, dst d .one] }
  | .wake d a b => some { scope := true, unlogged := true, opds := [pair a, one b, dst d .one] }
  | .binit a b => some { scope := true, barrier := true, unlogged := true, opds := [pair a, one b] }
  | .barv d a b => some { scope := true, barrier := true, unlogged := true, opds := [pair a, one b, dst d .one] }
  | .bwait d a b => some { scope := true, barrier := true, unlogged := true, opds := [pair a, one b, dst d .one] }
  | .binv a => some { scope := true, barrier := true, unlogged := true, opds := [pair a] }
  | .txb _ => some {}
  | .txa _ => some {}
  | .txq d => some { opds := [dst d .one] }
  | .acpy d a => some { scope := true, unlogged := true, always := true, perGang := true, tokens := true, opds := [pair a, (dst d .one).must .vk] }
  | .aten d a => some { scope := true, unlogged := true, always := true, perGang := true, tokens := true, opds := [pair a, (dst d .one).must .vk] }
  | .agth d a => some { scope := true, unlogged := true, always := true, perGang := true, tokens := true, opds := [pair a, (dst d .one).must .vk] }
  | .agtp d a => some { scope := true, unlogged := true, always := true, perGang := true, tokens := true, opds := [pair a, (dst d .one).must .vk] }
  | .asct d a => some { scope := true, unlogged := true, always := true, perGang := true, tokens := true, opds := [pair a, (dst d .one).must .vk] }
  | .acol d a => some { scope := true, unlogged := true, always := true, perGang := true, tokens := true, opds := [pair a, (dst d .one).must .vk] }
  | .pub d a => some { scope := true, unlogged := true, opds := [one a, dst d .pair] }
  | .hget d a => some { scope := true, unlogged := true, opds := [one a, dst d .pair] }
  | .trace d a => some (traceDesc s d a)
  | .rast d a => some (traceDesc s d a)
  | .trsm d a => some (traceDesc s d a)
  | .acan d => some { opds := [{ f := d, sh := .one, rd := false, wr := false, rule := .vk }] }
  | .blnd d a b => some { engines := .waveOnly, perGang := true, opds := [src d .oct, one a, one b] }
  | .qbind d a => some { unlogged := true, opds := [probe d, (one a).must .uniform] }
  | .qtry d a b => some { opds := [probe a, (dst d .one).must .lane, { f := d, sh := .one, rd := false, wr := false, rule := .noQueue }, (dst b .one).must .pred] }
  | .qput d a b => some { opds := [probe d, (one a).must .noQueue, (dst b .one).must .pred] }
  | .qcnt d a => some { opds := [probe a, (dst d .one).must .lane] }
  | .send d a b => some { unlogged := true, opds := [src d .quad, pair a, one b] }
  | .rqp d n => some { engines := .notSup, unlogged := true, opds := [(src d (entryShape (curLaunder s n.toNat).cfg)).must .vk] }
  | .rqg d n => some { engines := .notSup, unlogged := true, opds := [(dst d (entryShape (curLaunder s n.toNat).cfg)).must .vk] }
  | .rsvp d a b => some { engines := .notSup, unlogged := true, opds := [src a .quad, one b, dst d .one] }
  | .rsvg d => some { engines := .mccOnly, opds := [dst d .oct] }
  | .rsvd d a => some { engines := .mccOnly, scope := true, opds := [src d .quad, src a .quad] }
  | .shoot d a b => some (supDesc [one d, pair a, one b])
  | .flush d a => some (supDesc [one d, one a])
  | .bias d a b => some (supDesc [pair a, one b, dst d .one])
  | .mgrt d a b => some (supDesc [pair d, pair a, one b])
  | _ => none
where
  /-- The ray instructions (R335). -/
  traceDesc (s : State) (d a : Fld) : Desc :=
    { engines := .notSup, scope := true, unlogged := true, perGang := true, opds := [(src a .pair).must .laneClass, (dst d .one).must (if curIsWave s then .vOnly else .vk)] }

/-- What R63 checks of an instruction of the map of R59. -/
def descOf (s : State) (i : Instr) : Option Desc := ((laneForm s i).map LaneForm.desc) <|> otherDesc s i

/-! ## When an instruction may execute -/

/-- The gang or thread that cur names passes the checks of R63 for an instruction that d describes, no pending token stops it (R48), an instruction
that transactions do not log meets no open transaction (R222), and the uniform unit is free for one that needs it (R281). -/
structure MayRun (s : State) (d : Desc) (iss : Issue) : Prop where
  issue : issueOf s d.guarded = some iss
  checked : checks iss.u d = none
  settled : waitsToken s iss d = false
  logged : d.unlogged = true → iss.u.txLanes = []
  free : uniformFree s iss d = true

/-- The same, and none of its registers holds the token of a completed command that nothing has read yet (R193). -/
structure Runs (s : State) (d : Desc) (iss : Issue) : Prop extends MayRun s d iss where
  fresh : dueTokens iss d = []

/-- No operand pops or pushes a queue: a queue register is at most named, as a probe names it. -/
def NoQueues (d : Desc) : Prop := ∀ o ∈ d.opds, isQ o.f = true → o.rd = false ∧ o.wr = false

/-- Lane by lane, without queue registers: some lane is active, or the instruction runs without one. -/
structure RunsPlain (s : State) (d : Desc) (iss : Issue) : Prop extends Runs s d iss where
  noQueue : NoQueues d
  perLane : allUniform iss.u d.opds = false ∨ d.perGang = true
  active : iss.lanes ≠ [] ∨ d.always = true

/-- Lane by lane, and every queue register can move its words now (R244 to R246). -/
structure RunsQueued (s : State) (d : Desc) (iss : Issue) : Prop extends Runs s d iss where
  perLane : allUniform iss.u d.opds = false ∨ d.perGang = true
  active : iss.lanes ≠ []
  admitted : queueFault s iss.u d.opds iss.lanes.length = none
  ready : queueReady s iss.u iss.gang (queueUses iss.u d.opds iss.lanes.length) = true

/-- Uniform operands in a wave: the instruction is executed once for the strand (R31). -/
structure RunsUniform (s : State) (d : Desc) (iss : Issue) : Prop extends Runs s d iss where
  uniform : allUniform iss.u d.opds = true
  once : d.perGang = false

/-- No lane of the machine is in a transaction. -/
def NoTransactions (s : State) : Prop := ∀ u ∈ s.units, u.tx = []

/-- Nothing of the package is under way besides its units: no bring-up, no message in the network, no held access, no core that powers up, no owed
ticket, no lost write-through, waiting record or register write, and no bin of a pre-empted context. -/
structure QuietPackage (s : State) : Prop where
  booting : s.pkg.booting = none
  net : s.pkg.net = []
  held : s.pkg.heldReqs = []
  waking : ∀ x ∈ s.cores, x.2.waking = none
  owed : ∀ x ∈ s.quads, x.2.owed = []
  bins : ∀ x ∈ s.quads, ∀ b ∈ x.2.bins, b.saved = false
  errs : ∀ die, (s.die die).wtErrs = []
  trace : ∀ die, (s.die die).trcWait = []
  regs : ∀ die, (s.die die).regWaits = []

/-! ## The kinds of the rows -/

/-- The micro-instructions of a ray's program (R351). -/
def isMicro (i : Instr) : Bool :=
  match i with
  | .uNfet => true
  | .uBoxt => true
  | .uTrit => true
  | .uEdgt => true
  | .uSplt => true
  | .uDepz => true
  | .uOrdr => true
  | .uPush => true
  | .uPop => true
  | .uNext => true
  | .uLeaf _ => true
  | .uInst => true
  | .uIpop => true
  | .uHit => true
  | .uTmax => true
  | .uAnyh => true
  | .uEmit => true
  | .uLdr _ _ _ => true
  | .uFlg _ => true
  | .uBrc _ _ _ => true
  | .uJmp _ => true
  | .uYld => true
  | .uStat _ _ => true
  | .uDone => true
  | _ => false

/-- The events: what happens on the machine beside its words. -/
def isEvent (i : Instr) : Bool :=
  match i with
  | .evPowerOn _ => true
  | .evReportQuery => true
  | .evAttestationRequest _ => true
  | .evHostRequest _ => true
  | .evOlunRequest _ _ => true
  | .evFlitFailure _ => true
  | .evBirspArrival _ _ => true
  | .evCxlLinkDown => true
  | .evTimeCorrection _ _ => true
  | .evPowerMeasurement _ => true
  | .evCoreGating _ _ => true
  | .evCoreWake _ _ => true
  | .evSoftError _ => true
  | .evMboxPush _ _ _ _ => true
  | .evLqBell _ _ => true
  | .evLqErrRead _ => true
  | .evCtxPre _ _ => true
  | .evReplay _ _ _ => true
  | .evResume _ _ _ => true
  | .evRedirect _ _ _ => true
  | .evReturn _ _ _ => true
  | .evReleaseWaiter _ _ _ => true
  | .evKill _ _ _ => true
  | .evDiscardTask _ _ _ => true
  | .evReplayCommand _ _ _ => true
  | .evCancelCommand _ _ _ => true
  | .evChanOwner _ _ _ => true
  | .evLdrCfg _ _ _ _ => true
  | .evRdcCfg _ _ => true
  | .evWaiterCfg _ _ => true
  | .evCtrDataRead _ _ => true
  | .evCtrDataWrite _ _ _ => true
  | .evDlyDataWrite _ _ _ => true
  | .evMonCfgWrite _ _ => true
  | .evPortFrz _ _ => true
  | .evNgateWrite _ _ => true
  | .evStopRequest _ _ => true
  | .evStopRelease _ _ => true
  | .evSfstatClr _ => true
  | .evStimeLo _ => true
  | .evSretLo _ => true
  | .evCycLo _ _ => true
  | .evMsgDrop _ => true
  | .evSeCorr _ => true
  | .evSeUnc _ => true
  | .evTrcLost _ => true
  | .evTrcHead _ => true
  | .evDwDataRead _ _ => true
  | .evDwDataWrite _ _ _ => true
  | .evSystemRegisterWrite _ _ _ _ => true
  | .evLaunchQueueTake _ _ _ => true
  | .evDependenceNotification _ _ _ => true
  | .evConditionRead _ _ _ => true
  | .evPlacement _ => true
  | .evGridCompletion _ => true
  | .evSliceExpiry _ _ => true
  | .evPreemptionComplete _ => true
  | .evCapture _ => true
  | .evBinLaunch _ _ _ => true
  | .evBinTimerExpiry _ _ _ => true
  | .evTaskDispatch _ _ _ => true
  | .evGangPromotion _ _ => true
  | .evRegangRejoin _ => true
  | .evHaltTakesEffect _ => true
  | .evFillArrival _ => true
  | .evWriteThroughArrival _ => true
  | .evMessageDelivery _ _ => true
  | .evInputBufferDelivery _ _ => true
  | .evFaultPacketDelivery _ => true
  | .evSleepTimeout _ _ => true
  | .evRiserGrant _ => true
  | .evCommandBlock _ => true
  | .evTokenWrite _ => true
  | .evMxwlCompletion _ _ => true
  | .evMxstRow _ => true
  | .evMxrdRow _ => true
  | .evStackSpill _ => true
  | .evBatchCompletion _ => true
  | .evComparatorFire _ _ _ => true
  | .evSampleRecord _ _ => true
  | .evPreciseStopReached _ _ => true
  | .evMonitorLevelSample _ _ => true
  | .evUnassignedOpcode _ => true
  | .evReservedMicroOperation _ => true
  | .evSilentPackage _ => true
  | .evWriteThroughAcknowledgement _ => true
  | _ => false

/-! ## Frames -/

/-- Every register but the operand o in the lanes ls is as before; of fstat no flag is lost. -/
structure RegsKept (o : Opd) (ls : List Nat) (r r' : Regs) : Prop where
  v : ∀ l i, i < 128 → ¬(isV o.f = true ∧ l ∈ ls ∧ o.f.toNat ≤ i ∧ i < o.f.toNat + o.sh.words) → r'.getV l i = r.getV l i
  k : ∀ i, ¬(isK o.f = true ∧ o.f.toNat - 0x80 ≤ i ∧ i < o.f.toNat - 0x80 + o.sh.words) → r'.getK i = r.getK i
  p : ∀ i l, ¬(isP o.f = true ∧ i = o.f.toNat - 0xD0 ∧ l ∈ ls) → r'.getP i l = r.getP i l
  q : r'.q = r.q
  mode : r'.mode = r.mode
  sticky : r'.fstat ||| r.fstat = r'.fstat
  timeHi : r'.timeHi = r.timeHi
  retHi : r'.retHi = r.retHi
  fb : r'.fb = r.fb
  mxpi : r'.mxpi = r.mxpi

/-- The registers of the unit at a place change by g; nothing else does. -/
def withRegs (s : State) (p : Place) (g : Regs → Regs) : State := s.modUnit p (fun u => u.modRegs g)

/-- Values written to an operand, one for each lane of the issue. -/
def putEach (iss : Issue) (o : Opd) (val : Nat → Nat) (r : Regs) : Regs := r.putLanes o.f o.sh iss.lanes (iss.lanes.map val)

/-! ## Results of integer instructions -/

/-- The values of an instruction's sources in a lane. -/
def LaneForm.args (f : LaneForm) (s : State) (iss : Issue) (lane : Nat) : List Nat :=
  (f.srcs.filter (·.rd)).map (fun o => readOpd s iss.u o (f.types.isSome && signedTy (modeType iss.u.regs.mode)) lane)

/-- A comparison under a type. -/
def below {w : Nat} (sg : Bool) (x y : BitVec w) : Bool := if sg then x.slt y else x.ult y

def yes (b : Bool) : Nat := if b then 1 else 0

/-- n bits at pos of a word, and the word with them replaced. -/
def fieldOf (x : Word) (pos n : Nat) : Word := (x >>> pos) &&& (BitVec.allOnes 32 >>> (32 - n))
def withField (x y : Word) (pos n : Nat) : Word :=
  let m := (BitVec.allOnes 32 >>> (32 - n)) <<< pos
  (x &&& ~~~m) ||| ((y <<< pos) &&& m)

/-- The result of an instruction under a scalar integer type of w bits, without sat, from its sources in order (R80 to R94): sg under i32 and i64. -/
def intOp (w : Nat) (sg : Bool) (i : Instr) : Option (BitVec w → BitVec w → BitVec w → Nat) :=
  match i with
  | .add _ _ _ => some (fun a b _ => (a + b).toNat)
  | .sub _ _ _ => some (fun a b _ => (a - b).toNat)
  | .mul _ _ _ => some (fun a b _ => (a * b).toNat)
  | .mad _ _ _ => some (fun a b d => (a * b + d).toNat)
  | .min _ _ _ => some (fun a b _ => (if below sg a b then a else b).toNat)
  | .max _ _ _ => some (fun a b _ => (if below sg b a then a else b).toNat)
  | .neg _ _ => some (fun a _ _ => (-a).toNat)
  | .abs _ _ => some (fun a _ _ => (if sg && a.msb then -a else a).toNat)
  | .addi _ _ n => some (fun a _ _ => (a + n.signExtend w).toNat)
  | .muli _ _ n => some (fun a _ _ => (a * n.signExtend w).toNat)
  | .clamp _ _ _ => some (fun a b d => let x := if below sg a d then d else a; (if below sg x b then x else b).toNat)
  | .mulh _ _ _ => some (fun a b _ => ((if sg then a.signExtend (2 * w) * b.signExtend (2 * w) else a.setWidth (2 * w) * b.setWidth (2 * w)).extractLsb' w w).toNat)
  | .div _ _ _ => some (fun a b _ => (if b = 0 then BitVec.allOnes w else if sg then a.sdiv b else a.udiv b).toNat)
  | .rem _ _ _ => some (fun a b _ => (if sg then a.srem b else a.umod b).toNat)
  | .sad _ _ _ => some (fun a b d => (d + (if below sg a b then b - a else a - b)).toNat)
  | .ceq _ _ _ => some (fun a b _ => yes (a == b))
  | .cne _ _ _ => some (fun a b _ => yes (a != b))
  | .clt _ _ _ => some (fun a b _ => yes (below sg a b))
  | .cle _ _ _ => some (fun a b _ => yes (!below sg b a))
  | .cgt _ _ _ => some (fun a b _ => yes (below sg b a))
  | .cge _ _ _ => some (fun a b _ => yes (!below sg a b))
  | .ceqi _ _ n => some (fun a _ _ => yes (a == n.signExtend w))
  | .clti _ _ n => some (fun a _ _ => yes (below sg a (n.signExtend w)))
  | .pand _ _ _ => some (fun a b _ => yes (a != 0 && b != 0))
  | .por _ _ _ => some (fun a b _ => yes (a != 0 || b != 0))
  | .pxor _ _ _ => some (fun a b _ => yes ((a != 0) != (b != 0)))
  | .pnot _ _ => some (fun a _ _ => yes (a == 0))
  | .tstb _ _ n => some (fun a _ _ => yes (a.getLsbD n.toNat))
  | .pmov _ _ _ => some (fun a b d => (if b != 0 then a else d).toNat)
  | .and _ _ _ => some (fun a b _ => (a &&& b).toNat)
  | .or _ _ _ => some (fun a b _ => (a ||| b).toNat)
  | .xor _ _ _ => some (fun a b _ => (a ^^^ b).toNat)
  | .not _ _ => some (fun a _ _ => (~~~a).toNat)
  | .andn _ _ _ => some (fun a b _ => (a &&& ~~~b).toNat)
  | .shl _ _ _ => some (fun a b _ => (a <<< b.toNat).toNat)
  | .shr _ _ _ => some (fun a b _ => (a >>> b.toNat).toNat)
  | .sar _ _ _ => some (fun a b _ => (a.sshiftRight b.toNat).toNat)
  | .rol _ _ _ => some (fun a b _ => (a.rotateLeft b.toNat).toNat)
  | .shli _ _ n => some (fun a _ _ => (a <<< n.toNat).toNat)
  | .shri _ _ n => some (fun a _ _ => (a >>> n.toNat).toNat)
  | .sari _ _ n => some (fun a _ _ => (a.sshiftRight n.toNat).toNat)
  | .popc _ _ => some (fun a _ _ => (List.range w).countP a.getLsbD)
  | .clz _ _ => some (fun a _ _ => ((List.range w).takeWhile (fun k => !a.getMsbD k)).length)
  | .brev _ _ => some (fun a _ _ => a.reverse.toNat)
  | .bfe _ _ _ => some (fun a b _ =>
      let (pos, len) := (b.toNat % 256, b.toNat / 256 % 256)
      let n := Nat.min (pos + len) 32 - pos
      if len = 0 ∨ 32 ≤ pos then 0 else if sg then (((a.setWidth 32 <<< (32 - pos - n)) : Word).sshiftRight (32 - n)).toNat else (fieldOf (a.setWidth 32) pos n).toNat)
  | .mov _ _ => some (fun a _ _ => a.toNat)
  | .movl _ n => some (fun _ _ _ => n.toNat)
  | .movh _ n => some (fun d _ _ => (n ++ d.extractLsb' 0 16).toNat)
  | .movs _ n => some (fun _ _ _ => (n.signExtend 32).toNat)
  | .bfi _ _ _ => some (fun a b d =>
      let (pos, len) := (b.toNat % 256, b.toNat / 256 % 256)
      if len = 0 ∨ 32 ≤ pos then d.toNat else (withField (d.setWidth 32) (a.setWidth 32) pos (Nat.min (pos + len) 32 - pos)).toNat)
  | _ => none

/-- The result of an instruction of 64-bit addresses (R94), from its sources in order. -/
def addrResult (i : Instr) : Option (DWord → DWord → Nat) :=
  match i with
  | .adda _ _ _ => some (fun a b => (a + (b.setWidth 32).signExtend 64).toNat)
  | .addai _ _ n => some (fun a _ => (a + n.signExtend 64).toNat)
  | .suba _ _ _ => some (fun a b => (a - b).toNat)
  | .clta _ _ _ => some (fun a b => yes (a.ult b))
  | .ceqa _ _ _ => some (fun a b => yes (a == b))
  | _ => none

/-! ## Results of elements and registers -/

/-- The result of one element and the flags that it raises, from the elements of the sources in order (R76, R80 to R84, R106, R115 to R117, R123, R124): an integer
result through Fit, a float result as one rounding of the exact value. -/
def elemResult (ty : Nat) (m : FMode) (i : Instr) : Option (List Nat → VF) :=
  let f := floatFmt ty
  let e (x : List Nat) (k : Nat) : Int := elemInt ty (x.getD k 0)
  let v (x : List Nat) (k : Nat) : XR := f.decodeFtz m.ftz (x.getD k 0)
  let int (g : List Nat → Int) : Option (List Nat → VF) := some (fun x => (fit ty m.sat (g x), 0))
  let same (g : List Nat → Nat) : Option (List Nat → VF) := some (fun x => (g x, 0))
  let one (g : List Nat → FR) : Option (List Nat → VF) := some (fun x => ((g x).v, (g x).fl))
  let exact (g : List Nat → XR × Bool) : Option (List Nat → VF) := one (fun x => f.round m.rm m.sat m.ftz (g x).2 (g x).1)
  let special (op : Nat) (g : Fmt → FMode → Nat → XR → FR) : Option (List Nat → VF) := one (fun x => g f m (evalName op ty m (x.getD 0 0)) (v x 0))
  let rel (r : Rel) : Option (List Nat → VF) :=
    if isFloatTy ty then some (fun x =>
      let nan := (v x 0).isNan || (v x 1).isNan
      (truthElem ty (if nan then decide (r = .ne) else r.holds ((v x 0).cmp (v x 1))), if nan && r.ordered then fNv else 0))
    else same (fun x => truthElem ty (r.holds (e x 0 - e x 1)))
  match i with
  | .add _ _ _ => if isFloatTy ty then exact (fun x => XR.sum m.rm [v x 0, v x 1]) else int (fun x => e x 0 + e x 1)
  | .sub _ _ _ => if isFloatTy ty then exact (fun x => XR.sum m.rm [v x 0, (v x 1).negate]) else int (fun x => e x 0 - e x 1)
  | .mul _ _ _ => if isFloatTy ty then exact (fun x => (v x 0).mul (v x 1)) else int (fun x => e x 0 * e x 1)
  | .mad _ _ _ =>
    if isFloatTy ty then one (fun x =>
      let p := (v x 0).mul (v x 1)
      if p.2 then { v := f.nan, fl := fNv } else let q := XR.sum m.rm [p.1, v x 2]; f.round m.rm m.sat m.ftz q.2 q.1)
    else int (fun x => e x 0 * e x 1 + e x 2)
  | .neg _ _ => if isFloatTy ty then one (fun x => f.round .rne m.sat m.ftz false (v x 0).negate) else int (fun x => -(e x 0))
  | .abs _ _ => if isFloatTy ty then one (fun x => f.round .rne m.sat m.ftz false (v x 0).abs) else int (fun x => ((e x 0).natAbs : Int))
  | .min _ _ _ => same (fun x => elemMinMax false ty m.ftz (x.getD 0 0) (x.getD 1 0))
  | .max _ _ _ => same (fun x => elemMinMax true ty m.ftz (x.getD 0 0) (x.getD 1 0))
  | .clamp _ _ _ => same (fun x => elemMinMax false ty m.ftz (elemMinMax true ty m.ftz (x.getD 2 0) (x.getD 0 0)) (x.getD 1 0))
  | .addi _ _ n => int (fun x => e x 0 + n.toInt)
  | .muli _ _ n => int (fun x => e x 0 * n.toInt)
  | .mulh _ _ _ => same (fun x => (((e x 0 * e x 1) / (2 ^ elemBits ty : Nat)).emod (2 ^ elemBits ty : Nat)).toNat)
  | .div _ _ _ => if isFloatTy ty then one (fun x => f.divX m (v x 0) (v x 1)) else same (fun x => divInt ty m.sat (e x 0) (e x 1))
  | .rem _ _ _ => same (fun x => fit ty false (Int.tmod (e x 0) (e x 1)))
  | .ceq _ _ _ => rel .eq
  | .cne _ _ _ => rel .ne
  | .clt _ _ _ => rel .lt
  | .cle _ _ _ => rel .le
  | .cgt _ _ _ => rel .gt
  | .cge _ _ _ => rel .ge
  | .cun _ _ _ => same (fun x => truthElem ty ((f.decode (x.getD 0 0)).isNan || (f.decode (x.getD 1 0)).isNan))
  | .rcp _ _ => special 0 (fun f m _ x => f.divX m (.fin false 1 0) x)
  | .rsq _ _ => special 1 (fun f m _ x => rsqF f m x)
  | .sqrt _ _ => special 2 (fun f m _ x => sqrtF f m x)
  | .exp2 _ _ => special 3 exp2F
  | .log2 _ _ => special 4 log2F
  | .sinp _ _ => special 5 sinpF
  | .cosp _ _ => special 6 cospF
  | .tanh _ _ => special 7 tanhF
  | .flr _ _ => one (fun x => f.integral .rdn m.ftz (x.getD 0 0))
  | .ceil _ _ => one (fun x => f.integral .rup m.ftz (x.getD 0 0))
  | .trnc _ _ => one (fun x => f.integral .rtz m.ftz (x.getD 0 0))
  | .rint _ _ => one (fun x => f.integral m.rm m.ftz (x.getD 0 0))
  | .frac _ _ => one (fun x => f.frac m (x.getD 0 0))
  | .cpsgn _ _ _ => same (fun x => f.copySign (x.getD 0 0) (x.getD 1 0))
  | _ => none

/-- The result of an instruction and the flags that it raises, from the values of its sources in order: element by element, or for the register or group as a whole
(R82, R83, R92, R93, R117 to R122, R125 to R129). -/
def laneResult (s : State) (ty : Nat) (m : FMode) (i : Instr) : Option (List Nat → VF) :=
  let f := floatFmt ty
  let v (y : Nat) : XR := f.decodeFtz m.ftz y
  match i with
  | .sad _ _ _ => some (fun x => (fit 1 m.sat ((x.getD 2 0 + sadSum ty (x.getD 0 0) (x.getD 1 0) : Nat) : Int), 0))
  | .addc _ _ _ => some (fun x => (x.getD 0 0 + x.getD 1 0 + x.getD 2 0 / 2 ^ 32 % 2, 0))
  | .prmt _ _ _ => some (fun x => (permute (x.getD 0 0) (x.getD 1 0), 0))
  | .pack _ _ _ => some (fun x => (packVal ty m.sat (x.getD 0 0) (x.getD 1 0), 0))
  | .class _ _ _ => some (fun x => perElem ty (fun y => (truthElem ty ((x.getD 1 0).testBit (f.classOf (y.getD 0 0))), 0)) [x.getD 0 0])
  | .scale _ _ _ => some (fun x => perElem ty (fun y =>
      let r := f.round m.rm m.sat m.ftz false ((v (y.getD 0 0)).scale (max (-600) (min (sint 32 (x.getD 1 0)) 600)))
      (r.v, r.fl)) [x.getD 0 0])
  | .cvt _ a b => (cvtSource s a b ty).map (fun t x => convertGroup (cvtCount (t % 16) ty) (t % 16) ty (fun _ y => convertElem (t % 16) ty m y) (x.getD 0 0))
  | .cvtr _ _ _ => some (fun x => convertGroup (32 / elemBits ty) 4 ty (fun j y =>
      let k := 32 / (32 / elemBits ty)
      let r := stochastic f m k (x.getD 1 0 / 2 ^ (k * j) % 2 ^ k) (fp32.decodeFtz m.ftz y)
      (r.v, r.fl)) (x.getD 0 0))
  | .dot _ _ _ => some (fun x => if isFloatTy ty then (let r := dotFloat ty m (x.getD 0 0) (x.getD 1 0) (x.getD 2 0); (r.v, r.fl))
      else (dotInt ty m.sat (x.getD 0 0) (x.getD 1 0) (x.getD 2 0), 0))
  | .qdec _ _ _ => some (fun x => qdecVal m (x.getD 0 0) (x.getD 1 0))
  | .qenc _ _ _ => some (fun x => if ty = 4 then qencScale m.ftz (x.getD 0 0) (x.getD 1 0)
      else
        let bs := fp32.decodeFtz m.ftz (x.getD 1 0)
        if bs.posFin then codes8 (fun j => qencElem m.ftz bs (x.getD 0 0 / 2 ^ (32 * j) % 2 ^ 32)) else (0, fNv))
  | .f4dec _ _ _ => some (fun x => f4decVal m (x.getD 0 0) (x.getD 1 0 % 256))
  | .f4enc _ _ _ => some (fun x => if ty = 4 then f4encScale m.ftz (x.getD 0 0) else f4encVal m (x.getD 0 0) (x.getD 1 0 % 256))
  | i => (elemResult ty m i).map (fun g x => perElem ty g x)

/-- A finite value in units of 2^lo, where lo does not exceed its exponent. -/
def unitsOf (lo : Int) (x : XR) : Int :=
  match x with
  | .fin z n e => scaled z n e lo
  | _ => 0

/-! ## The mode family -/

/-- The mode that an instruction of the mode family with an immediate writes (R39, R147). -/
def newMode (i : Instr) (m : BitVec 16) : Option (BitVec 16) :=
  match i with
  | .mode n => some n
  | .modet t => some (m.extractLsb' 4 12 ++ t)
  | .modeg e n g => some (m.extractLsb' 13 3 ++ e ++ n ++ g ++ m.extractLsb' 0 8)
  | .modes sc => some (sc ++ m.extractLsb' 0 13)
  | .moder r => some (m.extractLsb' 6 10 ++ r ++ m.extractLsb' 0 4)
  | _ => none

/-- The unit's mode register changes. -/
def withMode (s : State) (iss : Issue) (f : BitVec 16 → BitVec 16) : State := withRegs s iss.p (fun r => { r with mode := f r.mode })

/-- No gang of the issue's strand that can come to its instruction is still to come, or the gang has waited for them as long as it waits (log entry 22). -/
def StrandHere (s : State) (iss : Issue) : Prop := strandBehind iss = false ∨ modeStart s iss + 65536 ≤ s.pkg.clocks.toNat

/-! ## Branches -/

/-- The lowest lane of a slice mask. -/
def lowBit (m : BitVec 4) : Nat := ((List.range 4).filter (fun b => m.getLsbD b)).headD 4

/-- Each live lane of a slice is at one place at most: active, or in one resume entry (R42, R135). -/
structure StackOk (sl : Slice) : Prop where
  inLive : sl.active &&& ~~~sl.live = 0
  within : ∀ e ∈ sl.rstack, e.mask &&& ~~~sl.live = 0
  apart : sl.rstack.Pairwise (fun e f => e.mask &&& f.mask = 0)
  disjoint : sl.active &&& sl.waiting = 0

/-- No live lane is lost: every one is active or waits in a resume entry, or a join entry is there that gives it back (R135, R138). -/
def KeepsLanes (sl : Slice) : Prop := sl.active ||| sl.waiting = sl.live ∨ ∃ e ∈ sl.rstack, e.mask = 0

/-- No join entry of a stack has this join pc. -/
def NoJoinAt (es : List REntry) (pc : DWord) : Prop := ∀ e ∈ es, e.mask = 0 → e.pc ≠ pc

/-- The gangs and strands of a wave are named by their lowest live slices (R17, R31). -/
structure Indexed (u : Machine.Unit) : Prop where
  size : u.slices.length = 24
  gangs : ∀ i ∈ u.liveSlices, lowestWith u (·.gang) (u.slice i).gang = (u.slice i).gang
  strands : ∀ i ∈ u.liveSlices, lowestWith u (·.strand) (u.slice i).strand = (u.slice i).strand

/-- The gang's slices divide by the targets that lanes take (R132, R134, R137). -/
def branched (s : State) (iss : Issue) (ts : List (Nat × DWord)) : State :=
  s.modUnit iss.p (fun u => { u with slices := iss.slices.foldl (fun ss k => modAt ss k (fun sl => sl.divide iss.pc (targetGroups k ts))) u.slices })

/-- A slice has no room for the entries that the branch would push. -/
def Overflows (iss : Issue) (ts : List (Nat × DWord)) : Prop :=
  ∃ k ∈ iss.slices, 16 < ((iss.u.slice k).divide iss.pc (targetGroups k ts)).rstack.length

/-- Lanes that all take one target. -/
def allTo (lanes : List Nat) (t : DWord) : List (Nat × DWord) := lanes.map (fun l => (l, t))

/-- The gang's slices change by f. -/
def withSlices (s : State) (iss : Issue) (f : Nat → Slice → Slice) : State :=
  s.modUnit iss.p (fun u => { u with slices := iss.slices.foldl (fun ss k => modAt ss k (f k)) u.slices })

/-- The strand has now executed this instance of a uniform instruction, with a value for its other gangs (R31). -/
def ranOnce (s : State) (iss : Issue) (v : DWord) : State := recordShared (countPass s iss) iss v

/-! ## Thread records (R152, R277) -/

/-- What R63 checks of MIGR, for its issue. -/
def migrDesc (iss : Issue) : Desc := { engines := .notSupMcc, unlogged := true, scope := iss.u.ident.caller.isSome, reads := migrReads }

/-- A bin of a key that still takes records. -/
def OpenBin (b : Bin) (asid : Nat) (entry : DWord) : Prop :=
  b.state = .filling ∧ b.asid = asid ∧ b.entry = entry ∧ b.recs.length < 96 ∧ b.launches = false ∧ b.saved = false

/-- The bin that a template's first record binds. -/
def freshBin (s : State) (asid : Nat) (x : Template) : Bin :=
  { state := .filling, entry := x.entry, asid := asid, recs := [], elapsed := 0, tindex := x.index, timer := x.timer, mode := x.mode, regs := x.regs, lds := x.lds,
    cclass := x.cclass, prio := x.prio, ks := x.ks, since := s.seq, saved := false }

/-- A record enters a quad's bins (R277): the oldest open bin of its key, or else the lowest free one, which it binds. Its 32 bytes enter the Ladle region
(R278); a bin with 96 records launches; nothing else changes. -/
inductive Placed (s : State) (die quad asid : Nat) (x : Template) (r : ThreadRec) : State → Prop where
  | joins (i : Nat) (ho : OpenBin ((s.quad die quad).bins.getD i Bin.reset) asid x.entry)
      (hold : ∀ j, OpenBin ((s.quad die quad).bins.getD j Bin.reset) asid x.entry → j ≠ i →
        ((s.quad die quad).bins.getD i Bin.reset).since < ((s.quad die quad).bins.getD j Bin.reset).since ∨
        (((s.quad die quad).bins.getD i Bin.reset).since = ((s.quad die quad).bins.getD j Bin.reset).since ∧ i < j)) :
      Placed s die quad asid x r (let b := (s.quad die quad).bins.getD i Bin.reset
        (s.wr (locVault die quad (ladleOff i b.recs.length)) 32 (ladleBytes r)).modQuad die quad (fun q =>
          { q with bins := setAt q.bins i { b with recs := b.recs ++ [r], state := if 96 ≤ b.recs.length + 1 then .launching else .filling } }))
  | binds (i : Nat) (hi : i < (s.quad die quad).bins.length) (hf : ((s.quad die quad).bins.getD i Bin.reset).state = .free)
      (hl : ∀ j < i, ((s.quad die quad).bins.getD j Bin.reset).state ≠ .free) (hn : ∀ j, ¬ OpenBin ((s.quad die quad).bins.getD j Bin.reset) asid x.entry) :
      Placed s die quad asid x r ({ ((s.wr (locVault die quad (ladleOff i 0)) 32 (ladleBytes r)).modQuad die quad (fun q =>
          { q with bins := setAt q.bins i { freshBin s asid x with recs := [r] } })) with seq := s.seq + 1 })

/-- The records of a SPAWN's lanes enter the bins of its quad in lane order: each has its lane's four words and goes to the bin of its entry's template. -/
inductive Spawned (u : Machine.Unit) : State → List (Nat × DWord × Nat) → State → Prop where
  | nil (s : State) : Spawned u s [] s
  | cons {s s1 s2 t : State} {l : Nat} {e : DWord} {ws : Nat} {rest : List (Nat × DWord × Nat)} {x : Template}
      (hx : needTemplate s u e 0 = .ok (s1, x))
      (hp : Placed s1 u.place.die (quadOf u.place.core) u.ident.asid x { v := wordsOf 4 ws, p := 0, ticket := none, mig := none } s2)
      (hr : Spawned u s2 rest t) : Spawned u s ((l, e, ws) :: rest) t

/-! ## How an instruction's effect is made -/

/-- The gang completes, and the uniform unit has done its work in this clock where the instruction used it (R281). -/
def ends (iss : Issue) (d : Desc) (t : State) : State := complete (useUniform t iss d) iss d.moves

/-- An instruction that d describes takes effect now: from the state s0, by the lanes of the issue j; a state t that its effect leaves then becomes
fin t. It is made by every active lane of the gang, with or without queue registers, or, where its operands are uniform, once for the strand by the
lowest active lane of those that stand at it (R31, R32, R191). -/
inductive Acts (s : State) (d : Desc) : (iss : Issue) → (s0 : State) → (j : Issue) → (fin : State → State) → Prop where
  | lanes {iss : Issue} (h : RunsPlain s d iss) : Acts s d iss s iss (ends iss d)
  | queued {iss : Issue} (h : RunsQueued s d iss) (hu : queueUses iss.u d.opds iss.lanes.length ≠ []) :
      Acts s d iss (queueUnblock s iss.u iss.gang (queueUses iss.u d.opds iss.lanes.length)) iss (ends iss d)
  | once {iss : Issue} (h : RunsUniform s d iss) (hs : iss.shared = none) (hl : iss.lanes ≠ []) :
      Acts s d iss s { iss with lanes := iss.uniLane d } (fun t => ends iss d (ranOnce t iss 0))

/-- The instructions of a strand, which wait for its gangs (R95). -/
def isStrand (i : Instr) : Bool :=
  match i with
  | .lane _ _ _ => true
  | .bcast _ _ => true
  | .shfl _ _ _ => true
  | .shflx _ _ _ => true
  | .shflu _ _ _ => true
  | .shfld _ _ _ => true
  | .vote _ _ => true
  | .vany _ _ => true
  | .vall _ _ => true
  | .rdx _ _ _ => true
  | .scan _ _ _ => true
  | .topk _ _ _ => true
  | .matchLanes _ _ _ => true
  | .elect _ _ => true
  | _ => false

/-! ## Instructions of a strand -/

/-- Every gang of the strand of the issue stands at an instruction that d describes, which passes its checks and meets no token, and some lane of the
strand is active. -/
structure StrandRuns (s : State) (d : Desc) (iss : Issue) : Prop where
  issue : issueOf s true = some iss
  checked : checks iss.u d = none
  settled : namesPending s iss.u d = false
  fresh : dueTokens iss.strandWide d = []
  gathered : iss.gathered = true
  active : iss.strandWide.lanes ≠ []

/-- Such an instruction takes effect from the state s0. -/
inductive StrandActs (s : State) (d : Desc) (iss : Issue) : (s0 : State) → Prop where
  | plain (h : StrandRuns s d iss) (hq : NoQueues d) : StrandActs s d iss s
  | queued (h : StrandRuns s d iss)
      (ha : queueFault s iss.u d.opds iss.strandWide.lanes.length = none) (hu : queueUses iss.u d.opds iss.strandWide.lanes.length ≠ [])
      (hr : queueReady s iss.u iss.strandWide.gang (queueUses iss.u d.opds iss.strandWide.lanes.length) = true) :
      StrandActs s d iss (queueUnblock s iss.u iss.strandWide.gang (queueUses iss.u d.opds iss.strandWide.lanes.length))

/-- The destination of an instruction of a strand. -/
def strandOut (s : State) (i : Instr) : Option Opd :=
  match i with
  | .bcast d _ => some ((dst d .one).must .lane)
  | .shfl d _ _ => some ((dst d .one).must .lane)
  | .shflx d _ _ => some ((dst d .one).must .lane)
  | .shflu d _ _ => some ((dst d .one).must .lane)
  | .shfld d _ _ => some ((dst d .one).must .lane)
  | .vote d _ => some (dst d (if isK d then .mask else .one))
  | .vany d _ => some (dst d .one)
  | .vall d _ => some (dst d .one)
  | .topk d _ _ => some (dst d .one)
  | .matchLanes d _ _ => some (dst d .mask)
  | .elect d _ => some (dst d .one)
  | .rdx d _ _ => some (dst d (tyShape s))
  | .scan d _ _ => some ((dst d (tyShape s)).must .lane)
  | _ => none

/-- The value that an instruction of a strand gives lane l (R96 to R100, R103, R104, R451, R452): w holds the strand's active lanes in order. -/
def strandVal (s : State) (w : Issue) (i : Instr) (l : Nat) : Option Nat :=
  let a (f : Fld) (l : Nat) : Nat := readOpd s w.u (src f .one) false l
  let first := w.lanes.headD 0
  let from? (f : Fld) (j : Option Nat) : Nat := match j with
    | some j => if j < 96 then (if liveLane w.u j then a f j else 0) else a f l
    | none => a f l
  let ayes (f : Fld) : List Nat := w.lanes.filter (fun l => decide (a f l ≠ 0))
  match i with
  | .bcast _ f => some (a f first)
  | .shfl _ f b => some (from? f (some (a b l)))
  | .shflx _ f b => some (from? f (some (l ^^^ (a b first % 128))))
  | .shflu _ f n => some (from? f (if n.toNat ≤ l then some (l - n.toNat) else none))
  | .shfld _ f n => some (from? f (some (l + n.toNat)))
  | .vote d f => some (if isK d then (maskOf (ayes f)).toNat else (ayes f).length)
  | .vany _ f => some (yes (!(ayes f).isEmpty))
  | .vall _ f => some (yes (decide (ayes f = w.lanes)))
  | .elect d f => some (if isK d then (ayes f).head?.getD 0xFFFFFFFF else yes (decide ((ayes f).head? = some l)))
  | .matchLanes _ f b =>
    let v (x : Fld) (l : Nat) : Nat := readOpd s w.u (src x (wide (is64 (modeType w.u.regs.mode)))) (signedTy (modeType w.u.regs.mode)) l
    some (maskOf (w.lanes.filter (fun l => decide (v f l = v b first)))).toNat
  | .topk d f b =>
    let sel := (rankLanes (modeType w.u.regs.mode) (w.lanes.map (fun l => (l, a f l)))).take (Nat.min (a b first) 96)
    some (if isK d then sel.length else sel.getD l 0xFFFFFFFF)
  | _ => none

/-! ## Loads and stores -/

/-- A load: its checks, destination, size in bytes, address from its sources, and the extension of what it reads (R205, R206). -/
structure LoadForm where
  desc : Desc
  out : Opd
  size : Nat
  ea : List Nat → Nat
  short : Bool

/-- The address of form A, and of form I for an access of n bytes (R205). -/
def formA (x : List Nat) : Nat := (BitVec.ofNat 64 (x.getD 0 0) + (BitVec.ofNat 32 (x.getD 1 0)).signExtend 64).toNat
def formI (n : Nat) (i : BitVec 8) (x : List Nat) : Nat := (BitVec.ofNat 64 (x.getD 0 0) + BitVec.ofNat 64 n * i.signExtend 64).toNat

def loadForm (s : State) (i : Instr) : Option LoadForm :=
  let at? (out : Opd) (size : Nat) (ea : List Nat → Nat) (short : Bool) : Option LoadForm := (otherDesc s i).map (fun d => { desc := d, out := out, size := size, ea := ea, short := short })
  match i with
  | .ldb d _ _ => at? (dst d .one) 1 formA true
  | .ldh d _ _ => at? (dst d .one) 2 formA true
  | .ldw d _ _ => at? (dst d .one) 4 formA false
  | .ldd d _ _ => at? (dst d .pair) 8 formA false
  | .ldq d _ _ => at? (dst d .quad) 16 formA false
  | .ldo d _ _ => at? (dst d .oct) 32 formA false
  | .ldbi d _ n => at? (dst d .one) 1 (formI 1 n) true
  | .ldwi d _ n => at? (dst d .one) 4 (formI 4 n) false
  | .lddi d _ n => at? (dst d .pair) 8 (formI 8 n) false
  | .ldqi d _ n => at? (dst d .quad) 16 (formI 16 n) false
  | _ => none

/-- What a load makes of the n bytes it has read (R206). -/
def LoadForm.value (f : LoadForm) (iss : Issue) (x : Nat) : Nat :=
  if f.short && signedTy (modeType iss.u.regs.mode) then (if f.size = 1 then ((BitVec.ofNat 8 x).signExtend 32).toNat else ((BitVec.ofNat 16 x).signExtend 32).toNat) else x

/-- A store: its checks, its size in bytes and its address from its sources, of which the first is the data (R205, R207). -/
structure StoreForm where
  desc : Desc
  size : Nat
  ea : List Nat → Nat

def storeForm (s : State) (i : Instr) : Option StoreForm :=
  let at? (size : Nat) (ea : List Nat → Nat) : Option StoreForm := (otherDesc s i).map (fun d => { desc := d, size := size, ea := fun x => ea (x.drop 1) })
  match i with
  | .stb _ _ _ => at? 1 formA
  | .sth _ _ _ => at? 2 formA
  | .stw _ _ _ => at? 4 formA
  | .std _ _ _ => at? 8 formA
  | .stq _ _ _ => at? 16 formA
  | .sto _ _ _ => at? 32 formA
  | .stbi _ _ n => at? 1 (formI 1 n)
  | .stwi _ _ n => at? 4 (formI 4 n)
  | .stdi _ _ n => at? 8 (formI 8 n)
  | .stqi _ _ n => at? 16 (formI 16 n)
  | _ => none

/-- The sources of an instruction that d describes, as lane l reads them. -/
def argsOf (s : State) (iss : Issue) (d : Desc) (l : Nat) : List Nat :=
  (d.opds.filter (·.rd)).map (fun o => readOpd s iss.u o (d.types.isSome && signedTy (modeType iss.u.regs.mode)) l)

/-- n bytes at va lie in the local store of a unit's core (R166). -/
def InLocalStore (s : State) (u : Machine.Unit) (va n : Nat) : Prop :=
  u.isSup = false ∧ 0x00F0000000000000 ≤ va ∧ va + n ≤ 0x00F0000000000000 + (s.core u.place.die u.place.core).split * 65536

/-- The location of a byte of it. -/
def localLoc (u : Machine.Unit) (va : Nat) : Nat := locLs u.place.die u.place.core (va - 0x00F0000000000000)

/-- The line that the L1 of a unit's core, and the L2 of its die, holds for an address of translated memory (R172, R176). -/
def l1Line (s : State) (u : Machine.Unit) (va : Nat) : Option Line :=
  (s.core u.place.die u.place.core).l1.find? (fun l => l.hits (nbits va 56 7) (asidOf s u) (s.die u.place.die).regs.gen)
def l2Line (s : State) (die asid va : Nat) : Option Line := (s.die die).l2.find? (fun l => l.hits (nbits va 56 7) asid (s.die die).regs.gen)

/-- The unit's core holds n bytes at va, of value v, in a whole line of its L1 without an error, with a permission (R173, R176, R429). -/
structure L1Holds (s : State) (u : Machine.Unit) (need : Need) (va n v : Nat) : Prop where
  engine : u.engine = .wave ∨ u.engine = .swarm
  low : va + n ≤ 0x00F0000000000000
  inLine : 0 < n ∧ va % 128 + n ≤ 128
  held : ∃ x, l1Line s u va = some x ∧ x.valid = allBytes ∧ x.bad = false ∧ x.allows u.isSup need = true ∧ lineGet x.bytes (va % 128) n = v

/-- The unit's core may store n bytes at va into x, the line of its L1, of which its die's L2 holds the copy m (R175, R180). -/
structure L1Stores (s : State) (u : Machine.Unit) (va n : Nat) (x m : Line) : Prop where
  holds : L1Holds s u needW va n (lineGet x.bytes (va % 128) n)
  core : u.place.core < 240
  l1 : l1Line s u va = some x
  l2 : l2Line s u.place.die (asidOf s u) va = some m
  same : sameLine x m = true
  first : (s.core u.place.die u.place.core).l1.find? (sameLine m) = some x
  good : lineBad s u.place.die m = false

/-- What an atomic leaves in place of the old value, for an operand b (R211 to R213). -/
def atomicNew (i : Instr) (ty old b : Nat) : Option Nat :=
  match i with
  | .aadd _ _ _ _ => some (atomicAdd ty old b)
  | .amin _ _ _ _ => some (elemMinMax false ty false old b)
  | .amax _ _ _ _ => some (elemMinMax true ty false old b)
  | .aand _ _ _ _ => some (old &&& b)
  | .aor _ _ _ _ => some (old ||| b)
  | .axor _ _ _ _ => some (old ^^^ b)
  | .axch _ _ _ _ => some b
  | .acas _ _ _ _ => some (if old = b % (if is64 ty then 2 ^ 64 else 2 ^ 32) then b / (if is64 ty then 2 ^ 64 else 2 ^ 32) else old)
  | _ => none

/-- The ordering that an atomic's opcode adds: acquire in bit 0, release in bit 1 (R193, R211). -/
def atomicOrder (i : Instr) : BitVec 2 :=
  match i with
  | .aadd o _ _ _ => o
  | .amin o _ _ _ => o
  | .amax o _ _ _ => o
  | .aand o _ _ _ => o
  | .aor o _ _ _ => o
  | .axor o _ _ _ => o
  | .axch o _ _ _ => o
  | .acas o _ _ _ => o
  | _ => 0

/-- What an instruction that accesses memory leaves, its fills' conflicts with open transactions included (R222). -/
def afterFills (s : State) (iss : Issue) (t : State) : State := earlyConflicts s t iss.p.die iss.p.core

/-! ## Asynchronous work -/

/-- An instruction that issues asynchronous commands: the code of its record's op, its token and its record address (R228, R231 to R237). -/
def asyncOf (i : Instr) : Option (Nat × Fld × Fld) :=
  match i with
  | .acpy d a => some (1, d, a)
  | .aten d a => some (2, d, a)
  | .agth d a => some (3, d, a)
  | .agtp d a => some (4, d, a)
  | .asct d a => some (5, d, a)
  | .acol d a => some (6, d, a)
  | _ => none

/-- An instruction that issues a batch of rays: whether its programs are raster programs, whether it resumes, its token and its record addresses
(R335, R368). -/
def raysOf (i : Instr) : Option (Bool × Bool × Fld × Fld) :=
  match i with
  | .trace d a => some (false, false, d, a)
  | .rast d a => some (true, false, d, a)
  | .trsm d a => some (false, true, d, a)
  | _ => none

/-- The record addresses that the lanes ls read, and the state after the reads and the release at the mode's scope. -/
def recordVas (s : State) (iss : Issue) (ls : List Nat) (oa : Opd) : List DWord := (col (readAllOpds s iss.u false ls [oa]).2 0).map (BitVec.ofNat 64)
def released (s : State) (iss : Issue) (ls : List Nat) (oa : Opd) : State :=
  let t := (readAllOpds s iss.u false ls [oa]).1
  release t (whoOf t iss.u 0) (modeScope iss.u.regs.mode)

/-- A ray's micro-instruction may execute: cur names a running ray of an allowed kind of program, which neither must stop at this boundary nor has gone
256 micro-instructions without one (R348, R350). r is the ray with what a boundary empties already emptied. -/
structure MicroRuns (s : State) (boundary : Bool) (ps : Programs) (b : Batch) (r : Ray) : Prop where
  ray : ∃ r0, rayCur s = some (b, r0) ∧ r = (if boundary then r0.atBoundary else r0) ∧ (boundary = false → r0.sinceBoundary < 256)
  goesOn : boundary = true → b.stopping = false ∧ b.cancelled = false
  allowed : ps.allow r.kind = true

/-- The ray after a micro-instruction, at the next micro-word or at another. -/
def ticked (boundary : Bool) (r : Ray) : Ray := { r with stalled := 0, taken := 0, sinceBoundary := if boundary then 0 else r.sinceBoundary + 1 }
def microNext (s : State) (b : Batch) (boundary : Bool) (r : Ray) : State := setRay s b.id ((ticked boundary r).setUpc (r.upc + 1))
def microJump (s : State) (b : Batch) (r : Ray) (t : Nat) : State := setRay s b.id ((ticked false r).setUpc t)

end Sys2Proof.Spec
end

