-- ==== Sys2Proof/WellFormed.lean ====
section
/-! DEFINITION. Which instructions name parts that exist (R8, R9, R10, R52, R241). Operand fields need no check: every field value is an encoding. -/

namespace Sys2Proof

/-- A die number (R9). -/
def dieOk (d : Nat) : Bool := decide (d < 4)

/-- A die-wide core number (R9). -/
def coreOk (c : Nat) : Bool := decide (c < 240)

/-- A core, or a supervisor core as 240 to 243 (R154, R427). -/
def anyCoreOk (c : Nat) : Bool := decide (c < 244)

def quadOk (q : Nat) : Bool := decide (q < 60)

/-- A unit's place: a wave slot, a swarm thread, an MCC thread of core-within-quad 0 (R52), or a supervisor thread (R427). -/
def Place.ok (p : Place) : Bool :=
  dieOk p.die &&
    (if p.core < 240 then decide (p.unit < 0xC0) || (decide (p.unit < 0xC4) && decide (p.core % 4 = 0))
     else decide (p.core < 244) && decide (p.unit < 4))

/-- A request's address lies in the 53-bit physical space and its data is as long as it says (R170, R295). -/
def MemReq.ok (r : MemReq) : Bool :=
  decide (r.pa + r.n ≤ 2 ^ 53) && (match r.wr with | none => true | some bs => decide (bs.length = r.n))

/-- A context slot, launch queue priority (R262, R265). -/
def slotOk (s : Nat) : Bool := decide (s < 65536)
def prioOk (p : Nat) : Bool := decide (p < 8)

/-- The well-formed instructions. -/
def WellFormed (i : Instr) : Bool :=
  match i with
  | .evPowerOn b => (match b.failStep with | none => true | some n => decide (n < 8)) && decide (b.pkgNo.toNat < 511)
  | .evHostRequest r => r.ok
  | .evOlunRequest p r => decide (p < 16) && r.ok
  | .evFlitFailure p => decide (p < 16)
  | .evBirspArrival l _ => decide (l < 2 ^ 46)
  | .evTimeCorrection d _ => dieOk d
  | .evCoreGating d c => dieOk d && coreOk c
  | .evCoreWake d c => dieOk d && coreOk c
  | .evSoftError e => dieOk e.die && (match e.met with | .unit p g => p.ok && decide (g < 24) | .l1 c _ => coreOk c | _ => true)
  | .evMboxPush d q n _ => dieOk d && quadOk q && decide (n < 8)
  | .evLqBell d _ => dieOk d
  | .evLqErrRead d => dieOk d
  | .evCtxPre d _ => dieOk d
  | .evReplay d c _ => dieOk d && coreOk c
  | .evResume d c _ => dieOk d && coreOk c
  | .evRedirect d c _ => dieOk d && coreOk c
  | .evReturn d c _ => dieOk d && coreOk c
  | .evReleaseWaiter d c _ => dieOk d && coreOk c
  | .evKill d c _ => dieOk d && coreOk c
  | .evDiscardTask d c _ => dieOk d && coreOk c
  | .evReplayCommand d c _ => dieOk d && coreOk c
  | .evCancelCommand d c _ => dieOk d && coreOk c
  | .evChanOwner d q _ => dieOk d && quadOk q
  | .evLdrCfg d q n _ => dieOk d && quadOk q && decide (n < 16)
  | .evRdcCfg d _ => dieOk d
  | .evWaiterCfg d _ => dieOk d
  | .evCtrDataRead d c => dieOk d && coreOk c
  | .evCtrDataWrite d c _ => dieOk d && coreOk c
  | .evDlyDataWrite d c _ => dieOk d && coreOk c
  | .evMonCfgWrite d _ => dieOk d
  | .evPortFrz d _ => dieOk d
  | .evNgateWrite d _ => dieOk d
  | .evStopRequest d c => dieOk d && coreOk c
  | .evStopRelease d c => dieOk d && coreOk c
  | .evCycLo d c => dieOk d && coreOk c
  | .evMsgDrop d => dieOk d
  | .evSeCorr d => dieOk d
  | .evSeUnc d => dieOk d
  | .evTrcLost d => dieOk d
  | .evTrcHead d => dieOk d
  | .evDwDataRead d c => dieOk d && coreOk c
  | .evDwDataWrite d c _ => dieOk d && coreOk c
  | .evSystemRegisterWrite d c n _ => dieOk d && coreOk c && decide (0x40 ≤ n) && decide (n < 256)
  | .evLaunchQueueTake d s p => dieOk d && slotOk s && prioOk p
  | .evDependenceNotification d _ _ => dieOk d
  | .evConditionRead d s p => dieOk d && slotOk s && prioOk p
  | .evPlacement d => dieOk d
  | .evSliceExpiry d s => dieOk d && slotOk s
  | .evPreemptionComplete d => dieOk d
  | .evCapture s => slotOk s
  | .evBinLaunch d q b => dieOk d && quadOk q && decide (b < 32)
  | .evBinTimerExpiry d q b => dieOk d && quadOk q && decide (b < 32)
  | .evTaskDispatch d c _ => dieOk d && anyCoreOk c
  | .evGangPromotion p g => p.ok && decide (g < 24)
  | .evRegangRejoin p => p.ok
  | .evHaltTakesEffect p => p.ok
  | .evFillArrival d => dieOk d
  | .evWriteThroughArrival d => dieOk d
  | .evMessageDelivery d c => dieOk d && anyCoreOk c
  | .evInputBufferDelivery d c => dieOk d && anyCoreOk c
  | .evFaultPacketDelivery d => dieOk d
  | .evSleepTimeout p g => p.ok && decide (g < 24)
  | .evRiserGrant d => dieOk d
  | .evMxwlCompletion d q => dieOk d && quadOk q
  | .evMxstRow p => p.ok
  | .evMxrdRow p => p.ok
  | .evComparatorFire p g n => p.ok && decide (g < 24) && decide (n < 8)
  | .evSampleRecord d c => dieOk d && coreOk c
  | .evPreciseStopReached d c => dieOk d && coreOk c
  | .evMonitorLevelSample d m => dieOk d && decide (m < 64)
  | .evSilentPackage p => decide (p < 511)
  | .evWriteThroughAcknowledgement d => dieOk d
  | .nop => true
  | .bra _ => true
  | .call _ => true
  | .brt _ _ => true
  | .brf _ _ => true
  | .bri _ => true
  | .calli _ _ => true
  | .ret _ => true
  | .joinat _ => true
  | .regang => true
  | .loop _ _ => true
  | .lbrk => true
  | .exit => true
  | .land => true
  | .yield => true
  | .mode _ => true
  | .modet _ => true
  | .modeg _ _ _ => true
  | .modes _ => true
  | .moder _ => true
  | .modew _ => true
  | .trap _ => true
  | .bkpt _ => true
  | .migr _ => true
  | .spawn _ _ => true
  | .fork _ => true
  | .callat _ _ _ => true
  | .mfs _ _ => true
  | .mts _ _ => true
  | .sleep _ => true
  | .halt _ _ => true
  | .add _ _ _ => true
  | .sub _ _ _ => true
  | .mul _ _ _ => true
  | .mad _ _ _ => true
  | .min _ _ _ => true
  | .max _ _ _ => true
  | .neg _ _ => true
  | .abs _ _ => true
  | .addi _ _ _ => true
  | .muli _ _ _ => true
  | .clamp _ _ _ => true
  | .mulh _ _ _ => true
  | .div _ _ _ => true
  | .rem _ _ _ => true
  | .sad _ _ _ => true
  | .addc _ _ _ => true
  | .ceq _ _ _ => true
  | .cne _ _ _ => true
  | .clt _ _ _ => true
  | .cle _ _ _ => true
  | .cgt _ _ _ => true
  | .cge _ _ _ => true
  | .cun _ _ _ => true
  | .ceqi _ _ _ => true
  | .clti _ _ _ => true
  | .pand _ _ _ => true
  | .por _ _ _ => true
  | .pxor _ _ _ => true
  | .pnot _ _ => true
  | .class _ _ _ => true
  | .tstb _ _ _ => true
  | .pmov _ _ _ => true
  | .and _ _ _ => true
  | .or _ _ _ => true
  | .xor _ _ _ => true
  | .not _ _ => true
  | .andn _ _ _ => true
  | .shl _ _ _ => true
  | .shr _ _ _ => true
  | .sar _ _ _ => true
  | .rol _ _ _ => true
  | .shli _ _ _ => true
  | .shri _ _ _ => true
  | .sari _ _ _ => true
  | .popc _ _ => true
  | .clz _ _ => true
  | .brev _ _ => true
  | .bfe _ _ _ => true
  | .mov _ _ => true
  | .movl _ _ => true
  | .movh _ _ => true
  | .movs _ _ => true
  | .bfi _ _ _ => true
  | .prmt _ _ _ => true
  | .pack _ _ _ => true
  | .adda _ _ _ => true
  | .addai _ _ _ => true
  | .lane _ _ _ => true
  | .bcast _ _ => true
  | .suba _ _ _ => true
  | .clta _ _ _ => true
  | .ceqa _ _ _ => true
  | .cvt _ _ _ => true
  | .cvtr _ _ _ => true
  | .rcp _ _ => true
  | .rsq _ _ => true
  | .sqrt _ _ => true
  | .exp2 _ _ => true
  | .log2 _ _ => true
  | .sinp _ _ => true
  | .cosp _ _ => true
  | .tanh _ _ => true
  | .flr _ _ => true
  | .ceil _ _ => true
  | .trnc _ _ => true
  | .rint _ _ => true
  | .frac _ _ => true
  | .tli _ _ _ => true
  | .dot _ _ _ => true
  | .scale _ _ _ => true
  | .cpsgn _ _ _ => true
  | .qdec _ _ _ => true
  | .qenc _ _ _ => true
  | .f4dec _ _ _ => true
  | .f4enc _ _ _ => true
  | .mxfb _ _ => true
  | .mxwl _ _ _ => true
  | .mxsw => true
  | .mxst _ _ _ => true
  | .mxrd _ _ _ => true
  | .mxrel _ => true
  | .mxz _ _ => true
  | .mxq _ _ => true
  | .shfl _ _ _ => true
  | .shflx _ _ _ => true
  | .shflu _ _ _ => true
  | .shfld _ _ _ => true
  | .vote _ _ => true
  | .vany _ _ => true
  | .vall _ _ => true
  | .rdx _ _ _ => true
  | .scan _ _ _ => true
  | .topk _ _ _ => true
  | .matchLanes _ _ _ => true
  | .elect _ _ => true
  | .ldb _ _ _ => true
  | .ldh _ _ _ => true
  | .ldw _ _ _ => true
  | .ldd _ _ _ => true
  | .ldq _ _ _ => true
  | .ldo _ _ _ => true
  | .stb _ _ _ => true
  | .sth _ _ _ => true
  | .stw _ _ _ => true
  | .std _ _ _ => true
  | .stq _ _ _ => true
  | .sto _ _ _ => true
  | .lda _ _ _ => true
  | .stl _ _ _ => true
  | .stmc _ _ _ => true
  | .pref _ _ => true
  | .ldwi _ _ _ => true
  | .lddi _ _ _ => true
  | .ldqi _ _ _ => true
  | .stwi _ _ _ => true
  | .stdi _ _ _ => true
  | .stqi _ _ _ => true
  | .ldbi _ _ _ => true
  | .stbi _ _ _ => true
  | .aadd _ _ _ _ => true
  | .amin _ _ _ _ => true
  | .amax _ _ _ _ => true
  | .aand _ _ _ _ => true
  | .aor _ _ _ _ => true
  | .axor _ _ _ _ => true
  | .axch _ _ _ _ => true
  | .acas _ _ _ _ => true
  | .wait _ _ _ => true
  | .wake _ _ _ => true
  | .binit _ _ => true
  | .barv _ _ _ => true
  | .bwait _ _ _ => true
  | .binv _ => true
  | .txb _ => true
  | .txe _ _ => true
  | .txa _ => true
  | .txq _ => true
  | .ldn _ _ => true
  | .stn _ _ => true
  | .acpy _ _ => true
  | .aten _ _ => true
  | .agth _ _ => true
  | .agtp _ _ => true
  | .asct _ _ => true
  | .acol _ _ => true
  | .pub _ _ => true
  | .hget _ _ => true
  | .trace _ _ => true
  | .rast _ _ => true
  | .trsm _ _ => true
  | .acan _ => true
  | .blnd _ _ _ => true
  | .qbind _ _ => true
  | .qtry _ _ _ => true
  | .qcnt _ _ => true
  | .send _ _ _ => true
  | .qput _ _ _ => true
  | .rqp _ _ => true
  | .rqg _ _ => true
  | .rsvp _ _ _ => true
  | .rsvg _ => true
  | .rsvd _ _ => true
  | .shoot _ _ _ => true
  | .bias _ _ _ => true
  | .flush _ _ => true
  | .mgrt _ _ _ => true
  | .uNfet => true
  | .uBoxt => true
  | .uTrit => true
  | .uEdgt => true
  | .uSplt => true
  | .uDepz => true
  | .uOrdr => true
  | .uPush => true
  | .uPop => true
  | .uNext => true
  | .uLeaf _ => true
  | .uInst => true
  | .uIpop => true
  | .uHit => true
  | .uTmax => true
  | .uAnyh => true
  | .uEmit => true
  | .uLdr _ _ _ => true
  | .uFlg _ => true
  | .uBrc _ _ _ => true
  | .uJmp _ => true
  | .uYld => true
  | .uStat _ _ => true
  | .uDone => true
  | .evReportQuery => true
  | .evAttestationRequest _ => true
  | .evCxlLinkDown => true
  | .evPowerMeasurement _ => true
  | .evSfstatClr _ => true
  | .evStimeLo _ => true
  | .evSretLo _ => true
  | .evGridCompletion _ => true
  | .evCommandBlock _ => true
  | .evTokenWrite _ => true
  | .evStackSpill _ => true
  | .evBatchCompletion _ => true
  | .evUnassignedOpcode _ => true
  | .evReservedMicroOperation _ => true

end Sys2Proof
end

