-- ==== Sys2Proof/Certificates/Slice0/Obligations.lean ====
section
/-! DEFINITION. The statements about the model that the provers settle. -/

open Sys2Proof Sys2Proof.Machine Sys2Proof.Spec

/-! ## Encoding -/

/-- R56 to R60, R348, R351: every instruction that has a word is what the decoder reads from that word, with every operand. -/
def Obligations.EncodedInstructionsDecode : Prop :=
  ∀ i : Instr, isEvent i = false → WellFormed i = true →
    ∃ w, encode i = some w ∧ (if isMicro i then decodeMicro w = some i else decode w = some i)

/-- R57 to R60: a word that decodes is the word of that instruction, so no bit of it is ignored, and it is no micro-instruction's. -/
def Obligations.DecodedWordsAreEncodings : Prop :=
  (∀ w i, decode w = some i → encode i = some w ∧ WellFormed i = true ∧ isMicro i = false ∧ isEvent i = false) ∧
  (∀ w i, decodeMicro w = some i → encode i = some w ∧ WellFormed i = true ∧ isMicro i = true)

/-- R60: the words of the 25 unassigned opcodes are no instruction, and a gang that fetches one takes FLT_ILLEGAL on every engine. -/
def Obligations.UnassignedOpcodesRaiseIllegal : Prop :=
  ∀ w : Word, (w.extractLsb' 24 8).toNat ∈ [0x00, 0x5E, 0x5F, 0x77, 0x8C, 0x8D, 0x8E, 0x8F, 0xA8, 0xA9, 0xAA, 0xAB, 0xAC, 0xAD, 0xAE, 0xAF, 0xDC, 0xDD, 0xDE, 0xDF,
      0xED, 0xEE, 0xEF, 0xFE, 0xFF] →
    decode w = none ∧ ∀ s iss, issueOf s true = some iss → runWord s w = .next (takeFault s iss (fault .illegal) iss.lanes)

/-- Words that the spec writes out: the examples of R58, R65, R139, R143, R145 to R147, R152, R155 and R157. -/
def Obligations.WordsOfTheSpecDecode : Prop :=
  decode 0x01000000 = some .nop ∧ decode 0x0E000000 = some .land ∧ decode 0x0F000000 = some .yield ∧
  decode 0x02FFFFFD = some (.bra (-3)) ∧ decode 0x09000006 = some (.joinat 6) ∧ decode 0x04D10003 = some (.brt 0xD1 3) ∧
  decode 0x28020201 = some (.addi 2 2 1) ∧ decode 0x49030201 = some (.shli 3 2 1) ∧ decode 0x0BE30001 = some (.loop 0xE3 1) ∧
  decode 0x1200001B = some (.modeg 1 1 3) ∧ decode 0x15008500 = some (.modew 0x85) ∧ decode 0x19088000 = some (.spawn 8 0x80) ∧
  decode 0x1B048082 = some (.callat 4 0x80 0x82) ∧ decode 0x1C030003 = some (.mfs 3 3) ∧ decode 0x1D008445 = some (.mts 0x84 0x45)

/-! ## The whole machine -/

/-- What no step breaks: memory keeps its canonical form, addresses rising and no entry 0, so that equal memories are equal data (R163's zeros are the
bytes that no entry lists). -/
def Obligations.MemoryStaysCanonical : Prop :=
  ∀ s t, Memory.wf s.mem = true → step s = .next t → Memory.wf t.mem = true

/-- R54, R163, R242, R3, R268, R287, R297, R400: after reset no unit exists, every byte of every memory reads 0 and memory is canonical (that host memory and other
packages' memory read 0 is the model's choice, log entry 7; that device time starts at 0, log entry 8), no cache line and no translation is
valid, every queue, buffer, bin and Launder is empty and every quad's planes and slots are free, no work is in flight, and the counters and the per-die registers hold
their Reset values. -/
def Obligations.ResetState : Prop :=
  Memory.wf State.reset.mem = true ∧ (∀ loc, State.byte State.reset loc = 0) ∧ (∀ p, State.reset.unit? p = none) ∧
  (∀ die, die < 4 → (State.reset.die die).l2 = [] ∧ (State.reset.die die).wts = [] ∧ (State.reset.die die).tlbs.flatten = [] ∧ (State.reset.die die).fills = [] ∧
    (State.reset.die die).rdc = [] ∧ (State.reset.die die).walks = [] ∧ (State.reset.die die).faultBuf = [] ∧ (State.reset.die die).time = 0) ∧
  (∀ die core, (State.reset.core die core).l1 = [] ∧ (State.reset.core die core).inbuf = [] ∧ (State.reset.core die core).outbuf = [] ∧ (State.reset.core die core).tasks = [] ∧ ∀ c ∈ (State.reset.core die core).chans, c.words = []) ∧
  (∀ die quad, let q := State.reset.quad die quad
    (∀ b ∈ q.bins, b.recs = []) ∧ (∀ l ∈ q.launders, l.entries = []) ∧ (∀ r ∈ q.resv, r = none) ∧ (∀ t ∈ q.slots, t = none) ∧
    q.active = Plane.invalid ∧ q.shadow = Plane.invalid ∧ q.jobs = []) ∧
  (readReg State.reset 0 240 0xC0).2 = 0x10101010 ∧ (readReg State.reset 0 240 0xC1).2 = 0xE4 ∧
  (∀ n ∈ [0xC6, 0xC7, 0xC8, 0xCC, 0xCD, 0xD5, 0xD7, 0xD8, 0xD9, 0xDE], (readReg State.reset 0 240 n).2 = 0) ∧
  State.reset.cmds = [] ∧ State.reset.batches = [] ∧ State.reset.grids = [] ∧ State.reset.flips = []

/-! ## The step -/

/-- R65, R280, R417: when the word at the pc of a gang decodes to i, and no other access of the gang's waits for a flip, the gang's step is exec of i in the
state that the fetch leaves; a 32-lane unit, a swarm core or a thread that issues it notes the issue and does no more in its step. What a step runs is
the head of the schedule, unless a turn that may not be passed over goes first (the schedule is the model's own, log entry 1). -/
def Obligations.StepRunsTheDecodedInstruction : Prop :=
  (∀ s s1 p g iss w i, let t := pageLeave (atGang s p g) (.dev p g)
      pageBehind s (.dev p g) = false → issueAt t p g true = some iss → comparatorAt t iss = none →
      fetchWord t iss.u iss.pc = .ok (s1, w) → decode w = some i → runGang s p g = exec i s1) ∧
  (∀ s a rest, turnBefore s = none → s.agenda = a :: rest → nextAction s = (a, { s with cur := .none, agenda := rest })) ∧
  (∀ s s1 d c x p g rest t, nextAction s = (.lane32 d c x, s1) → coreIssued s1 d c x = false → lanePicks s1 d c x = (p, g) :: rest →
      runGang s1 p g = .next t → stillBlocked t p g = false →
      step s = .next (noteCore (forgetYields (noteIssue t p g) d c x p g) d c x)) ∧
  (∀ s s1 d c x p g rest t, nextAction s = (.swarmCore d c x, s1) → coreIssued s1 d c (4 + x) = false → swarmPicks s1 d c x = (p, g) :: rest →
      runGang s1 p g = .next t → stillBlocked t p g = false → step s = .next (servedSwarm d c x (noteIssue t p g) p g)) ∧
  (∀ s s1 p g u t, nextAction s = (.gang p g, s1) → s1.unit? p = some u → u.engine = .mcc ∨ u.engine = .sup → mayIssue s1 u g = true →
      runGang s1 p g = .next t → stillBlocked t p g = false → step s = .next (noteIssue t p g))

/-- A step whose schedule names an event, a micro-instruction, an access of the host's or a sample runs exactly that (a ray whose step leaves it as it was while a
page flips also takes its place in the page's queue, log entry 47); a step without any of these reviews the stall reasons and lets a main clock pass, which changes no
byte of memory where nothing of the package is under way (the schedule is the model's own, log entry 1). -/
def Obligations.StepRunsEventsAndMicroInstructions : Prop :=
  (∀ s e a, s.agenda = .event e :: a → step s = exec e { s with cur := .none, agenda := a }) ∧
  (∀ s b l a w i t, s.agenda = .ray b l :: a → s.flips = [] → s.pkg.heldReqs = [] → rayNext { s with cur := .none, agenda := a } b l = .word w →
      decodeMicro w = some i → exec i { s with cur := .ray b l, agenda := a } = .next t → t.flips = [] → step s = .next t) ∧
  (∀ s b l a w i, s.agenda = .ray b l :: a → pageBehind { s with cur := .none, agenda := a } (.ray b l) = false →
      let s1 := pageLeave { s with cur := .none, agenda := a } (.ray b l)
      rayNext s1 b l = .word w → decodeMicro w = some i → ∀ t, exec i { s1 with cur := .ray b l } = .next t → ∃ r, step s = .next r ∧ (r = t ∨ r = pageNote t (.ray b l))) ∧
  (∀ s off wr a, s.agenda = .bar off wr :: a → step s = .next (hostBar off wr { s with cur := .none, agenda := a })) ∧
  (∀ s off a, s.agenda = .config off :: a → step s = .next (configRead off { s with cur := .none, agenda := a })) ∧
  (∀ s s1 d c, nextAction s = (.sample d c, s1) → step s = exec (.evSampleRecord d c) s1) ∧
  (∀ s s1 d m, nextAction s = (.level d m, s1) → step s = exec (.evMonitorLevelSample d m) s1) ∧
  (∀ s, (nextAction s).1 = .tick → step s = .next (tick (review (nextAction s).2)) ∧
      (QuietPackage s → (tick (review (nextAction s).2)).pkg.clocks = s.pkg.clocks + 1 ∧ (tick (review (nextAction s).2)).mem = s.mem))

/-! ## Faults and completion -/

/-- R63: the first check that fails decides the fault; the instruction takes it and has no other effect. -/
def Obligations.FailedChecksFault : Prop :=
  ∀ s i d iss c, descOf s i = some d → issueOf s d.guarded = some iss → NoTransactions s → mxHeld s = none → checks iss.u d = some c →
    exec i s = .next (takeFault s iss (fault c) iss.lanes)

/-- R6, R45, R260, R387: taking a fault outside transactions parks, freezes or stops the unit with its cause and its unfinished lanes, and changes no
register, no byte of memory and no other unit (where a supervisor thread sleeps, the packet also wakes it). -/
def Obligations.TakingAFault : Prop :=
  ∀ s iss f ls, s.unit? iss.p = some iss.u → iss.u.tx = [] → (∀ u ∈ s.units, 240 ≤ u.place.core → u.book.sleeps = []) → ∃ u, (takeFault s iss f ls).unit? iss.p = some u ∧
    u.ctl.run = (if f.frozen then .frozen else f.cause.runState) ∧ u.ctl.cause = BitVec.ofNat 8 f.cause.code ∧ u.ctl.unfinished = maskOf ls ∧ u.ctl.fpc = iss.pc ∧
    u.regs = iss.u.regs ∧ u.slices = iss.u.slices ∧ u.ident = iss.u.ident ∧ u.book.retired = iss.u.book.retired ∧
    (takeFault s iss f ls).mem = s.mem ∧ (∀ p, p ≠ iss.p → (takeFault s iss f ls).unit? p = s.unit? p)

/-- R49, R63, R156: TRAP and BKPT stop the unit with their cause and immediate when a lane is active, and otherwise have no effect; in user mode MTS, HALT, SHOOT,
FLUSH, BIAS, MGRT and MFS of a number from 0x40 up take FLT_PRIV. -/
def Obligations.TrapsAndPrivilegeFaults : Prop :=
  (∀ s n iss, issueOf s true = some iss →
     exec (.trap n) s = .next (if iss.lanes = [] then complete s iss false else takeFault s iss { fault .trap with imm := n } iss.lanes) ∧
     exec (.bkpt n) s = .next (if iss.lanes = [] then complete s iss false else takeFault s iss { fault .bkpt with imm := n } iss.lanes)) ∧
  (∀ s iss d a b n, issueOf s true = some iss → iss.u.isSup = false →
     ∀ i ∈ [Instr.mts a n, .halt a b, .shoot d a b, .flush d a, .bias d a b, .mgrt d a b] ++ (if 0x40 ≤ n.toNat then [.mfs d n] else []),
       exec i s = .next (takeFault s iss (fault .priv) iss.lanes))

/-- R18, R43, R146: a gang that completes an instruction without transferring control counts it as retired; nothing but its own unit changes, and of that
neither registers nor transactions nor tickets; a live slice of the gang without stack entries and with an active lane goes to pc + 4. -/
def Obligations.CompletingAnInstruction : Prop :=
  ∀ s iss u moved, s.unit? iss.p = some u → ∃ u', (complete s iss moved).unit? iss.p = some u' ∧
    u'.book.retired = u.book.retired + 1 ∧ u'.regs = u.regs ∧ u'.ident = u.ident ∧ u'.tickets = u.tickets ∧ u'.tx = u.tx ∧ u'.ctl.run = u.ctl.run ∧
    (∀ i, (u'.slice i).live = (u.slice i).live) ∧
    (∀ i ∈ iss.slices, iss.slices.Nodup → (u.slice i).live ≠ 0 → (u.slice i).active ≠ 0 → (u.slice i).rstack = [] → (u.slice i).lstack = [] → moved = false →
      (u'.slice i).pc = (u.slice i).pc + 4 ∧ (u'.slice i).active = (u.slice i).active) ∧
    (∀ p, p ≠ iss.p → (complete s iss moved).unit? p = s.unit? p) ∧ complete s iss moved = { s with units := (complete s iss moved).units }

/-- R64: when the guard leaves no lane of a gang active, the instruction completes in that gang with no lane effect. -/
def Obligations.GangsWithoutActiveLanesPass : Prop :=
  ∀ s i d iss, descOf s i = some d → isStrand i = false → d.always = false → Runs s d iss → iss.lanes = [] → NoTransactions s → mxHeld s = none →
    exec i s = .next (if allUniform iss.u d.opds = true ∧ d.perGang = false then complete (countPass s iss) iss d.moves else complete s iss false)

/-! ## Instructions that compute one value in each lane -/

/-- R7, R31, R32, R36, R41, R75 to R94, R106, R115 to R129, R244 to R246: an instruction of this kind whose operands pass the checks completes; only its destination in
the active lanes and, by R41, fstat change; with queue registers among its operands, where each of them can move its words. A uniform instruction is executed once for
its strand, by the first gang with an active lane, on the strand's uniform unit (R281); the strand's other gangs, and a gang without an active lane, pass it with no
effect. One that reads the token of a completed command first makes that command's acquire (R193). -/
def Obligations.LaneInstructionsComplete : Prop :=
  (∀ s i f iss, laneForm s i = some f → RunsPlain s f.desc iss →
     ∃ g, exec i s = .next (complete (withRegs s iss.p g) iss false) ∧ RegsKept f.out iss.lanes iss.u.regs (g iss.u.regs)) ∧
  (∀ s i f iss, laneForm s i = some f → RunsQueued s f.desc iss → s.unit? iss.p = some iss.u →
     ∃ t u, exec i s = .next (complete t iss false) ∧ t.unit? iss.p = some u ∧ RegsKept f.out iss.lanes iss.u.regs u.regs ∧ t.mem = s.mem) ∧
  (∀ s i f iss, laneForm s i = some f → RunsUniform s f.desc iss →
     (iss.shared.isSome = true ∨ iss.lanes = [] → exec i s = .next (complete (countPass s iss) iss false)) ∧
     (iss.shared = none → iss.lanes ≠ [] → ∃ g, exec i s = .next (ends iss f.desc (ranOnce (withRegs s iss.p g) iss 0)) ∧
       RegsKept f.out (iss.uniLane f.desc) iss.u.regs (g iss.u.regs))) ∧
  (∀ s i f iss, laneForm s i = some f → MayRun s f.desc iss → dueTokens iss f.desc ≠ [] → NoQueues f.desc → allUniform iss.u f.desc.opds = false → iss.lanes ≠ [] →
     ∃ g, exec i s = .next (complete (withRegs (meetTokens s iss f.desc) iss.p g) iss false) ∧ RegsKept f.out iss.lanes iss.u.regs (g iss.u.regs))

/-- R75 to R93, R106, R115 to R129: the result in each lane and the flags. Under every type the elements of a register are computed each by itself: an integer through Fit, a
float as one rounding of the exact value with the flags that it raises; fstat gains the flags of all lanes (R41). Under the scalar integer types without sat the result is
also given as arithmetic on words of the type's width. The value that a special function leaves undecided is free (log entry 11). -/
def Obligations.ScalarIntegerResults : Prop :=
  (∀ s i f iss op, laneForm s i = some f → RunsPlain s f.desc iss → modeType iss.u.regs.mode < 4 → modeSat iss.u.regs.mode = false →
    intOp (if modeType iss.u.regs.mode < 2 then 32 else 64) (modeType iss.u.regs.mode % 2 = 0) i = some op →
    exec i s = .next (complete (withRegs s iss.p (putEach iss f.out (fun l =>
      let a := f.args s iss l
      op (BitVec.ofNat _ (a.getD 0 0)) (BitVec.ofNat _ (a.getD 1 0)) (BitVec.ofNat _ (a.getD 2 0))))) iss false)) ∧
  (∀ s i f iss s0 j fin val, laneForm s i = some f → Acts s f.desc iss s0 j fin → laneResult s (modeType iss.u.regs.mode) (fmodeOf iss.u.regs.mode) i = some val →
    let r := readAllOpds s0 iss.u (f.types.isSome && signedTy (modeType iss.u.regs.mode)) j.lanes f.desc.opds
    let vs := (List.range j.lanes.length).map (fun k => val (r.2.map (fun c => c.getD k 0)))
    exec i s = .next (fin (writeDst (withRegs r.1 iss.p (fun g => { g with fstat := g.fstat ||| vs.foldl (fun fl v => fl ||| v.2) 0 })) iss.u f.out j.lanes (vs.map (·.1)))))

/-- R94: ADDA, ADDAI, SUBA, CLTA and CEQA, with their opcodes 0x57, 0x58, 0x5B, 0x5C and 0x5D: the result in each active lane, modulo 2^64, under every type and sat, whatever
the address; they complete. -/
def Obligations.AddressResults : Prop :=
  (∀ s i f iss s0 j fin op, laneForm s i = some f → Acts s f.desc iss s0 j fin → addrResult i = some op →
     let r := readAllOpds s0 iss.u false j.lanes f.desc.opds
     exec i s = .next (fin (writeDst r.1 iss.u f.out j.lanes ((List.range j.lanes.length).map (fun k =>
       op (BitVec.ofNat 64 ((col r.2 0).getD k 0)) (BitVec.ofNat 64 ((col r.2 1).getD k 0))))))) ∧
  (∀ d a b : BitVec 8, decode (0x57#8 ++ d ++ a ++ b) = some (.adda d a b) ∧ decode (0x58#8 ++ d ++ a ++ b) = some (.addai d a b) ∧
     decode (0x5B#8 ++ d ++ a ++ b) = some (.suba d a b) ∧ decode (0x5C#8 ++ d ++ a ++ b) = some (.clta d a b) ∧ decode (0x5D#8 ++ d ++ a ++ b) = some (.ceqa d a b))

/-- R75, R76, R107, R110, R111, R114: Fit clamps to the range of the type under sat and keeps the value modulo 2^w otherwise, for every integer type; a finite value of a
format is exact in it, so every rounding mode returns its own bits and raises no flag; ADD, SUB, MUL and MAD of a NaN give the format's canonical NaN and raise no flag. What
is rounded of a sum of finite values is the exact sum; each element of a register's result is that of the sources' elements at its place. -/
def Obligations.NumberFormats : Prop :=
  (∀ ty ∈ intTypes, ∀ x : Int,
     elemInt ty (fit ty true x) = max (typeMin ty) (min x (typeMax ty)) ∧
     (∃ k : Int, elemInt ty (fit ty false x) = x + k * 2 ^ elemBits ty) ∧ typeMin ty ≤ elemInt ty (fit ty false x) ∧ elemInt ty (fit ty false x) ≤ typeMax ty) ∧
  (∀ f ∈ [fp32, fp16, bf16, e4m3, e5m2, e2m1], ∀ rm x, x < 2 ^ f.w → x % 2 ^ (f.w - 1) ≤ f.maxCode → f.round rm false false false (f.decode x) = { v := x, fl := 0 }) ∧
  (∀ f ∈ [fp32, fp16, bf16], ∀ m a b c, (f.decodeFtz m.ftz a).isNan = true →
     f.add m a b = { v := f.nan, fl := 0 } ∧ f.add m b a = { v := f.nan, fl := 0 } ∧ f.sub m a b = { v := f.nan, fl := 0 } ∧ f.sub m b a = { v := f.nan, fl := 0 } ∧
     f.mul m a b = { v := f.nan, fl := 0 } ∧ f.mul m b a = { v := f.nan, fl := 0 } ∧ f.mad m a b c = { v := f.nan, fl := 0 } ∧ f.mad m b a c = { v := f.nan, fl := 0 }) ∧
  (∀ rm lo xs, lo ≤ 1024 → (∀ x ∈ xs, ∃ z n e, x = XR.fin z n e ∧ lo ≤ e) →
     ∃ z n e, XR.sum rm xs = (.fin z n e, false) ∧ (n = 0 ∨ lo ≤ e) ∧ unitsOf lo (.fin z n e) = (xs.map (unitsOf lo)).foldr (· + ·) 0) ∧
  (∀ ty f vs k, k < elemCount ty → let w := elemBits ty
     (perElem ty f vs).1 / 2 ^ (w * k) % 2 ^ w = (f (vs.map (fun v => v / 2 ^ (w * k) % 2 ^ w))).1 % 2 ^ w)

/-- R28, R33, R36 to R38: what is written to an operand in a lane is read back there, a predicate as 0 or 1 by R85; a constant discards what is written. -/
def Obligations.WritingAnOperand : Prop :=
  ∀ s u o l x sx, o.kindOk u = true → isQ o.f = false → o.sh ≠ .mask → l < 96 → u.regs.p.length = 8 →
    (isV o.f = true ∨ isK o.f = true → readOpd s { u with regs := u.regs.putOpd o.f o.sh l x } o sx l = x % 2 ^ (32 * o.sh.words)) ∧
    (isP o.f = true → readOpd s { u with regs := u.regs.putOpd o.f o.sh l x } o sx l = if x = 0 then 0 else 1) ∧
    (isConst o.f = true → u.regs.putOpd o.f o.sh l x = u.regs)

/-- R32: MOV from a channel of the core pops one word for each active lane, in increasing lane order, and the channel loses exactly those words. -/
def Obligations.QueueRegisterPopsInLaneOrder : Prop :=
  ∀ s d a iss n, isQ a = true → isQ d = false → curType s = 1 → iss.u.chanOf a = some (.core n) → RunsQueued s ((typedForm s allTypes d [tsrc s a]).desc) iss →
    s.unit? iss.p = some iss.u → n < (s.core iss.p.die iss.p.core).chans.length →
    ∃ t u, exec (.mov d a) s = .next (complete t iss false) ∧ t.unit? iss.p = some u ∧
      u.regs = iss.u.regs.putLanes d .one iss.lanes (((chanGet s iss.u (.core n)).words.take iss.lanes.length).map (·.toNat)) ∧
      (chanGet t iss.u (.core n)).words = (chanGet s iss.u (.core n)).words.drop iss.lanes.length

/-! ## Control flow -/

/-- R39, R40, R43, R140, R145 to R147: NOP, LAND and YIELD complete whatever the guard; YIELD puts the gang last for the next selection of its unit and changes nothing else. An
instruction of the mode family writes its fields of the mode register of the whole wave, whatever the guard, and stores reserved values as given; in a wave it waits until
the gangs of its strand have come to it, for 65,536 clocks at most (that wait is the model's, log entry 22). MODEW writes the low 16 bits of its operand, in a wave once for
the strand by R31; a lane-class operand in a wave takes FLT_OPERAND, and in a thread a queue register gives one word. A wave's slices that execute REGANG wait; in a thread
it only completes. -/
def Obligations.WholeGangInstructions : Prop :=
  (∀ s iss, issueOf s false = some iss →
     exec .nop s = .next (complete s iss false) ∧ exec .land s = .next (complete s iss false) ∧
     exec .yield s = .next ((complete s iss false).modUnit iss.p (fun u => u.modBook (fun b => { b with yielded := b.yielded.filter (fun g => decide (g ≠ iss.gang)) ++ [iss.gang] })))) ∧
  (∀ s i iss, (newMode i 0).isSome = true → issueOf s false = some iss →
     let t := withMode s iss (fun m => (newMode i m).getD m)
     (iss.u.isWave = false → exec i s = .next (complete t iss false)) ∧
     (iss.u.isWave = true → StrandHere s iss → exec i s = .next (complete (countPass t iss) iss false)) ∧
     (iss.u.isWave = true → ¬ StrandHere s iss → exec i s = .next (blocked (s.modUnit iss.p (fun u => u.modBook (fun b =>
       { b with modeSince := smPut b.modeSince iss.gang (modeStart s iss) }))) iss .structural iss.lanes))) ∧
  (∀ s a iss, issueOf s false = some iss →
     let d : Desc := { guarded := false, always := true, opds := [(src a .one).must .uniform] }
     (iss.u.isWave = false → isQ a = false → Runs s d iss →
       exec (.modew a) s = .next (complete (withMode s iss (fun _ => BitVec.ofNat 16 (readOpd s iss.u (src a .one) false (iss.lanes.headD 0)))) iss false)) ∧
     (iss.u.isWave = false → isQ a = true → iss.lanes ≠ [] → ∀ t v, readOnce s iss (src a .one) = .ok (t, v) →
       exec (.modew a) s = .next (complete (withMode t iss (fun _ => BitVec.ofNat 16 v)) iss false)) ∧
     (RunsUniform s d iss → iss.shared = none → iss.lanes ≠ [] → StrandHere s iss →
       exec (.modew a) s = .next (ends iss d (ranOnce (withMode s iss (fun _ => BitVec.ofNat 16 (readOpd s iss.u (src a .one) false ((iss.uniLane d).headD 0)))) iss 0))) ∧
     (RunsUniform s d iss → iss.shared.isSome = true → exec (.modew a) s = .next (complete (countPass s iss) iss false)) ∧
     (iss.u.isWave = true → isUniform a = false → exec (.modew a) s = .next (takeFault s iss (fault .operand) iss.lanes))) ∧
  (∀ s iss, issueOf s false = some iss →
     (iss.u.isWave = true → exec .regang s = .next (blocked (withSlices s iss (fun _ sl => { sl with atRegang := true })) iss .barrier iss.lanes)) ∧
     (iss.u.isWave = false → exec .regang s = .next (complete s iss false)))

/-- R58, R132, R133, R137: BRA and CALL take every active lane to PC + 4 + 4 × SExt(offset); CALL writes PC + 4 to v0:v1 in those lanes. A target with a bit
of [63:57] set takes FLT_PROT, a full stack FLT_DIVSTACK; a gang with no active lane goes on at PC + 4. -/
def Obligations.DirectBranches : Prop :=
  ∀ s off iss, let t := iss.pc + 4 + 4 * off.signExtend 64
    let ts := allTo iss.lanes t
    (RunsPlain s { moves := true } iss →
      (t.toNat < 2 ^ 57 → ¬ Overflows iss ts → exec (.bra off) s = .next (complete (branched s iss ts) iss true)) ∧
      (t.toNat < 2 ^ 57 → Overflows iss ts → exec (.bra off) s = .next (takeFault s iss (fault .divstack) iss.lanes)) ∧
      (2 ^ 57 ≤ t.toNat → exec (.bra off) s = .next (takeFault s iss (faultVa .prot t) iss.lanes))) ∧
    (RunsPlain s { moves := true, opds := [dst 0 .pair] } iss →
      (t.toNat < 2 ^ 57 → ¬ Overflows iss ts →
        exec (.call off) s = .next (complete (withRegs (branched s iss ts) iss.p (putEach iss (dst 0 .pair) (fun _ => (iss.pc + 4).toNat))) iss true)) ∧
      (t.toNat < 2 ^ 57 → Overflows iss ts → exec (.call off) s = .next (takeFault s iss (fault .divstack) iss.lanes)) ∧
      (2 ^ 57 ≤ t.toNat → exec (.call off) s = .next (takeFault s iss (faultVa .prot t) iss.lanes))) ∧
    (issueOf s true = some iss → iss.lanes = [] → exec (.bra off) s = .next (complete s iss false))

/-- R31, R85, R132, R133: BRT and BRF read their condition in each active lane and take the lanes in which it is true (false); a condition of uniform class is read once
for the strand, and its value holds for all the strand's gangs. -/
def Obligations.ConditionalBranches : Prop :=
  (∀ s d n iss, (curIsWave s && isUniform d) = false → RunsPlain s { moves := true, opds := [(src d .one).must .noQueue], perGang := true } iss →
     let t := iss.pc + 4 + 4 * n.signExtend 64
     let taken (want : Bool) := allTo (iss.lanes.filter (fun l => decide (readOpd s iss.u (src d .one) false l ≠ 0) == want)) t
     ∀ want, let i : Instr := if want then .brt d n else .brf d n
       (t.toNat < 2 ^ 57 ∨ taken want = [] → ¬ Overflows iss (taken want) → exec i s = .next (complete (branched s iss (taken want)) iss true)) ∧
       (2 ^ 57 ≤ t.toNat → taken want ≠ [] → exec i s = .next (takeFault s iss (faultVa .prot t) iss.lanes))) ∧
  (∀ s d n iss, iss.u.isWave = true → isUniform d = true →
     let ds : Desc := { moves := true, opds := [(src d .one).must .noQueue], perGang := true, always := true }
     Runs s ds iss → iss.lanes ≠ [] →
     let t := iss.pc + 4 + 4 * n.signExtend 64
     let v : DWord := BitVec.ofNat 64 (readOpd s iss.u (src d .one) false (iss.lanes.headD 0))
     t.toNat < 2 ^ 57 → ¬ Overflows iss (allTo iss.lanes t) →
     (iss.shared = none →
       exec (.brt d n) s = .next (ends iss ds (branched (ranOnce s iss v) iss (allTo (if v ≠ 0 then iss.lanes else []) t))) ∧
       exec (.brf d n) s = .next (ends iss ds (branched (ranOnce s iss v) iss (allTo (if v = 0 then iss.lanes else []) t)))) ∧
     (∀ x, iss.shared = some x →
       exec (.brt d n) s = .next (complete (branched (countPass s iss) iss (allTo (if x ≠ 0 then iss.lanes else []) t)) iss true) ∧
       exec (.brf d n) s = .next (complete (branched (countPass s iss) iss (allTo (if x = 0 then iss.lanes else []) t)) iss true)))

/-- R134: BRI, CALLI and RET take each active lane to the target in its pair, popped from a queue or read from a register, checked in every lane before any lane moves;
CALLI writes PC + 4 to its pair. R31: with uniform operands the target is read once for the strand. -/
def Obligations.IndirectBranches : Prop :=
  (∀ s d a iss, isQ a = false →
    let target (l : Nat) : DWord := BitVec.ofNat 64 (readOpd s iss.u (src a .pair) false l)
    let ts := iss.lanes.map (fun l => (l, target l))
    ((curIsWave s && isUniform a) = false → RunsPlain s { moves := true, opds := [src a .pair], perGang := true } iss →
      ∀ i ∈ [Instr.bri a, .ret a],
        ((∀ l ∈ iss.lanes, (target l).toNat % 4 = 0 ∧ (target l).toNat < 2 ^ 57) → ¬ Overflows iss ts → exec i s = .next (complete (branched s iss ts) iss true)) ∧
        ((∃ l ∈ iss.lanes, (target l).toNat % 4 ≠ 0) → ∃ l ∈ iss.lanes, exec i s = .next (takeFault s iss (faultVa .align (target l)) iss.lanes)) ∧
        ((∀ l ∈ iss.lanes, (target l).toNat % 4 = 0) → (∃ l ∈ iss.lanes, 2 ^ 57 ≤ (target l).toNat) →
          ∃ l ∈ iss.lanes, exec i s = .next (takeFault s iss (faultVa .prot (target l)) iss.lanes))) ∧
    ((curIsWave s && isUniform a && isUniform d) = false → RunsPlain s { moves := true, opds := [src a .pair, dst d .pair], perGang := true } iss →
      (∀ l ∈ iss.lanes, (target l).toNat % 4 = 0 ∧ (target l).toNat < 2 ^ 57) → ¬ Overflows iss ts →
      exec (.calli d a) s = .next (complete (withRegs (branched s iss ts) iss.p (putEach iss (dst d .pair) (fun _ => (iss.pc + 4).toNat))) iss true))) ∧
  (∀ s a iss s0 j fin, (curIsWave s && isUniform a) = false → Acts s { moves := true, opds := [src a .pair], perGang := true } iss s0 j fin →
    let r := readAllOpds s0 iss.u false iss.lanes [src a .pair]
    let ts := iss.lanes.zip ((col r.2 0).map (BitVec.ofNat 64))
    (∀ x ∈ ts, x.2.toNat % 4 = 0 ∧ x.2.toNat < 2 ^ 57) → ¬ Overflows iss ts → ∀ i ∈ [Instr.bri a, .ret a], exec i s = .next (fin (branched r.1 iss ts))) ∧
  (∀ s d a iss, iss.u.isWave = true → isUniform a = true → iss.lanes ≠ [] →
    let ds (os : List Opd) : Desc := { moves := true, opds := src a .pair :: os, perGang := true, always := true }
    let v : DWord := iss.shared.getD (BitVec.ofNat 64 (readOpd s iss.u (src a .pair) false (iss.lanes.headD 0)))
    let once : State := if iss.shared = none then ranOnce s iss v else countPass s iss
    let ts := allTo iss.lanes v
    v.toNat % 4 = 0 → v.toNat < 2 ^ 57 → ¬ Overflows iss ts →
    (Runs s (ds []) iss → ∀ i ∈ [Instr.bri a, .ret a], exec i s = .next (ends iss (ds []) (branched once iss ts))) ∧
    (isUniform d = true → Runs s (ds [dst d .pair]) iss →
      exec (.calli d a) s = .next (ends iss (ds [dst d .pair]) (if iss.shared = none then withRegs (branched once iss ts) iss.p (putEach iss (dst d .pair) (fun _ => (iss.pc + 4).toNat))
        else branched once iss ts))))

/-- R132, R134, R137: however a branch divides a slice, no lane is lost or doubled: the lanes that run and those that wait are together the lanes that ran and waited
before. The lanes with one target are one group, groups stand in the order of their lowest lanes, and the division pushes {PC + 4, N} first, then one entry for each further
group, the second on top, and runs the first. R138, R139: a resume entry that a slice acts on gives active := its mask and pc := its PC, a join entry active := live minus
waiting; arriving and running out of lanes keep each live lane at one place at most and lose none. R18, R31: a gang whose slices have different pcs parts into one gang for
each pc, named by its lowest slice; a strand with slices in several parts splits with them, and its slices in other gangs stay with the part that has its lowest slice. -/
def Obligations.DivergenceKeepsTheLanes : Prop :=
  (∀ (sl : Slice) pc ts i, (∀ x ∈ ts, sl.active.getLsbD (x.1 % 4) = true) →
    let gs := targetGroups i ts
    (sl.divide pc gs).active ||| (sl.divide pc gs).waiting = sl.active ||| sl.waiting ∧
    (sl.active &&& sl.waiting = 0 → (ts.map (·.1)).Nodup → (sl.divide pc gs).active &&& (sl.divide pc gs).waiting = 0) ∧ (sl.divide pc gs).live = sl.live) ∧
  (∀ i (ts : List (Nat × DWord)), ts.Pairwise (fun x y => x.1 < y.1) → (∀ x ∈ ts, x.1 / 4 = i) → let gs := targetGroups i ts
    (gs.map (·.1)).Nodup ∧ (∀ x ∈ ts, ∃ g ∈ gs, g.1 = x.2) ∧ (∀ g ∈ gs, ∀ b < 4, g.2.getLsbD b = true ↔ (4 * i + b, g.1) ∈ ts) ∧ gs.Pairwise (fun g h => lowBit g.2 < lowBit h.2)) ∧
  (∀ (sl : Slice) pc g gs, let n := sl.active &&& ~~~((g :: gs).foldl (fun m x => m ||| x.2) 0)
    sl.divide pc [] = { sl with pc := pc + 4 } ∧
    sl.divide pc (g :: gs) = { sl with pc := g.1, active := g.2, rstack := gs.map (fun x => { pc := x.1, mask := x.2 }) ++ (if n = 0 then [] else [{ pc := pc + 4, mask := n }]) ++ sl.rstack }) ∧
  (∀ (sl : Slice) e es, StackOk sl → sl.rstack = e :: es →
    (∀ j ∈ es, sl.active ≠ 0 → e.mask ≠ 0 → j.mask = 0 → (∀ f ∈ es.takeWhile (fun f => decide (f ≠ j)), f.mask ≠ 0) → sl.pc = j.pc → e.pc ≠ j.pc →
      sl.arrive = { sl with rstack := es, active := e.mask, pc := e.pc }) ∧
    (sl.active ≠ 0 → e.mask = 0 → sl.pc = e.pc → NoJoinAt es sl.pc → sl.arrive = { sl with rstack := es, active := sl.live &&& ~~~({ sl with rstack := es } : Slice).waiting }) ∧
    (sl.active = 0 → e.mask ≠ 0 → NoJoinAt es e.pc → sl.arrive = { sl with rstack := es, active := e.mask, pc := e.pc }) ∧
    (sl.active = 0 → e.mask = 0 → NoJoinAt es e.pc → sl.live &&& ~~~({ sl with rstack := es } : Slice).waiting ≠ 0 →
      sl.arrive = { sl with rstack := es, active := sl.live &&& ~~~({ sl with rstack := es } : Slice).waiting, pc := e.pc })) ∧
  (∀ (sl : Slice), StackOk sl → StackOk sl.arrive ∧ (KeepsLanes sl → KeepsLanes sl.arrive) ∧ sl.arrive.live = sl.live ∧ sl.arrive.lstack = sl.lstack ∧
    (sl.live ≠ 0 → sl.active ≠ 0 ∨ sl.rstack ≠ [] → sl.arrive.active ≠ 0)) ∧
  (∀ (u : Machine.Unit) g, Indexed u → let v := u.split g
    let first (is : List Nat) (i : Nat) : Option Nat := is.find? (fun j => decide ((u.slice j).pc = (u.slice i).pc))
    (∀ i ∈ u.gangSlices g, first (u.gangSlices g) i = some (v.slice i).gang) ∧
    (∀ i ∈ u.liveSlices, i ∉ u.gangSlices g → (v.slice i).gang = (u.slice i).gang) ∧
    (∀ i ∈ u.gangSlices g, ∀ j ∈ u.gangSlices g, (u.slice i).strand = (u.slice j).strand → ((v.slice i).strand = (v.slice j).strand ↔ (u.slice i).pc = (u.slice j).pc)) ∧
    (∀ i ∈ u.liveSlices, ∀ j ∈ u.liveSlices, (u.slice i).strand ≠ (u.slice j).strand → (v.slice i).strand ≠ (v.slice j).strand) ∧
    (∀ i ∈ u.liveSlices, i ∉ u.gangSlices g → ∀ j, (u.gangSlices g).find? (fun j => decide ((u.slice j).strand = (u.slice i).strand)) = some j → (v.slice i).strand = (v.slice j).strand) ∧
    (∀ i, (v.slice i).pc = (u.slice i).pc ∧ (v.slice i).active = (u.slice i).active ∧ (v.slice i).live = (u.slice i).live ∧ (v.slice i).rstack = (u.slice i).rstack) ∧ v.regs = u.regs)

/-- R44, R141, R142: LOOP with its count from a lane register opens a loop in each slice, with the count of the slice's lowest active lane; a count of 0 goes past the body;
a full loop stack takes FLT_LOOP; a count of uniform class, or popped from a queue, is read once for the strand. At the end of a body the innermost loop goes round again while its count is above
1 and is closed otherwise, then the next one out is tried; where control went elsewhere nothing changes. -/
def Obligations.LoopsOpenAndEnd : Prop :=
  (∀ s d n iss, isQ d = false →
     let ds : Desc := { guarded := false, always := true, moves := true, perGang := true, opds := [src d .one] }
     Runs s ds iss →
     let last : DWord := iss.pc + 4 + 4 * BitVec.ofNat 64 n.toNat
     let opened (t : State) (v : Word) : State := withSlices t iss (fun _ sl =>
       if v = 0 then { sl with pc := last + 4 } else { sl with pc := iss.pc + 4, lstack := { count := v, start := iss.pc + 4, last := last } :: sl.lstack })
     let room (v : Word) : Prop := ∀ k ∈ iss.slices, v = 0 ∨ (iss.u.slice k).lstack.length < 4
     (isUniform d = false →
       let c (k : Nat) : Word := BitVec.ofNat 32 (readOpd s iss.u (src d .one) false (lowestActive iss.u k))
       ((∀ k ∈ iss.slices, c k = 0 ∨ (iss.u.slice k).lstack.length < 4) →
         exec (.loop d n) s = .next (complete (withSlices s iss (fun k sl =>
           if c k = 0 then { sl with pc := last + 4 } else { sl with pc := iss.pc + 4, lstack := { count := c k, start := iss.pc + 4, last := last } :: sl.lstack })) iss true)) ∧
       ((∃ k ∈ iss.slices, c k ≠ 0 ∧ 4 ≤ (iss.u.slice k).lstack.length) → exec (.loop d n) s = .next (takeFault s iss (fault .loop) iss.lanes))) ∧
     (isUniform d = true → iss.shared = none →
       let x := readOpd s iss.u (src d .one) false (iss.lanes.headD 0)
       room (BitVec.ofNat 32 x) → exec (.loop d n) s = .next (ends iss ds (opened (ranOnce s iss (BitVec.ofNat 64 x)) (BitVec.ofNat 32 x)))) ∧
     (isUniform d = true → ∀ x : DWord, iss.shared = some x → room (x.setWidth 32) → exec (.loop d n) s = .next (complete (opened (countPass s iss) (x.setWidth 32)) iss true))) ∧
  (∀ s d n iss t x, isQ d = true → issueOf s false = some iss → iss.shared = none → readOnce s iss (src d .one) = .ok (t, x) →
     let last : DWord := iss.pc + 4 + 4 * BitVec.ofNat 64 n.toNat
     let v : Word := BitVec.ofNat 32 x
     (∀ k ∈ iss.slices, v = 0 ∨ (iss.u.slice k).lstack.length < 4) →
     exec (.loop d n) s = .next (complete (withSlices (ranOnce t iss (BitVec.ofNat 64 x)) iss (fun _ sl =>
       if v = 0 then { sl with pc := last + 4 } else { sl with pc := iss.pc + 4, lstack := { count := v, start := iss.pc + 4, last := last } :: sl.lstack })) iss true)) ∧
  (∀ (sl : Slice) a e es,
     (sl.pc ≠ a + 4 → sl.loopEnd a = sl) ∧
     (sl.lstack = e :: es → sl.pc = a + 4 → e.last ≠ a → sl.loopEnd a = sl) ∧
     (sl.lstack = e :: es → sl.pc = a + 4 → e.last = a → e.count ≠ 1 → sl.loopEnd a = { sl with pc := e.start, lstack := { e with count := e.count - 1 } :: es }) ∧
     (sl.lstack = e :: es → sl.pc = a + 4 → e.last = a → e.count = 1 → sl.loopEnd a = ({ sl with lstack := es } : Slice).loopEnd a))

/-- R143: LBRK, the word 0x0C000000, closes the innermost loop of each slice and goes past its body; an empty loop stack takes FLT_LOOP. A branch, however it divides a
slice, leaves the open loops as they are. -/
def Obligations.LbrkLeavesTheLoop : Prop :=
  decode 0x0C000000 = some .lbrk ∧ (∀ (sl : Slice) pc gs, (sl.divide pc gs).lstack = sl.lstack) ∧
  (∀ s iss, issueOf s false = some iss →
     ((∀ k ∈ iss.slices, (iss.u.slice k).lstack ≠ []) →
       exec .lbrk s = .next (complete (withSlices s iss (fun _ sl => match sl.lstack with | [] => sl | e :: es => { sl with lstack := es, pc := e.last + 4 })) iss true)) ∧
     ((∃ k ∈ iss.slices, (iss.u.slice k).lstack = []) → exec .lbrk s = .next (takeFault s iss (fault .loop) iss.lanes)))

/-- R136: JOINAT pushes a join entry with the pc that its target is (R58) in every slice of its gang, whatever the guard, also where the target has a bit of [63:57] set (the
model's reading, log entry 40); where some slice has 16 entries it takes FLT_DIVSTACK and pushes nothing; in a thread it only completes. -/
def Obligations.JoinatPushesAJoinEntry : Prop :=
  ∀ s n iss, issueOf s false = some iss →
    (iss.u.isWave = true → (∀ k ∈ iss.slices, (iss.u.slice k).rstack.length < 16) →
      exec (.joinat n) s = .next (complete (withSlices s iss (fun _ sl => { sl with rstack := { pc := iss.pc + 4 + 4 * n.signExtend 64, mask := 0 } :: sl.rstack })) iss false)) ∧
    (iss.u.isWave = true → (∃ k ∈ iss.slices, 16 ≤ (iss.u.slice k).rstack.length) → exec (.joinat n) s = .next (takeFault s iss (fault .divstack) iss.lanes)) ∧
    (iss.u.isWave = false → exec (.joinat n) s = .next (complete s iss false))

/-! ## Lanes, threads and tasks -/

/-- R144, R155, R394: EXIT releases the tickets of its active lanes and retires them from their slices; when no live lane is left the unit is gone. A thread that CALLAT
started releases at its mode's scope and sends its reply too, and waits while its core's output buffer is full (log entry 34); an EXIT also waits while its unit record
stands on a page that a flip holds (log entry 108), and where the blender cannot take a ticket it waits, or freezes for a fault of the spill area (R395, R396). -/
def Obligations.ExitRetiresTheActiveLanes : Prop :=
  ∀ s iss, let called := iss.u.ident.caller.isSome
    RunsPlain s { scope := called, reads := if called then [src 0 .quad] else [] } iss → s.unit? iss.p = some iss.u →
    let full := called && outbufFull s iss.p.die iss.p.core
    let s1 := if called then release s (whoOf s iss.u 0) (modeScope iss.u.regs.mode) else s
    let r := releaseTickets s1 iss.u (iss.u.ticketsOf iss.lanes)
    let t := retireLanes r.1 iss.u iss.lanes
    (full = true → exec .exit s = .next (blocked s iss .queue iss.lanes)) ∧
    (full = false → recWaits s iss.u = true → exec .exit s = .next (blocked s iss .load iss.lanes)) ∧
    (full = false → recWaits s iss.u = false →
      (∀ st, r.2 = some (.wait st) → exec .exit s = .next (blocked r.1 iss st iss.lanes)) ∧
      (∀ c va, r.2 = some (.flt c va) → exec .exit s = .next (takeFault r.1 iss { faultVa c va with frozen := true } iss.lanes)) ∧
      (r.2 = none →
        exec .exit s = .next (match t.unit? iss.p with
          | some u => if u.liveSlices = [] then exitUnit t u 0 else complete t iss false
          | none => complete t iss false) ∧
        ∀ u, t.unit? iss.p = some u → u.liveSlices = [] → (exitUnit t u 0).unit? iss.p = none)) ∧
    (iss.u.tickets = [] → r = (s1, none)) ∧
    (∃ u, (retireLanes s iss.u iss.lanes).unit? iss.p = some u ∧ u.regs = iss.u.regs ∧ (∀ k, (u.slice k).live = (iss.u.slice k).live &&& ~~~sliceMask iss.lanes k))

/-- R148 to R151, R277, R278: MIGR of wave lanes: when the landing check passes and each migrating lane finds a free thread of its core, the lanes move, in order; a wave that
has lost its last lane is gone. A lane with an open loop takes FLT_LOOP, and no lane moves. MIGR of a swarm thread: with a landing entry and a template of at least 80
registers, the thread's lane enters the bin of its target and the thread is gone. -/
def Obligations.MigrationMovesLanesAndThreads : Prop :=
  ((∀ s off iss s1 t, iss.u.isWave = true → RunsPlain s (migrDesc iss) iss →
     (∀ l ∈ iss.lanes, (iss.u.slice (l / 4)).lstack = []) → landCheck s iss.u (iss.pc + 4 + 4 * off.signExtend 64) = .ok s1 →
     migrateLanes s1 iss.u (iss.pc + 4 + 4 * off.signExtend 64) iss.lanes = .ok t →
     exec (.migr off) s = .next (match (complete t iss false).unit? iss.p with
       | some u => if u.liveSlices = [] ∧ u.ident.serial = iss.u.ident.serial then exitUnit (complete t iss false) u 2 else complete t iss false
       | none => complete t iss false)) ∧
   (∀ (u : Machine.Unit) l i,
     (i < 64 → (migrRegs u l).getV 0 i = if i < u.ident.regs then u.regs.getV l i else 0) ∧ (i < 16 → (migrRegs u l).getK i = u.regs.getK i) ∧
     (i < 8 → (migrRegs u l).getP i 0 = u.regs.getP i l) ∧ (migrRegs u l).mode = u.regs.mode ∧ (migrRegs u l).fstat = u.regs.fstat)) ∧
  (∀ s off iss, RunsPlain s (migrDesc iss) iss →
     (∃ l ∈ iss.lanes, (iss.u.slice (l / 4)).lstack ≠ []) →
     exec (.migr off) s = .next (takeFault s iss (fault .loop) iss.lanes)) ∧
  (∀ s off iss s1 s2 x t, iss.u.isWave = false → RunsPlain s (migrDesc iss) iss →
     (∀ l ∈ iss.lanes, (iss.u.slice (l / 4)).lstack = []) → landCheck s iss.u (iss.pc + 4 + 4 * off.signExtend 64) = .ok s1 →
     needTemplate s1 iss.u (iss.pc + 4 + 4 * off.signExtend 64) 80 = .ok (s2, x) → migrateThread s2 iss x = .ok t →
     t.unit? iss.p = none ∧ exec (.migr off) s = .next t)

/-- R152, R276 to R278: SPAWN checks the entry of every lane, then, after a release at quad scope, places one thread record for each lane, in lane order, in the bins of its
quad: the record holds the lane's four words and enters the bin of the lane's entry and the unit's ASID; nothing else is written but what the reads of the templates fill. A lane
for which no bin is free waits, with those after it; a misaligned entry takes FLT_ALIGN and nothing is placed. -/
def Obligations.SpawnPlacesRecords : Prop :=
  (∀ s d a iss s0 j fin s1 t, Acts s { engines := .notSup, unlogged := true, opds := [src d .quad, src a .pair] } iss s0 j fin →
    let r := readAllOpds s0 iss.u false j.lanes [src d .quad, src a .pair]
    let es := (col r.2 1).map (BitVec.ofNat 64)
    (∀ e ∈ es, e.toNat % 4 = 0) → spawnChecks r.1 iss.u (dedup es) = .ok s1 →
    Spawned iss.u (release s1 (whoOf s1 iss.u 0) 1) (j.lanes.zip (es.zip (col r.2 0))) t → exec (.spawn d a) s = .next (fin t)) ∧
  (∀ s u e m s1 x, needTemplate s u e m = .ok (s1, x) → x.entry = e ∧ m ≤ x.regs ∧ x.valid = true) ∧
  (∀ s die quad asid x r t, Memory.wf s.mem = true → Placed s die quad asid x r t → t.units = s.units ∧ t.cores = s.cores ∧ t.dies = s.dies ∧
    (∀ d q, (d, q) ≠ (die, quad) → q < 60 → quad < 60 → t.quad d q = s.quad d q) ∧
    (∃ i n, n < 96 ∧ ∀ loc, loc < locVault die quad (ladleOff i n) ∨ locVault die quad (ladleOff i n) + 32 ≤ loc → t.byte loc = s.byte loc)) ∧
  (∀ s d a iss s1, RunsPlain s { engines := .notSup, unlogged := true, opds := [src d .quad, src a .pair] } iss →
    let v (o : Opd) (l : Nat) : Nat := readOpd s iss.u o false l
    let e (l : Nat) : DWord := BitVec.ofNat 64 (v (src a .pair) l)
    ∀ done l rest s2 s3 x, iss.lanes = done ++ l :: rest → (∀ l ∈ iss.lanes, (e l).toNat % 4 = 0) → spawnChecks s iss.u (dedup (iss.lanes.map e)) = .ok s1 →
      Spawned iss.u (release s1 (whoOf s1 iss.u 0) 1) (done.map (fun l => (l, e l, v (src d .quad) l))) s2 → needTemplate s2 iss.u (e l) 0 = .ok (s3, x) →
      binRecord s3 iss.p.die (quadOf iss.p.core) iss.u.ident.asid x { v := wordsOf 4 (v (src d .quad) l), p := 0, ticket := none, mig := none } = none →
      exec (.spawn d a) s = .next (blocked s3 iss .structural (l :: rest))) ∧
  (∀ s d a iss, RunsPlain s { engines := .notSup, unlogged := true, opds := [src d .quad, src a .pair] } iss →
    (∃ l ∈ iss.lanes, readOpd s iss.u (src a .pair) false l % 2 ^ 64 % 4 ≠ 0) →
    ∃ l ∈ iss.lanes, exec (.spawn d a) s = .next (takeFault s iss (faultVa .align (BitVec.ofNat 64 (readOpd s iss.u (src a .pair) false l))) iss.lanes))

/-- R153, R279: FORK: the VA of the record is written to the entry at the tail of its context's launch queue of the record's prio, whose tail advances; then the unit is saved,
watching the record's counter: it is no longer at its place, and what the dispatcher keeps of it has the slices of the issuing gang past the FORK and every other slice at its
own pc. While the ring is full it waits; a VA that is not 64-byte aligned takes FLT_ALIGN. -/
def Obligations.ForkSuspendsTheUnit : Prop :=
  ∀ s a iss s0 j fin, (iss.u.isWave = true → iss.shared = none) → iss.lanes ≠ [] →
    let oa := if iss.u.isWave then (src a .pair).must .uniform else src a .pair
    let d : Desc := { engines := .notSup, unlogged := true, opds := [oa], perGang := true, always := iss.u.isWave }
    let r := readAllOpds s0 iss.u false (j.lanes.take 1) [oa]
    let va : DWord := BitVec.ofNat 64 ((col r.2 0).headD 0)
    (∀ h s1 x s2 s3 u, Acts s d iss s0 j fin → va.toNat % 64 = 0 → let s' := needCtx r.1 iss.p.die iss.u.ident.asid
      ctxOf s' iss.p.die iss.u.ident.asid = some h → readRec s' (whoOf s' iss.u (iss.lanes.headD 0)) iss.p.die iss.u.ident.asid va.toNat = .ok (s1, some x) →
      deviceWaits s1 = false → canWatch s1 iss.p.die iss.u.ident.asid x.done = true → releaseTickets s1 iss.u iss.u.tickets = (s2, none) →
      let f := release s2 (whoOf s2 iss.u 0) 2
      (forkEnqueue f iss.p.die h x.prio va = .ok s3 → s3.unit? iss.p = some u → u.tx = [] → iss.slices.Nodup →
        ∃ t v w, exec (.fork a) s = .next (fin t) ∧ t.unit? iss.p = none ∧ (iss.p.die < t.dies.length → v ∈ (t.die iss.p.die).disp.saved) ∧
          v.asid = u.ident.asid ∧ v.serial = u.ident.serial ∧ v.place = iss.p ∧ v.fork = some x.done ∧ v.forked = true ∧ v.prio = (if u.isWave then u.ident.prio else 0) ∧
          v.unit = some w ∧ w.regs = u.regs ∧
          (∀ k ∈ iss.slices, (u.slice k).live ≠ 0 → (u.slice k).active ≠ 0 → (u.slice k).rstack = [] → (u.slice k).lstack = [] → (w.slice k).pc = (u.slice k).pc + 4) ∧
          (∀ k, k ∉ iss.slices → (w.slice k).pc = (u.slice k).pc)) ∧
      (∀ q, readQueue f iss.p.die h.slot x.prio = q →
        (RunsPlain s d iss → s0 = s → j = iss → 2 ^ q.lsize ≤ q.count → exec (.fork a) s = .next (blocked s2 iss .structural iss.lanes)) ∧
        (q.count < 2 ^ q.lsize → ∀ m m', sysWrite f (dispWho iss.p.die h.asid) (q.entryVa q.tail) 8 va.toNat = .ok m →
          sysWrite m (ctxWho m iss.p.die) (lqVa m iss.p.die h.slot x.prio + 0x18) 4 ((q.tail + 1) % 2 ^ 32) = .ok m' →
          forkEnqueue f iss.p.die h x.prio va = .ok (addBell m' iss.p.die h.slot x.prio)))) ∧
    (RunsPlain s d iss → s0 = s → j = iss → va.toNat % 64 ≠ 0 → exec (.fork a) s = .next (takeFault s iss (faultVa .align va) iss.lanes))

/-- R154, R155: CALLAT checks every lane's target, entry and footprint word, releases at the mode scope, and then sends one task for each lane in order; each
accepted task raises the unit's call counter by one. -/
def Obligations.CallatSendsTasks : Prop :=
  (∀ s d a b iss s0 j fin s1 t,
    let os : List Opd := [{ f := d, sh := .quad, rd := true, wr := true, rule := .any }, src a .pair, src b .one]
    Acts s { unlogged := true, scope := true, opds := os } iss s0 j fin →
    let r := readAllOpds s0 iss.u false j.lanes os
    let es := (col r.2 1).map (BitVec.ofNat 64)
    let ws := (col r.2 2).map (BitVec.ofNat 32)
    callChecks r.1 iss.u (j.lanes.zip (es.zip ws)) = .ok s1 →
    callLanes (release s1 (whoOf s1 iss.u 0) (modeScope iss.u.regs.mode)) iss.p d (j.lanes.zip (es.zip (ws.zip (col r.2 0)))) = (t, []) →
    exec (.callat d a b) s = .next (fin t)) ∧
  (∀ s p d xs t (u : Machine.Unit), isQ d = false → s.unit? p = some u → callLanes s p d xs = (t, []) →
    (∃ u', t.unit? p = some u' ∧ u'.book.calls = u.book.calls + BitVec.ofNat 32 xs.length) ∧
    ∀ die core, die < 4 → core < 240 → (tasksOf t (.core die core)).length =
      (tasksOf s (.core die core)).length + (xs.filter (fun x => decide (taskTarget x.2.2.1 (decide (240 ≤ p.core)) = .ok (.core die core)))).length)

/-- R49, R50, R157, R244, R248, R256, R262, R297, R305, R388, R396, R406, R410, R411, R415, R416, R427: MFS of the user-readable numbers 0 to 6 and 8 writes mode, fstat, the time, the
retired-instruction count, their latched upper halves, and the unit's share of its core's storage to its destination in every active lane, and number 7 each lane's own sgang word;
sfstat_clr (2) clears fstat, stime_lo (3) and sret_lo (5) latch their upper halves. In supervisor mode MFS of a per-die number reads that register of the thread's die and MTS
writes it. A per-die, per-core or per-quad register without side effects holds the bits written to it, its reserved bits 0; writing it changes no other register of its die, core
or quad and nothing else of the machine, but that a new ASID table also empties the die's walk caches (R287). A write of 1s to mbox_stat clears those overflow bits, and a
write to a mailbox pushes the word or, where it is full, sets its overflow bit. -/
def Obligations.SystemRegisters : Prop :=
  (∀ s d (n : BitVec 8) iss s0 j fin, n.toNat ≤ 8 → n ≠ 7 → Acts s { opds := [dst d .one] } iss s0 j fin →
     let now := (s0.die iss.p.die).time
     let ret := iss.u.book.retired
     let v : Nat := match n.toNat with
       | 0 => iss.u.regs.mode.toNat
       | 1 => iss.u.regs.fstat.toNat
       | 2 => iss.u.regs.fstat.toNat
       | 3 => now.toNat % 2 ^ 32
       | 4 => iss.u.regs.timeHi.toNat
       | 5 => ret.toNat % 2 ^ 32
       | 6 => iss.u.regs.retHi.toNat
       | _ => let k := (s0.core iss.p.die iss.p.core).split
              if iss.u.isSup then 64 else (8 - k) * 2 ^ 12 + k * 2 ^ 8 + iss.u.vCount
     let g (r : Regs) : Regs := match n.toNat with
       | 2 => { r with fstat := 0 }
       | 3 => { r with timeHi := BitVec.ofNat 32 (now.toNat / 2 ^ 32) }
       | 5 => { r with retHi := BitVec.ofNat 32 (ret.toNat / 2 ^ 32) }
       | _ => r
     exec (.mfs d n) s = .next (fin (writeDst (withRegs s0 iss.p g) iss.u (dst d .one) j.lanes (j.lanes.map (fun _ => v))))) ∧
  (∀ s d (n : BitVec 8) iss s0 j fin, n = 7 → Acts s { perGang := true, opds := [(dst d .one).must .lane] } iss s0 j fin →
     exec (.mfs d n) s = .next (fin (writeDst s0 iss.u ((dst d .one).must .lane) j.lanes (j.lanes.map (fun l => sgangOf iss.u l))))) ∧
  (∀ s d a (n : BitVec 8) iss s0 j fin, 0xC0 ≤ n.toNat → n.toNat ≤ 0xDE →
     (Acts s { priv := true, opds := [dst d .one] } iss s0 j fin →
       let r := readReg s0 iss.p.die iss.p.core n.toNat
       exec (.mfs d n) s = .next (fin (writeDst r.1 iss.u (dst d .one) j.lanes (j.lanes.map (fun _ => r.2.toNat))))) ∧
     (Acts s { priv := true, opds := [(src a .one).must .uniform] } iss s0 j fin →
       let r := readAllOpds s0 iss.u false (j.lanes.take 1) [(src a .one).must .uniform]
       exec (.mts a n) s = .next (fin (writeReg r.1 iss.p.die iss.p.core n.toNat (BitVec.ofNat 32 ((col r.2 0).headD 0)))))) ∧
  (∀ s die core n w mask, die < s.dies.length →
     (n, mask) ∈ [(0xC0, 0x1F1F1F1F), (0xC1, 0xFC), (0xC6, 0xFFFFFC00), (0xC7, 0x1FFFFFF), (0xC8, 0x7FF), (0xCD, 0xFFFFF), (0xD5, 0x3F1F),
       (0xD7, 0xFFFFFFE0), (0xD8, 0x1FFFFFF), (0xD9, 0xFEFFFF1F), (0xDE, 0xFFFF)] →
     (readReg (writeReg s die core n w) die core n).2 = w &&& mask ∧
     (∃ g, writeReg s die core n w = s.modDie die (fun d => { d with regs := g })) ∧
     ∀ m, 0xC0 ≤ m → m ≠ n → m ≠ 0xD6 → (readReg (writeReg s die core n w) die core m).2 = (readReg s die core m).2) ∧
  (∀ s die core w, writeReg s die core 0xCC w = (s.modRegs die (fun r => { r with asidTab := w &&& 0xFFFFF })).modDie die (fun d => { d with walks := [] })) ∧
  (∀ s die core n w mask, (s.core die core).bps.length = 8 →
     (n, mask) ∈ [(0x40, 0x01FF00FF), (0x42, 0xFFFFFFFF), (0x43, 0x1FFFFFF), (0x47, 0xFF1F), (0x49, 0xFF3F0F), (0x4C, 0x8000001F)] ∨
       (0x50 ≤ n ∧ n < 0x70 ∧ [0xFFFFFFFC, 0x1FFFFFF, 0xF7FFFFFF, 0xFFFFFFFF][n % 4]? = some mask) →
     (readReg (writeReg s die core n w) die core n).2 = w &&& mask ∧
     (∃ g, writeReg s die core n w = s.modCore die core g) ∧
     ∀ m, m < 0x80 → m ≠ n → m ≠ 0x48 → m ≠ 0x4A → (readReg (writeReg s die core n w) die core m).2 = (readReg s die core m).2) ∧
  (∀ s die core n w mask, (n, mask) ∈ [(0x80, 0x1FFFF), (0xA0, 0xFFFFFFC0), (0xA1, 0x1FFFFFF), (0xA2, 0xFFFFFFFF)] →
     (readReg (writeReg s die core n w) die core n).2 = w &&& mask ∧
     (∃ g, writeReg s die core n w = s.modQuad die (quadOf core) g) ∧
     ∀ m, 0x80 ≤ m → m < 0xC0 → m ≠ n → (readReg (writeReg s die core n w) die core m).2 = (readReg s die core m).2) ∧
  (∀ s die core k (w : Word), let q := s.quad die (quadOf core)
     let n := (q.mboxes.getD k Chan.empty).words.length
     let set (g : Quad → Quad) : State := s.modQuad die (quadOf core) g
     writeReg s die core 0x82 w = set (fun q => { q with mboxOvf := q.mboxOvf &&& ~~~(w.extractLsb' 8 8) }) ∧
     (k < 8 → n < 16 → writeReg s die core (0x88 + k) w = set (fun q => { q with mboxes := modAt q.mboxes k (fun c => { c with words := c.words ++ [w] }) })) ∧
     (k < 8 → 16 ≤ n → writeReg s die core (0x88 + k) w = set (fun q => { q with mboxOvf := q.mboxOvf ||| BitVec.ofNat 8 (2 ^ k) })))

/-- R158: SLEEP completes at once while its inbox holds a word and, where it sleeps, when it has been woken; otherwise it sleeps, to be woken by a message, by
its limit (0: none) or by the supervisor. In a thread a queue register gives the limit; in a wave it is of lane class and takes FLT_OPERAND. That a SLEEP which completes at
once leaves the queue alone is the model's choice (log entry 123). -/
def Obligations.SleepWaitsForAMessage : Prop :=
  ∀ s a iss, let d : Desc := { perGang := true, opds := if isQ a && !iss.u.isWave then [] else [(src a .one).must .uniform] }
    (Runs s d iss → iss.lanes ≠ [] →
      (sleepOf iss.u iss.gang iss.pc = none → (inboxOf s iss.u).words ≠ [] → exec (.sleep a) s = .next (complete (endRun s iss.u) iss false)) ∧
      (∀ z, sleepOf iss.u iss.gang iss.pc = some z → z.woken = true → exec (.sleep a) s = .next (complete (dropSleep s iss) iss false)) ∧
      (∀ z, sleepOf iss.u iss.gang iss.pc = some z → z.woken = false → exec (.sleep a) s = .next (blocked s iss .queue iss.lanes)) ∧
      (∀ s1 n, sleepOf iss.u iss.gang iss.pc = none → (inboxOf s iss.u).words = [] → readOnce s iss ((src a .one).must .uniform) = .ok (s1, n) → s1.unit? iss.p ≠ none →
        ∃ t u z, exec (.sleep a) s = .next (blocked t iss .queue iss.lanes) ∧ t.unit? iss.p = some u ∧ z ∈ u.book.sleeps ∧ z.gang = iss.gang ∧ z.pc = iss.pc ∧ z.woken = false ∧
          (z.limit = true ↔ n ≠ 0) ∧ z.until_ = nowOf s1 iss.p.die + BitVec.ofNat 64 n)) ∧
    (isQ a = false → readOnce s iss ((src a .one).must .uniform) = .ok (s, readOpd s iss.u (src a .one) false (iss.lanes.headD 0))) ∧
    (issueOf s true = some iss → iss.u.isWave = true → isQ a = true → exec (.sleep a) s = .next (takeFault s iss (fault .operand) iss.lanes))

/-- R159: HALT sets the halt flag of the unit that its selector names: at once, where that unit does not issue; it waits for one that does. A release clears the
flag. A unit that is saved takes the flag in its record, the one that was saved last from the placement; a selector that names no unit does nothing; a reserved bit or another
operation takes FLT_OPERAND. That a place which exists in no package is treated as an empty one, and that a HALT which waits names its unit by the place each time it issues again,
are the model's choices (log entries 42 and 100). -/
def Obligations.HaltSetsTheFlag : Prop :=
  ∀ s a b iss s0 j fin,
    let d : Desc := { priv := true, opds := [src a .one, src b .one] }
    let r := readAllOpds s0 iss.u false j.lanes d.opds
    let w : Word := BitVec.ofNat 32 ((col r.2 0).headD 0)
    let op : Word := BitVec.ofNat 32 ((col r.2 1).headD 0)
    let p : Place := { die := (w.extractLsb' 24 2).toNat, core := (w.extractLsb' 16 8).toNat, unit := (w.extractLsb' 0 8).toNat }
    let flagged := r.1.modUnit p (fun u => u.modCtl (fun c => { c with haltFlag := true }))
    (Acts s d iss s0 j fin → w &&& 0xFC00FF00 = 0 → op.toNat ≤ 1 →
      (240 ≤ p.core → exec (.halt a b) s = .next (fin r.1)) ∧
      (p.core < 240 → r.1.unit? p = none → exec (.halt a b) s = .next (fin (flagSaved r.1 p (decide (op = 0))))) ∧
      (∀ u, p.core < 240 → r.1.unit? p = some u →
        (op = 1 → exec (.halt a b) s = .next (fin (r.1.modUnit p (fun u => u.modCtl (fun c => { c with haltFlag := false, halted := false }))))) ∧
        (op = 0 → u.ctl.run ≠ .ready ∨ u.ctl.halted = true → exec (.halt a b) s = .next (fin flagged)))) ∧
    (RunsPlain s d iss → s0 = s → j = iss →
      (w &&& 0xFC00FF00 ≠ 0 ∨ 1 < op.toNat → exec (.halt a b) s = .next (takeFault s iss (fault .operand) iss.lanes)) ∧
      (∀ u, w &&& 0xFC00FF00 = 0 → op = 0 → p.core < 240 → s.unit? p = some u → u.ctl.run = .ready → u.ctl.halted = false →
        exec (.halt a b) s = .next (blocked flagged iss .structural iss.lanes)))

/-! ## Instructions of a strand -/

/-- R95 to R100, R103, R104, R451, R452: once every gang of the strand stands at it, an instruction of a strand acts once on all the strand's active lanes, writes its
destination in them, and all the strand's gangs complete it. LANE writes operand a of the lane that b names, 0 where that lane is not live. That LANE and the shuffles read a
lane of another strand as it stands is the model's reading (DEDUCED, log entry 20). -/
def Obligations.StrandInstructionsActOnce : Prop :=
  (∀ s i d out iss s0, otherDesc s i = some d → strandOut s i = some out → StrandActs s d iss s0 → (∃ v, strandVal s iss.strandWide i 0 = some v) →
     exec i s = .next (completeStrand (writeDst s0 iss.u out iss.strandWide.lanes (iss.strandWide.lanes.map (fun l => (strandVal s iss.strandWide i l).getD 0))) iss.strandWide)) ∧
  (∀ s d a b iss s0, StrandActs s { opds := [(src a .one).must .noQueue, (src b .one).must .uniform, dst d .one], freeClass := true } iss s0 →
     let w := iss.strandWide
     let r := readAllOpds s0 iss.u false w.lanes [(src b .one).must .uniform]
     let k := (col r.2 0).headD 0
     exec (.lane d a b) s = .next (completeStrand (writeDst r.1 iss.u (dst d .one) w.lanes
       (w.lanes.map (fun _ => if liveLane iss.u k then readOpd r.1 iss.u (src a .one) false k else 0))) w))

/-- R101, R102: RDX folds the values of the strand's lanes in order, SCAN gives each lane the fold of the lanes up to it (before it, bit 8 of b set, the first lane then the
identity); an operation code that the type does not have takes FLT_OPERAND. For integers the folds of the operations 0 to 5 are the sum (wrapped, or saturated to the
type), the least and the greatest value, and the bitwise and, or and exclusive or of the values, whatever their order. -/
def Obligations.ReductionsAndScans : Prop :=
  (∀ s d a b iss s0, let w := iss.strandWide
     let ty := modeType iss.u.regs.mode
     let m := fmodeOf iss.u.regs.mode
     let vs := w.lanes.map (fun l => readOpd s iss.u (src a (tyShape s)) (signedTy ty) l)
     let c := readOpd s iss.u (src b .one) false (w.lanes.headD 0)
     let parts := (List.range vs.length).map (fun p => if c / 256 = 1 then (if p = 0 then (foldIdentity ty (c % 256), 0) else foldLanes ty (c % 256) m (vs.take p))
       else foldLanes ty (c % 256) m (vs.take (p + 1)))
     (∀ dd, otherDesc s (.rdx d a b) = some dd → StrandActs s dd iss s0 → foldCodeOk ty c = true →
       exec (.rdx d a b) s = .next (completeStrand (writeDst (orFlags s0 iss.p (foldLanes ty c m vs).2) iss.u (dst d (tyShape s)) w.lanes (w.lanes.map (fun _ => (foldLanes ty c m vs).1))) w)) ∧
     (∀ dd, otherDesc s (.scan d a b) = some dd → StrandActs s dd iss s0 → foldCodeOk ty (c % 256) = true → c < 512 →
       exec (.scan d a b) s = .next (completeStrand (writeDst (orFlags s0 iss.p (parts.foldl (fun f r => f ||| r.2) 0)) iss.u ((dst d (tyShape s)).must .lane) w.lanes (parts.map (·.1))) w)) ∧
     (∀ dd, otherDesc s (.rdx d a b) = some dd → StrandActs s dd iss s → NoQueues dd → foldCodeOk ty c = false →
       exec (.rdx d a b) s = .next (takeFault s iss (fault .operand) w.lanes))) ∧
  (∀ ty ∈ scalarInt, ∀ m vs, vs ≠ [] → (∀ v ∈ vs, v < 2 ^ elemBits ty) →
     ((foldLanes ty 0 { m with sat := false } vs).1 : Int) = (vs.map (elemInt ty)).sum % 2 ^ elemBits ty ∧
     elemInt ty (foldLanes ty 0 { m with sat := true } vs).1 = max (typeMin ty) (min (vs.map (elemInt ty)).sum (typeMax ty)) ∧
     ((foldLanes ty 1 m vs).1 ∈ vs ∧ ∀ v ∈ vs, elemInt ty (foldLanes ty 1 m vs).1 ≤ elemInt ty v) ∧
     ((foldLanes ty 2 m vs).1 ∈ vs ∧ ∀ v ∈ vs, elemInt ty v ≤ elemInt ty (foldLanes ty 2 m vs).1) ∧
     (∀ k, (foldLanes ty 3 m vs).1.testBit k = vs.all (·.testBit k)) ∧ (∀ k, (foldLanes ty 4 m vs).1.testBit k = vs.any (·.testBit k)) ∧
     (∀ k, (foldLanes ty 5 m vs).1.testBit k = decide ((vs.filter (·.testBit k)).length % 2 = 1)) ∧ (∀ op, (foldLanes ty op m vs).2 = 0))

/-! ## Memory -/

/-- R166, R188, R205 to R207: a load accesses its lanes in increasing order, each at the address of its form, and writes what it reads, short loads extended by the type; where
every lane's access ends, the instruction completes. From the core's local store, whatever its alignment, it writes the bytes held there, little-endian, to its destination
and changes no other register, no byte of memory and nothing outside its own unit. From translated memory of which the core's L1 holds the lines (R173, R176), it does the same with
the bytes of those lines. -/
def Obligations.LoadsComplete : Prop :=
  (∀ s i f iss s0 j fin t, loadForm s i = some f → Acts s f.desc iss s0 j fin →
     let r := readAllOpds s0 iss.u (f.desc.types.isSome && signedTy (modeType iss.u.regs.mode)) j.lanes f.desc.opds
     eachLane (loadLane j f.out f.size (f.value iss)) r.1 (lanesWith j r.2 f.ea) = .ok t →
     exec i s = .next (afterFills s iss (fin (loadEvent t iss.u)))) ∧
  (∀ s i f iss, loadForm s i = some f → RunsPlain s f.desc iss → NoTransactions s → (s.die iss.p.die).mons = [] → iss.lanes.Nodup →
     let ea (l : Nat) : Nat := f.ea (argsOf s iss f.desc l)
     (∀ l ∈ iss.lanes, InLocalStore s iss.u (ea l) f.size) →
     exec i s = .next (complete (withRegs s iss.p (putEach iss f.out (fun l => f.value iss (s.rd (localLoc iss.u (ea l)) f.size)))) iss false)) ∧
  (∀ s i f iss (val : Nat → Nat), loadForm s i = some f → RunsPlain s f.desc iss → NoTransactions s → (s.die iss.p.die).mons = [] → iss.lanes.Nodup →
     (∀ l ∈ iss.lanes, L1Holds s iss.u needR (f.ea (argsOf s iss f.desc l)) f.size (val l)) →
     exec i s = .next (complete (withRegs s iss.p (putEach iss f.out (fun l => f.value iss (val l)))) iss false))

/-- R166, R188, R205, R207: a store accesses its lanes in increasing order, each at the address of its form; where every lane's access ends, the instruction completes. To the
core's local store it changes exactly the bytes at its lanes' addresses: every other byte reads as before, a byte that one lane alone stores to reads as that lane's data,
and no register, no other unit and no other part of the machine changes. A lane's store to translated memory whose line the core's L1 and its die's L2 hold: a later load of the core reads
the stored bytes, and every other byte that its L1 holds as before; no unit changes. Where the line is homed on the die, the newest bytes of it, which any other core reads, are those
of before with the stored bytes in them, those of every other line of the L2 are as before, and no byte of memory changes (R175, R176); where its home is another die, the
stored bytes are under way there as one write-through (R180). -/
def Obligations.StoresComplete : Prop :=
  (∀ s i f iss s0 j fin t, storeForm s i = some f → Acts s f.desc iss s0 j fin →
     let r := readAllOpds s0 iss.u (f.desc.types.isSome && signedTy (modeType iss.u.regs.mode)) j.lanes f.desc.opds
     eachLane (storeLane j f.size) r.1 (lanesWith j r.2 (fun x => (f.ea x, x.getD 0 0))) = .ok t →
     exec i s = .next (afterFills s iss (fin t))) ∧
  (∀ s i f iss, storeForm s i = some f → RunsPlain s f.desc iss → NoTransactions s →
     let ea (l : Nat) : Nat := f.ea (argsOf s iss f.desc l)
     (∀ l ∈ iss.lanes, InLocalStore s iss.u (ea l) f.size) →
     ∃ m, exec i s = .next (complete { s with mem := m } iss false) ∧
       (∀ loc, (∀ l ∈ iss.lanes, ¬(localLoc iss.u (ea l) ≤ loc ∧ loc < localLoc iss.u (ea l) + f.size)) → State.byte { s with mem := m } loc = s.byte loc) ∧
       (∀ l k, iss.lanes.Nodup → l ∈ iss.lanes → k < f.size →
         (∀ l' ∈ iss.lanes, l' ≠ l → ¬(localLoc iss.u (ea l') ≤ localLoc iss.u (ea l) + k ∧ localLoc iss.u (ea l) + k < localLoc iss.u (ea l') + f.size)) →
         State.byte { s with mem := m } (localLoc iss.u (ea l) + k) = BitVec.ofNat 8 ((argsOf s iss f.desc l).getD 0 0 / 256 ^ k))) ∧
  (∀ s i f iss l x m, storeForm s i = some f → RunsPlain s f.desc iss → NoTransactions s → iss.lanes = [l] →
     let va := f.ea (argsOf s iss f.desc l)
     let v := (argsOf s iss f.desc l).getD 0 0 % 256 ^ f.size
     let die := iss.p.die
     L1Stores s iss.u va f.size x m → (m.remote = true → paServes s m.pa = true) →
     ∃ t, exec i s = .next (complete t iss false) ∧ t.units = s.units ∧
       (∃ y, l1Line t iss.u va = some y ∧ lineGet y.bytes (va % 128) f.size = v) ∧
       (∀ a n w, L1Holds s iss.u needR a n w → a + n ≤ va ∨ va + f.size ≤ a → L1Holds t iss.u needR a n w) ∧
       (m.remote = true → (t.die die).wts = (s.die die).wts ++
         [{ tag := m.tag, asid := m.asid, pa := m.pa, mask := spanMask (va % 128) f.size, bytes := linePut 0 (va % 128) f.size v, arrived := false }]) ∧
       (m.remote = false → t.mem = s.mem ∧
         (∀ y ∈ (s.die die).l2, sameLine y m = false → y ∈ (t.die die).l2 ∧ newestOf t die y = newestOf s die y) ∧
         (m.owner = some iss.p.core ∨ x.dirty = 0 → ∃ m', l2Line t die (asidOf s iss.u) va = some m' ∧ newestOf t die m' = linePut (newestOf s die m) (va % 128) f.size v)))

/-- R188, R215, R217: LDA, STL, LDN, STN, WAIT and every atomic need their address aligned to their size, WAKE to 4 bytes, and the barrier operations, BWAIT among them, to 16: a
lane that is not takes FLT_ALIGN, and the instruction has no effect. (Of WAIT and BWAIT: where it is issued for the first time.) -/
def Obligations.MisalignedAccessesFault : Prop :=
  ∀ s i d iss, otherDesc s i = some d → RunsPlain s d iss → NoTransactions s → ∀ l ∈ iss.lanes,
    let n := typedSize s
    let a := argsOf s iss d
    let bad (va : Nat → Nat) (n : Nat) : Prop := va l % n ≠ 0 ∧ ∀ l' ∈ iss.lanes, va l' % n ≠ 0 → va l' = va l
    let faults (va : Nat) : Prop := exec i s = .next (takeFault s iss (faultVa .align (BitVec.ofNat 64 va)) iss.lanes)
    match i with
    | .lda _ _ _ => bad (fun l => formA (a l)) n → faults (formA (a l))
    | .stl _ _ _ => bad (fun l => formA ((a l).drop 1)) n → faults (formA ((a l).drop 1))
    | .ldn _ _ => bad (fun l => (a l).getD 0 0) n → faults ((a l).getD 0 0)
    | .stn _ _ => bad (fun l => (a l).getD 1 0) n → faults ((a l).getD 1 0)
    | .wake _ _ _ => bad (fun l => (a l).getD 0 0) 4 → faults ((a l).getD 0 0)
    | .binit _ _ => bad (fun l => (a l).getD 0 0) 16 → faults ((a l).getD 0 0)
    | .barv _ _ _ => bad (fun l => (a l).getD 0 0) 16 → faults ((a l).getD 0 0)
    | .binv _ => bad (fun l => (a l).getD 0 0) 16 → faults ((a l).getD 0 0)
    | .wait _ _ _ => (∀ l' ∈ iss.lanes, waitOf s iss.p l' = none) → bad (fun l => (a l).getD 0 0) n → faults ((a l).getD 0 0)
    | .bwait _ _ _ => (∀ l' ∈ iss.lanes, waitOf s iss.p l' = none) → bad (fun l => (a l).getD 0 0) 16 → faults ((a l).getD 0 0)
    | i => (atomicNew i 0 0 0).isSome = true → bad (fun l => (a l).getD 0 0) n → faults ((a l).getD 0 0)

/-- R189, R193, R208, R209, R211 to R213, R226, R307: LDA, STL, LDN, STN, STMC and PREF complete where their lanes' accesses end; LDA then acquires and STL first releases at
the mode's scope, unless every lane is in a transaction. STMC stores at the same offset of every destination that its mask selects and its group gives. An atomic reads and
writes its lanes' locations in increasing lane order, each as one indivisible step, with the ordering of its opcode; with uniform sources and a destination of lane class it does so
once, and its result is every lane's (R30). A read-modify-write of a line homed on the agent's die at a point outside its core (R184) gives the newest bytes and leaves the new
ones in their place. -/
def Obligations.OrderedAccessesAndAtomicsComplete : Prop :=
  (∀ s i d iss s0 j fin t, otherDesc s i = some d → Acts s d iss s0 j fin →
     let r := readAllOpds s0 iss.u (d.types.isSome && signedTy (modeType iss.u.regs.mode)) j.lanes d.opds
     let n := typedSize s
     let addrs (ea : List Nat → Nat) := lanesWith j r.2 ea
     let pairs (ea : List Nat → Nat) := lanesWith j r.2 (fun x => (ea (x.drop 1), x.getD 0 0))
     let sc (xs : List (Nat × Nat)) := orderScope r.1 j xs
     match i with
     | .lda d _ _ => (∀ x ∈ addrs formA, x.2 % n = 0) → eachLane (loadLane j (dst d (dataShape n)) n id) r.1 (addrs formA) = .ok t →
         exec i s = .next (afterFills s iss (fin (acquireAt (loadEvent t iss.u) j (sc (addrs formA)))))
     | .stl _ _ _ => (∀ x ∈ pairs formA, x.2.1 % n = 0) →
         eachLane (stlLane j n) (releaseAt r.1 j (sc ((pairs formA).map (fun x => (x.1, x.2.1))))) (pairs formA) = .ok t → exec i s = .next (afterFills s iss (fin t))
     | .ldn d _ => (∀ x ∈ addrs (·.getD 0 0), x.2 % n = 0) →
         eachLane (fun s l va => (bareLoad s j l va n).map (fun q => writeDst q.1 iss.u (dst d (dataShape n)) [l] [q.2])) r.1 (addrs (·.getD 0 0)) = .ok t →
         exec i s = .next (afterFills s iss (fin (loadEvent t iss.u)))
     | .stn _ _ => (∀ x ∈ pairs (·.getD 0 0), x.2.1 % n = 0) →
         eachLane (fun s l x => bareStore s j l x.1 n (x.2 % 256 ^ n)) r.1 (pairs (·.getD 0 0)) = .ok t → exec i s = .next (afterFills s iss (fin t))
     | .stmc _ _ _ => let xs := lanesWith j r.2 (fun x => (x.getD 1 0, x.getD 2 0, x.getD 0 0))
         (∀ x ∈ xs, x.2.2.1 < 65536) → eachLane (stmcLane j n) r.1 xs = .ok t → exec i s = .next (afterFills s iss (fin t))
     | .pref _ _ => exec i s = .next (fin ((addrs formA).foldl (fun s x => prefLane j s x.1 x.2) r.1))
     | _ => True) ∧
  (∀ bases mask off va, va ∈ stmcDests bases mask off ↔ ∃ k b, bases[k]? = some b ∧ mask.testBit k = true ∧ b ≠ 0 ∧ va = (b + off) % 2 ^ 64) ∧
  (∀ s i d iss s0 j fin t, otherDesc s i = some d → (atomicNew i 0 0 0).isSome = true → Acts s d iss s0 j fin →
     let r := readAllOpds s0 iss.u (signedTy (modeType iss.u.regs.mode)) j.lanes d.opds
     let n := typedSize s
     let o := atomicOrder i
     let out := dst ((d.opds.getD 2 (dst 0 .one)).f) (dataShape n)
     let xs := lanesWith j r.2 (fun x => (x.getD 0 0, x.getD 1 0))
     let sc := orderScope r.1 j (xs.map (fun x => (x.1, x.2.1)))
     (∀ x ∈ xs, x.2.1 % n = 0) →
     byLanes (onceAtomic r.1 j d.opds) (atomicLane j out o n (fun old b => (atomicNew i (modeType iss.u.regs.mode) old b).getD 0)) (if o.getLsbD 1 then releaseAt r.1 j sc else r.1) xs = .ok t →
     exec i s = .next (afterFills s iss (fin (if o.getLsbD 0 then acquireAt t j sc else t)))) ∧
  (∀ s w sc va n f m, sc ≠ 0 ∨ w.core = none → l2Line s w.die w.asid va = some m → m.remote = false → lineBad s w.die m = false → NoTransactions s →
     va % 128 + n ≤ 128 → m.allows w.sup needRW = true →
     (∀ c x, w.core = some c → (s.core w.die c).l1.find? (fun l => l.hits (nbits va 56 7) w.asid (s.die w.die).regs.gen) = some x → x.bad = false ∧ x.allows w.sup needRW = true) →
     let old := lineGet (newestOf s w.die m) (va % 128) n
     ∃ t m', rmwLine s w sc va n f = .ok (t, old) ∧ l2Line t w.die w.asid va = some m' ∧ newestOf t w.die m' = linePut (newestOf s w.die m) (va % 128) n (f old) ∧ t.units = s.units)

/-- R193, R208, R211 to R213, R215, R217, R218, R226 on the local store, by one lane: an atomic writes the old value to its destination and the new one to its location; at a
scope no wider than its quad, LDA and LDN write the bytes held to their destination, LDA then acquires, STL and STN store their data; a WAKE that finds no waiter writes 0;
BINIT, BARV and BINV write the barrier object, and BARV the phase it found, all ones where the object is not valid; STMC of a context without a group table stores nothing. -/
def Obligations.OrderedAccessesOnTheLocalStore : Prop :=
  (∀ s i d iss l, otherDesc s i = some d → (atomicNew i 0 0 0).isSome = true → atomicOrder i = 0 → RunsPlain s d iss → NoTransactions s → iss.lanes = [l] →
     let n := typedSize s
     let x := argsOf s iss d l
     let loc := localLoc iss.u (x.getD 0 0)
     let old := s.rd loc n
     x.getD 0 0 % n = 0 → InLocalStore s iss.u (x.getD 0 0) n →
     exec i s = .next (complete (withRegs (s.wr loc n ((atomicNew i (modeType iss.u.regs.mode) old (x.getD 1 0)).getD 0 % 256 ^ n)) iss.p
       (putEach iss (dst ((d.opds.getD 2 (dst 0 .one)).f) (dataShape n)) (fun _ => old))) iss false)) ∧
  (∀ s i d iss l, otherDesc s i = some d → RunsPlain s d iss → NoTransactions s → (s.die iss.p.die).mons = [] → linked s iss.p.die = [] → iss.lanes = [l] →
     modeScope iss.u.regs.mode ≤ 1 →
     let n := typedSize s
     let x := argsOf s iss d l
     let b (k : Nat) : Nat := x.getD k 0
     let at? (va n : Nat) : Prop := va % n = 0 ∧ InLocalStore s iss.u va n
     let rd (va n : Nat) : Nat := s.rd (localLoc iss.u va) n
     let wr (va n v : Nat) : State := s.wr (localLoc iss.u va) n v
     let put (s : State) (o : Opd) (v : Nat) : State := withRegs s iss.p (putEach iss o (fun _ => v))
     let ends (t : State) : Prop := exec i s = .next (complete t iss false)
     match i with
     | .lda d _ _ => at? (formA x) n → ends (acquire (put s (dst d (dataShape n)) (rd (formA x) n)) (whoOf s iss.u 0) (scopeAt (whoOf s iss.u l) (formA x) (modeScope iss.u.regs.mode)))
     | .ldn d _ => at? (b 0) n → ends (put s (dst d (dataShape n)) (rd (b 0) n))
     | .stl _ _ _ => at? (formA (x.drop 1)) n → ends (wr (formA (x.drop 1)) n (b 0 % 256 ^ n))
     | .stn _ _ => at? (b 1) n → ends (wr (b 1) n (b 0 % 256 ^ n))
     | .wake d _ _ => at? (b 0) 4 → ends (put s (dst d .one) 0)
     | .binit _ _ => at? (b 0) 16 → b 1 ≠ 0 → ends (wr (b 0) 16 (b 1 % 2 ^ 32 + 2 ^ 127))
     | .barv d _ _ => at? (b 0) 16 → ends (put (wr (b 0) 16 (barArrive (rd (b 0) 16) (b 1))) (dst d .one) (if (barOf (rd (b 0) 16)).valid then (barOf (rd (b 0) 16)).phase else 0xFFFFFFFF))
     | .binv _ => at? (b 0) 16 → ends (wr (b 0) 16 (rd (b 0) 16 % 2 ^ 127))
     | .stmc _ _ _ => asidField s iss.p.die (asidOf s iss.u) 0x10 = 0 → b 2 < 65536 → ends s
     | _ => True)

/-- R31, R32, R193, R214, R216, R218: WAIT and BWAIT: where every lane's look gives its value (the compare returns at once, or the lane has been released), each value is written, an
acquire follows at the widest mode scope with which one of them began to wait, and the instruction completes; the values for a queue register are pushed as one set, once
every lane has its own; with uniform operands one lane waits for the strand, and its value ends the instruction for all. A WAIT of one lane on the local store returns 0 at once
where the location's value differs from its operand. -/
def Obligations.WaitsComplete : Prop :=
  (∀ s i d b iss s1, otherDesc s i = some d → (match i with | .wait y _ _ => y = b | .bwait y _ _ => y = b | _ => False) →
     let out := dst b .one
     let scope := modeScope iss.u.regs.mode
     let k := match i with | .bwait _ _ _ => bwaitKind scope | _ => waitKind scope (typedSize s)
     let align := match i with | .bwait _ _ _ => 16 | _ => typedSize s
     let srcs := d.opds.take 2
     let sg := d.types.isSome && signedTy (modeType iss.u.regs.mode)
     let fresh := iss.lanes.filter (fun l => (waitOf s iss.p l).isNone)
     let us := queueUses iss.u srcs fresh.length
     let r := readAllOpds (queueUnblock s iss.u iss.gang us) iss.u sg fresh srcs
     let xs := lanesWith { iss with lanes := fresh } r.2 (fun x => (x.getD 0 0, x.getD 1 0))
     let todo := iss.lanes.map (fun l => (l, ((xs.find? (fun x => decide (x.1 = l))).map (·.2)).getD (0, 0)))
     (Runs s d iss → allUniform iss.u d.opds = false → iss.lanes ≠ [] → queueFault s iss.u d.opds iss.lanes.length = none →
        fresh = [] ∨ queueReady s iss.u iss.gang us = true → (∀ x ∈ xs, x.2.1 % align = 0) →
        (∀ sc, isQ b = false → pollLanes iss k out { s := r.1, pending := [], back := none, err := none } todo = { s := s1, pending := [], back := some sc, err := none } →
          exec i s = .next (afterFills s iss (complete (acquire s1 (whoOf s1 iss.u 0) sc) iss false))) ∧
        (let ud := queueUses iss.u [out] iss.lanes.length
         let es := iss.lanes.filterMap (waitOf s1 iss.p)
         let t := queueUnblock s1 iss.u iss.gang ud
         let t := writeDst (acquire t (whoOf t iss.u 0) (es.foldl (fun m e => max m e.scope) 0)) iss.u out iss.lanes (es.map (fun e => (e.res.getD 0).toNat))
         isQ b = true → pollLanes iss k out { s := r.1, pending := [], back := none, err := none } todo = { s := s1, pending := [], back := none, err := none } →
         queueReady s1 iss.u iss.gang ud = true → exec i s = .next (afterFills s iss (complete (iss.lanes.foldl (fun s l => dropLaneWait s iss.p l) t) iss false)))) ∧
     (∀ v, RunsUniform s d iss → iss.shared = none → iss.lanes ≠ [] →
        let l := ((sharedWait iss).map (·.lane)).getD ((iss.uniLane { unlogged := true }).headD 0)
        let r := readAllOpds (if (sharedWait iss).isSome then s else useUniform s iss d) iss.u sg [l] srcs
        (col r.2 0).headD 0 % align = 0 → pollLane r.1 iss k true l ((col r.2 0).headD 0) ((col r.2 1).headD 0) = .ok (s1, some v) →
        let sc := ((waitOf s1 iss.p l).map (·.scope)).getD scope
        exec i s = .next (afterFills s iss (complete (ranOnce (writeDst (dropLaneWait (acquire s1 (whoOf s1 iss.u 0) sc) iss.p l) iss.u out [l] [v.toNat]) iss 0) iss false)))) ∧
  (∀ s a b d iss l n, n = typedSize s → RunsPlain s { types := some allTypes, scope := true, unlogged := true, opds := [src a .pair, src b (dataShape n), dst d .one] } iss →
     NoTransactions s → iss.lanes = [l] → waitOf s iss.p l = none →
     let x := argsOf s iss { types := some allTypes, opds := [src a .pair, src b (dataShape n)] } l
     x.getD 0 0 % n = 0 → InLocalStore s iss.u (x.getD 0 0) n → s.rd (localLoc iss.u (x.getD 0 0)) n ≠ x.getD 1 0 % 256 ^ n →
     let t := withRegs (dropLaneWait s iss.p l) iss.p (putEach iss (dst d .one) (fun _ => 0))
     exec (.wait d a b) s = .next (afterFills s iss (complete (acquire t (whoOf t iss.u 0) (modeScope iss.u.regs.mode)) iss false)))

/-- R215, R217, R218: WAKE, BINIT, BARV and BINV release at the mode's scope and then act in their lanes in increasing order, a WAKE with uniform sources and a destination of
lane class once for all (R30). Arriving at a barrier object: below the expected
count only the arrivals rise; at it they return to 0 and the phase rises by one; an object that is not valid does not change; the bits that no field has stay. -/
def Obligations.WakesAndBarriersComplete : Prop :=
  (∀ s i d iss s0 j fin t, otherDesc s i = some d → Acts s d iss s0 j fin →
     let r := readAllOpds s0 iss.u false j.lanes d.opds
     let xs := lanesWith j r.2 (fun x => (x.getD 0 0, x.getD 1 0))
     let s1 := releaseAt r.1 j (orderScope r.1 j (xs.map (fun x => (x.1, x.2.1))))
     let sc := modeScope iss.u.regs.mode
     let ends (lane : State → Nat → Nat × Nat → Acc State) : Prop := eachLane lane s1 xs = .ok t → exec i s = .next (afterFills s iss (fin t))
     match i with
     | .wake y _ _ => (∀ x ∈ xs, x.2.1 % 4 = 0) → byLanes (onceAtomic r.1 j d.opds) (wakeLane j (dst y .one)) s1 xs = .ok t → exec i s = .next (afterFills s iss (fin t))
     | .binit _ _ => (∀ x ∈ xs, x.2.1 % 16 = 0 ∧ x.2.2 ≠ 0) →
         ends (fun s l x => (plainAcc s (barRmw s (whoOf s iss.u l) sc x.1 (fun _ => x.2 % 2 ^ 32 + 2 ^ 127))).map (fun q => releaseBar q.1 j (whoOf s iss.u l) x.1 0xFFFFFFFF))
     | .barv d _ _ => (∀ x ∈ xs, x.2.1 % 16 = 0) →
         ends (fun s l x => (plainAcc s (barRmw s (whoOf s iss.u l) sc x.1 (fun y => barArrive y x.2))).map (fun q =>
           let o := barOf q.2
           writeDst (if o.valid && decide (o.expected ≤ o.arrived + x.2) then releaseBar q.1 j (whoOf s iss.u l) x.1 (BitVec.ofNat 32 (o.phase + 1)) else q.1) iss.u (dst d .one) [l]
             [if o.valid then o.phase else 0xFFFFFFFF]))
     | .binv _ => (∀ x ∈ xs, x.2.1 % 16 = 0) →
         ends (fun s l x => (plainAcc s (barRmw s (whoOf s iss.u l) sc x.1 (fun y => y % 2 ^ 127))).map (fun q => if (barOf q.2).valid then releaseBar q.1 j (whoOf s iss.u l) x.1 0xFFFFFFFF else q.1))
     | _ => True) ∧
  (∀ x b, x < 2 ^ 128 → let o := barOf x
     let o' := barOf (barArrive x b)
     (o.valid = false → barArrive x b = x) ∧
     (o.valid = true → o.arrived + b < o.expected → o' = { o with arrived := o.arrived + b }) ∧
     (o.valid = true → o.expected ≤ o.arrived + b → o' = { o with phase := (o.phase + 1) % 2 ^ 32, arrived := 0 }) ∧ barArrive x b / 2 ^ 96 = x / 2 ^ 96)

/-! ## Transactions -/

/-- R220, R223 to R226: TXB opens a transaction in its active lanes where the word at its target is a TXE, and takes FLT_ILLEGAL where it is another; TXA dooms the transactions
of its active lanes with its code; TXQ writes each lane's status, 0 outside a transaction. TXE of lanes outside transactions writes the outcome word with cause 8 (no
transaction) and the lane's abort count to d, and no lane to the mask a; in general it commits its lanes in increasing order and rejoins the lanes of the slices whose
transactions ended. -/
def Obligations.TransactionsOpenAbortAndEnd : Prop :=
  ((∀ s n iss s1 w, RunsPlain s {} iss → fetchWord s iss.u (iss.pc + 4 + 4 * n.signExtend 64) = .ok (s1, w) →
     (w.extractLsb' 24 8 ≠ 0xD7 → exec (.txb n) s = .next (takeFault s1 iss (fault .illegal) iss.lanes)) ∧
     (∀ t, w.extractLsb' 24 8 = 0xD7 → eachLane (txbLane iss (iss.pc + 4 + 4 * n.signExtend 64)) s1 (iss.lanes.map (fun l => (l, l))) = .ok t →
       exec (.txb n) s = .next (complete t iss false)) ∧
     (w.extractLsb' 24 8 = 0xD7 → (∀ l ∈ iss.lanes, (laneTx s1 iss.p l).inTx = false ∧ (laneTx s1 iss.p l).txb ≠ iss.pc) → s1.unit? iss.p = some iss.u → iss.lanes.Nodup →
       ∃ t u, exec (.txb n) s = .next (complete t iss false) ∧ t.unit? iss.p = some u ∧ u.regs = iss.u.regs ∧
         ∀ l ∈ iss.lanes, let x := smGet LaneTx.idle u.tx l
           x.inTx = true ∧ x.doomed = false ∧ x.irrev = false ∧ x.txb = iss.pc ∧ x.aborts = 0 ∧ x.reads = [] ∧ x.writes = [])) ∧
   (∀ s n iss, RunsPlain s {} iss → exec (.txa n) s = .next (complete (iss.lanes.foldl (fun s l => doomLane s iss.p l 4 n) s) iss false)) ∧
   (∀ s d iss s0 j fin, Acts s { opds := [dst d .one] } iss s0 j fin →
     exec (.txq d) s = .next (fin (writeDst s0 iss.u (dst d .one) j.lanes (j.lanes.map (fun l => txStatus (laneTx s0 iss.p l))))))) ∧
  (∀ s d a iss s0 j fin t, Acts s { opds := [(dst d .one).must .lane, dst a .mask], perGang := true, always := true } iss s0 j fin → iss.lanes ≠ [] → (∀ k, iss.u.doomedIn k = 0) →
     txeBody ((dst d .one).must .lane) (dst a .mask) { iss with lanes := sortBy (fun x y => decide (x < y)) iss.lanes } s0 = .ok t → exec (.txe d a) s = .next (afterFills s iss (fin t))) ∧
  (∀ s d a iss, RunsPlain s { opds := [(dst d .one).must .lane, dst a .mask], perGang := true, always := true } iss → iss.lanes ≠ [] → NoTransactions s → s.unit? iss.p = some iss.u →
     (∀ l ∈ iss.lanes, (laneTx s iss.p l).inTx = false) → sortBy (fun x y => decide (x < y)) iss.lanes = iss.lanes →
     exec (.txe d a) s = .next (complete (withRegs s iss.p (fun r => let r := putEach iss (dst d .one) (fun l => 8 + 2 ^ 24 * (laneTx s iss.p l).aborts) r
       if isK a then r.setKs (a.toNat - 0x80) [0, 0, 0] else r)) iss false))

/-! ## Asynchronous work -/

/-- R228, R229: ACPY to ACOL release at the mode's scope and put commands in flight: one for each active lane in order, or, where the record address is of uniform
class in a wave, one for the strand, which the strand's other gangs join. A record that is not 64-byte aligned takes FLT_ALIGN and nothing is issued.
R239, R305, R306: PUB releases at the mode's scope and then exchanges the halves of its lanes' handles, HGET reads them and then acquires; both write the base of
a half to d, 0 for an index that the context's table does not make valid; with a uniform index and a destination of lane class they act once for all lanes (R30). HGET gives the
live half's base; PUB changes the live bit of the entry at its home, and no other byte, and gives the base of the half that becomes live. An index of 4096 or more takes
FLT_OPERAND. -/
def Obligations.AsyncCommandsAndHandles : Prop :=
  ((∀ s i op d a iss s0 j fin, asyncOf i = some (op, d, a) →
     Acts s { scope := true, unlogged := true, always := true, perGang := true, tokens := true, opds := [src a .pair, (dst d .one).must .vk] } iss s0 j fin → iss.lanes ≠ [] →
     (uniformOpd iss.u a = false → (∀ v ∈ recordVas s0 iss iss.lanes (src a .pair), v.toNat % 64 = 0) → ∀ t,
       issueLanes (released s0 iss iss.lanes (src a .pair)) iss.u d op (iss.lanes.zip (recordVas s0 iss iss.lanes (src a .pair))) = (t, []) → exec i s = .next (fin t)) ∧
     (uniformOpd iss.u a = true → iss.shared = none → let ls := iss.uniLane { unlogged := true }
       (∀ v ∈ recordVas s0 iss ls (src a .pair), v.toNat % 64 = 0) → ∀ t,
       issueCmd (released s0 iss ls (src a .pair)) iss.u d op ((recordVas s0 iss ls (src a .pair)).headD 0) (maskOf iss.lanes) = some t →
       exec i s = .next (fin (recordShared (countPass t iss) iss (inFlight (released s0 iss ls (src a .pair)).seq)))) ∧
     (uniformOpd iss.u a = true → ∀ v, iss.shared = some v → exec i s = .next (fin (joinCmd (countPass s0 iss) iss d v)))) ∧
   (∀ s i op d a iss, asyncOf i = some (op, d, a) → isQ a = false →
     RunsPlain s { scope := true, unlogged := true, always := true, perGang := true, tokens := true, opds := [src a .pair, (dst d .one).must .vk] } iss → uniformOpd iss.u a = false →
     (∃ l ∈ iss.lanes, readOpd s iss.u (src a .pair) false l % 2 ^ 64 % 64 ≠ 0) →
     ∃ l ∈ iss.lanes, exec i s = .next (takeFault s iss (faultVa .align (BitVec.ofNat 64 (readOpd s iss.u (src a .pair) false l))) iss.lanes)) ∧
   (∀ s u d op va ls t, issueCmd s u d op va ls = some t → cmdsOn s u.place.die (quadOf u.place.core) < 16 ∧
     ∃ c ∈ t.cmds, c.op = op ∧ c.recVa = va ∧ c.lanes = ls ∧ c.token = d ∧ c.state = .running ∧ c.issuer = u.place ∧ c.next = 0 ∧ c.scope = modeScope u.regs.mode)) ∧
  ((∀ s d a iss s0 j fin t, Acts s { scope := true, unlogged := true, opds := [src a .one, dst d .pair] } iss s0 j fin →
     let r := readAllOpds s0 iss.u false j.lanes [src a .one]
     let xs := if onceForAll iss.u [src a .one, dst d .pair] then [(j.lanes, (col r.2 0).headD 0)] else (j.lanes.map (fun l => [l])).zip (col r.2 0)
     let w := whoOf r.1 iss.u 0
     (∀ i ∈ col r.2 0, i < 4096) →
     (handleLanes (release r.1 w (modeScope iss.u.regs.mode)) iss.u true (dst d .pair) xs = .ok t → exec (.pub d a) s = .next (fin t)) ∧
     (handleLanes r.1 iss.u false (dst d .pair) xs = .ok t → exec (.hget d a) s = .next (fin (acquire t w (modeScope iss.u.regs.mode))))) ∧
   (∀ s d a iss, isQ a = false → RunsPlain s { scope := true, unlogged := true, opds := [src a .one, dst d .pair] } iss →
     (∃ l ∈ iss.lanes, 4096 ≤ readOpd s iss.u (src a .one) false l) →
     exec (.pub d a) s = .next (takeFault s iss (fault .operand) iss.lanes) ∧ exec (.hget d a) s = .next (takeFault s iss (fault .operand) iss.lanes)) ∧
   (∀ s u p i, asidField s u.place.die (asidOf s u) 8 = 0 → handleOp s u p i = .ok (s, 0)) ∧
   (∀ s (u : Machine.Unit) i m, let die := u.place.die
     let asid := asidOf s u
     let entry := asidEntryPa s die asid + 8
     let va := asidField s die asid 8 + 32 * i
     let x := lineGet (newestOf s die m) (va % 128) 32
     let ctl := fieldAt x 0x18 4
     asidField s die asid 8 ≠ 0 → va % 32 = 0 → va + 32 ≤ 0x00F0000000000000 → (∀ y ∈ (s.die (paDie entry)).l2, y.pa ≠ entry - entry % 128) → NoTransactions s →
     l2Line s die asid va = some m → m.remote = false → lineBad s die m = false → m.allows true needRW = true → ctl.testBit 1 = true →
     (∃ t, handleOp s u false i = .ok (t, if ctl.testBit 0 then fieldAt x 8 8 else fieldAt x 0 8)) ∧
     ∃ t m', handleOp s u true i = .ok (t, if ctl.testBit 0 then fieldAt x 0 8 else fieldAt x 8 8) ∧ l2Line t die asid va = some m' ∧
       newestOf t die m' = linePut (newestOf s die m) (va % 128 + 0x18) 4 (ctl ^^^ 1)))

/-- R335, R368, R373, R238: TRACE, RAST and TRSM release at the mode's scope and put one batch of their active lanes' records in flight on their quad; ACAN cancels the
commands and batches whose token d is, in its active lanes. A record that is not 64-byte aligned takes FLT_ALIGN.
R392, R395, R396: BLND hands each active lane's colours, mode word and mask to its quad's blender under the ticket that the lane holds; a lane without a ticket, or a
mode word with a reserved bit or operation, takes FLT_OPERAND. An entry whose sequence is the pixel quad's next is applied: each pixel of its mask gets, in the channels of its mode word,
the value that the operation makes of the source and what the pixel holds, and keeps the other channels; the next sequence rises by one and the outstanding tickets fall by one.
Another entry is held in the first free place of the pending area, and no pixel changes. -/
def Obligations.RaysAndBlendsComplete : Prop :=
  ((∀ s i raster resumed d a iss s0 j fin t e, raysOf i = some (raster, resumed, d, a) →
     let oa := (src a .pair).must .laneClass
     Acts s { engines := .notSup, scope := true, unlogged := true, perGang := true, opds := [oa, (dst d .one).must (if curIsWave s then .vOnly else .vk)] } iss s0 j fin →
     (∀ v ∈ recordVas s0 iss iss.lanes oa, v.toNat % 64 = 0) → batchesOn (released s0 iss iss.lanes oa) iss.p.die (quadOf iss.p.core) < 4 →
     takeCmdEntry (released s0 iss iss.lanes oa) iss.p.die iss.u.ident.asid (if raster then 3 else 2) = some (t, e) →
     ∃ b, exec i s = .next (fin { t with batches := t.batches ++ [b], seq := t.seq + 1 }) ∧ b.token = d ∧ b.lanes = maskOf iss.lanes ∧ b.raster = raster ∧
       b.issuer = iss.p ∧ b.rays = (iss.lanes.zip (recordVas s0 iss iss.lanes oa)).map (fun x => newRay x.1 x.2 resumed) ∧ b.entry = some e ∧
       b.scope = modeScope iss.u.regs.mode ∧ b.cancelled = false) ∧
   (∀ s i raster resumed d a iss, raysOf i = some (raster, resumed, d, a) → isQ a = false →
     let oa := (src a .pair).must .laneClass
     RunsPlain s { engines := .notSup, scope := true, unlogged := true, perGang := true, opds := [oa, (dst d .one).must (if curIsWave s then .vOnly else .vk)] } iss →
     (∃ l ∈ iss.lanes, readOpd s iss.u oa false l % 2 ^ 64 % 64 ≠ 0) →
     ∃ l ∈ iss.lanes, exec i s = .next (takeFault s iss (faultVa .align (BitVec.ofNat 64 (readOpd s iss.u oa false l))) iss.lanes)) ∧
   (∀ s d iss s0 j fin, Acts s { opds := [{ f := d, sh := .one, rd := false, wr := false, rule := .vk }] } iss s0 j fin →
     exec (.acan d) s = .next (fin (j.lanes.foldl (fun s l => cancelLane s iss.u d l) s0)))) ∧
  (∀ s d a b iss, let ds : Desc := { engines := .waveOnly, perGang := true, opds := [src d .oct, src a .one, src b .one] }
     (∀ s0 j fin t, Acts s ds iss s0 j fin →
       let r := readAllOpds s0 iss.u false iss.lanes ds.opds
       let xs := lanesWith iss r.2 (fun x => (x.getD 0 0, x.getD 1 0, x.getD 2 0))
       (∀ x ∈ xs, blendModeBad x.2.2.1 = false ∧ ∃ t ∈ iss.u.tickets, t.1 = x.1) → eachLane (blndLane iss) r.1 xs = .ok t → exec (.blnd d a b) s = .next (fin t)) ∧
     (RunsPlain s ds iss → (∃ l ∈ iss.lanes, blendModeBad (readOpd s iss.u (src b .one) false l) = true ∨ ∀ t ∈ iss.u.tickets, t.1 ≠ l) →
       exec (.blnd d a b) s = .next (takeFault s iss (fault .operand) iss.lanes))) ∧
  (∀ s die quad (e : BlendEntry), let q := ticketQ e.ticket
     let get (s : State) (off n : Nat) : Nat := tileGet s die quad off n
     let t := bumpNext (blendApply s die quad e) die quad q
     let n := get s 0x65004 4
     (ticketSeq e.ticket = nextOf s die quad q → pendingCount s die quad = 0 → spillCount s die quad = 0 → blendEntry s die quad e = .ok t) ∧
     nextOf t die quad q = (nextOf s die quad q + 1) % 65536 ∧ get t 0x65000 4 = (get s 0x65000 4 + 2 ^ 32 - 1) % 2 ^ 32 ∧
     (∀ j c, j < 4 → c < 4 → let px := 0x40000 + 8 * quadPixel q j
       let old := get s px 8 / 2 ^ (16 * c) % 65536
       let src (c : Nat) : Nat := (((e.colours.getD (2 * j) 0).toNat + 2 ^ 32 * (e.colours.getD (2 * j + 1) 0).toNat) / 2 ^ (16 * c)) % 65536
       get t px 8 / 2 ^ (16 * c) % 65536 = if e.mask.testBit j && e.mode.getLsbD (4 + c) then blendChannel (e.mode.extractLsb' 0 3).toNat (src c) (src 3) old else old) ∧
     (ticketSeq e.ticket ≠ nextOf s die quad q → n < 1408 →
       blendEntry s die quad e = .ok (tilePut (tilePut s die quad (0x6A000 + 64 * n) 64 e.toNat) die quad 0x65004 4 (n + 1)))) ∧
  (∀ x a y, let r (v : XR × Bool) : Nat := (fp16.round .rne false false false v.1).v
     let f (v : Nat) : XR := fp16.decode v
     blendChannel 0 x a y = r (f x, false) ∧ blendChannel 1 x a y = r (XR.sum .rne [f x, (XR.mul (f y) (XR.sum .rne [XR.fin false 1 0, (f a).negate]).1).1]) ∧
     blendChannel 2 x a y = r (XR.sum .rne [f x, f y]) ∧ blendChannel 3 x a y = r (XR.mul (f x) (f y)) ∧ ∀ op, blendChannel op x a y < 65536)

/-! ## Queues and messages -/

/-- R243, R247: QBIND binds its queue register; QTRY pops and QPUT pushes one word for each active lane, in increasing lane order, where the channel has them, and
writes 1 to the predicate, else 0 and moves nothing; QCNT writes the channel's count. -/
def Obligations.QueueInstructionsComplete : Prop :=
  (∀ s d a iss s0 j fin, Acts s { unlogged := true, opds := [probe d, (src a .one).must .uniform] } iss s0 j fin →
    let r := readAllOpds s0 iss.u false j.lanes [(src a .one).must .uniform]
    let w : Word := BitVec.ofNat 32 ((col r.2 0).headD 0)
    bindFault r.1 iss.u w = none → exec (.qbind d a) s = .next (fin (withRegs r.1 iss.p (fun r => { r with q := setAt r.q (d.toNat - 0xC0) w })))) ∧
  (∀ s d a b iss s0 j fin, Acts s { opds := [probe a, (dst d .one).must .lane, { f := d, sh := .one, rd := false, wr := false, rule := .noQueue }, (dst b .one).must .pred] } iss s0 j fin →
    let n := j.lanes.length
    let c := probeChan iss.u a
    let ob := (dst b .one).must .pred
    let p := chanPop s0 iss.u c n
    probeFault s0 iss.u a false n = none →
    ((chanGet s0 iss.u c).words.length < n → exec (.qtry d a b) s = .next (fin (writeDst s0 iss.u ob j.lanes (j.lanes.map (fun _ => 0))))) ∧
    (n ≤ (chanGet s0 iss.u c).words.length →
      exec (.qtry d a b) s = .next (fin (writeDst (writeDst p.1 iss.u ((dst d .one).must .lane) j.lanes (p.2.map (·.toNat))) iss.u ob j.lanes (j.lanes.map (fun _ => 1)))))) ∧
  (∀ s d a b iss s0 j fin, Acts s { opds := [probe d, (src a .one).must .noQueue, (dst b .one).must .pred] } iss s0 j fin →
    let n := j.lanes.length
    let c := probeChan iss.u d
    let ob := (dst b .one).must .pred
    probeFault s0 iss.u d true n = none →
    (chanDepth iss.u c < (chanGet s0 iss.u c).words.length + n → exec (.qput d a b) s = .next (fin (writeDst s0 iss.u ob j.lanes (j.lanes.map (fun _ => 0))))) ∧
    ((chanGet s0 iss.u c).words.length + n ≤ chanDepth iss.u c → exec (.qput d a b) s = .next (fin (writeDst (chanPush s0 iss.u c
      (j.lanes.map (fun l => BitVec.ofNat 32 (readOpd s0 iss.u ((src a .one).must .noQueue) false l)))) iss.u ob j.lanes (j.lanes.map (fun _ => 1)))))) ∧
  (∀ s d a iss s0 j fin, Acts s { opds := [probe a, (dst d .one).must .lane] } iss s0 j fin → probeFault s0 iss.u a false 0 = none →
    exec (.qcnt d a) s = .next (fin (writeDst s0 iss.u ((dst d .one).must .lane) j.lanes (j.lanes.map (fun _ => (chanGet s0 iss.u (probeChan iss.u a)).words.length)))))

/-- R250, R330 to R332: SEND and RSVD send one message for each active lane, in order, where every target is allowed and the output buffer has room; RSVP posts one
entry for each active lane; RSVG takes the entry of its ASID with the lowest prio, the earliest first, and writes its eight words; entries that its context's Flask still
holds are posted first (R333).
R254, R255: RQP pushes one entry for each active lane to a Launder of its quad that is enabled and open to it, after a release at quad scope; RQG pops them,
oldest first, and then acquires; without room or entries they wait, changing nothing but the Launder's list of waiters. -/
def Obligations.MessagesAndLaundersComplete : Prop :=
  ((∀ s d a b iss s0 j fin t, let ds : Desc := { unlogged := true, opds := [src d .quad, src a .pair, src b .one] }
     Acts s ds iss s0 j fin →
     let r := readAllOpds s0 iss.u false j.lanes ds.opds
     let ms := lanesWith j r.2 (fun x => ({ place := BitVec.ofNat 32 (x.getD 1 0), serial := BitVec.ofNat 32 (x.getD 1 0 / 2 ^ 32), kind := 0, tag := BitVec.ofNat 32 (x.getD 2 0),
                                            payload := wordsOf 4 (x.getD 0 0) } : Outgoing))
     (∀ m ∈ ms, targetFault iss.u m.2.place = none) → eachLane (sendLane j) r.1 ms = .ok t → exec (.send d a b) s = .next (fin t)) ∧
   (∀ s d a iss s0 j fin t, let ds : Desc := { engines := .mccOnly, scope := true, opds := [src d .quad, src a .quad] }
     Acts s ds iss s0 j fin →
     let r := readAllOpds s0 iss.u false j.lanes ds.opds
     let ms := lanesWith j r.2 (fun x => ({ place := (wordsOf 3 (x.getD 1 0)).getD 1 0, serial := (wordsOf 3 (x.getD 1 0)).getD 2 0, kind := 3, tag := (wordsOf 3 (x.getD 1 0)).getD 0 0,
                                            payload := wordsOf 4 (x.getD 0 0) } : Outgoing))
     (∀ m ∈ ms, targetFault iss.u m.2.place = none) → eachLane (sendLane j) (release r.1 (whoOf r.1 iss.u 0) (modeScope iss.u.regs.mode)) ms = .ok t →
     exec (.rsvd d a) s = .next (fin t)) ∧
   (∀ s d a b iss s0 j fin t, let ds : Desc := { engines := .notSup, unlogged := true, opds := [src a .quad, src b .one, dst d .one] }
     Acts s ds iss s0 j fin →
     let r := readAllOpds s0 iss.u false j.lanes ds.opds
     let xs := lanesWith j r.2 (fun x => (x.getD 1 0, wordsOf 4 (x.getD 0 0)))
     (∀ x ∈ xs, requestBad x.2.1 = false) → eachLane (rsvpLane j (dst d .one)) r.1 xs = .ok t → exec (.rsvp d a b) s = .next (fin t)) ∧
   (∀ s d iss s0 j fin, Acts s { engines := .mccOnly, opds := [dst d .oct] } iss s0 j fin →
     let s1 := loadResv s0 iss.p.die (quadOf iss.p.core) iss.u.ident.asid
     let q := s1.quad iss.p.die (quadOf iss.p.core)
     resvBehind s1 q iss.u = false → ∀ i r, firstResv q iss.u.ident.asid = some (i, r) →
     exec (.rsvg d) s = .next (fin (writeDst (s1.modQuad iss.p.die (quadOf iss.p.core) (fun q => { q with resv := setAt q.resv i none, resvWait := q.resvWait.filter (fun p => decide (p ≠ iss.p)) }))
       iss.u (dst d .oct) j.lanes [ofWords (resvWords r)]))) ∧
   (∀ (q : Quad) (asid i : Nat) (r : Resv), firstResv q asid = some (i, r) → q.resv[i]? = some (some r) ∧ r.asid = asid ∧
     ∀ (k : Nat) (x : Resv), q.resv[k]? = some (some x) → x.asid = asid → r.prio < x.prio ∨ (r.prio = x.prio ∧ r.order ≤ x.order))) ∧
  (∀ s d (n : BitVec 4) iss s0 j fin,
     let sh := entryShape (curLaunder s n.toNat).cfg
     let l := launderOf s0 iss.u n.toNat
     let left (pop : Bool) := launderLeave s0 iss n.toNat pop
     let k := j.lanes.length
     let dp : Desc := { engines := .notSup, unlogged := true, opds := [(src d sh).must .vk] }
     let dg : Desc := { engines := .notSup, unlogged := true, opds := [(dst d sh).must .vk] }
     (Acts s dp iss s0 j fin → launderFault s0 iss.u l k = none → launderReady s0 iss l false k = true →
       exec (.rqp d n) s = .next (fin (modLaunder (release (left false) (whoOf (left false) iss.u 0) 1) iss.u n.toNat (fun l =>
         { l with entries := l.entries ++ j.lanes.map (fun x => wordsOf sh.words (readOpd (left false) iss.u ((src d sh).must .vk) false x)) })))) ∧
     (Acts s dg iss s0 j fin → launderFault s0 iss.u l k = none → launderReady s0 iss l true k = true →
       let t := writeDst (modLaunder (left true) iss.u n.toNat (fun l => { l with entries := l.entries.drop k })) iss.u ((dst d sh).must .vk) j.lanes ((l.entries.take k).map ofWords)
       exec (.rqg d n) s = .next (fin (acquire t (whoOf t iss.u 0) 1))) ∧
     (j = iss → s0 = s → launderFault s iss.u l k = none →
       (RunsPlain s dp iss → launderReady s iss l false k = false → exec (.rqp d n) s = .next (blocked (launderWait s iss n.toNat false) iss .queue iss.lanes)) ∧
       (RunsPlain s dg iss → launderReady s iss l true k = false → exec (.rqg d n) s = .next (blocked (launderWait s iss n.toNat true) iss .queue iss.lanes))))

/-! ## The supervisor's instructions -/

/-- R301 to R304: SHOOT aborts the irrevocable attempts that hold lines of its range, performs the write-throughs under way to it, and removes its translations, then its lines,
between a release and an acquire at system scope; FLUSH does so for every address of its ASID, its attempts and lines only where its operand is 1.
R299: BIAS answers the page's bias before it: a request for the bias it has, or for no change (2), changes nothing; a flip to host bias writes the page's lines
back and removes them; a flip to device bias ends once its snoops are answered, without the link at once with the link-failure flag.
R300: MGRT copies a 4 KiB page of device memory, its on-chip copies written back, to another, which is then in device bias, and writes that page's number to bits 52 to 12 of the VA's
level-1 entry, whose other bits stay; an address that is not page-aligned takes FLT_ALIGN. That FLUSH performs the write-throughs under way, that an attempt is aborted for a line
by its tags alone, and that a VA outside the translated region finds no page, are the model's choices (log entries 73, 74 and 126). -/
def Obligations.ShootdownsBiasAndPagesComplete : Prop :=
  ((∀ s d a b iss s0 j fin asid, let ds := supDesc [src d .one, src a .pair, src b .one]
     Acts s ds iss s0 j fin →
     let r := readAllOpds s0 iss.u false j.lanes ds.opds
     let x (k : Nat) : Nat := (col r.2 k).headD 0
     asidWord (x 0) = some asid → x 1 % 4096 = 0 → x 1 < 2 ^ 57 → x 2 ≠ 0 →
     let sh : Shot := { asid := asid, lo := x 1, hi := min (x 1 + 4096 * x 2) windowLo }
     exec (.shoot d a b) s = .next (fin (systemAcquire (shootLines (shootTlbs (shootStores (shootTx (systemRelease r.1 j) sh) sh) sh) sh) j))) ∧
   (∀ s d a iss s0 j fin asid, let ds := supDesc [src d .one, src a .one]
     Acts s ds iss s0 j fin →
     let r := readAllOpds s0 iss.u false j.lanes ds.opds
     let x (k : Nat) : Nat := (col r.2 k).headD 0
     asidWord (x 0) = some asid → x 1 ≤ 1 →
     let sh : Shot := { asid := asid, lo := 0, hi := 2 ^ 57 }
     let u := systemRelease r.1 j
     let t := shootTlbs (shootStores (if x 1 = 1 then shootTx u sh else u) sh) sh
     exec (.flush d a) s = .next (fin (systemAcquire (if x 1 = 1 then shootLines t sh else t) j))) ∧
   (∀ s x, (∀ d < 4, (∀ e ∈ ((shootTlbs s x).die d).tlbs.flatten, x.tagged e.asid && x.meets (e.va / 2 ^ e.size * 2 ^ e.size) (2 ^ e.size) = false) ∧
     ∀ w ∈ ((shootTlbs s x).die d).walks, x.ofAsid w.asid = false) ∧ (shootTlbs s x).mem = s.mem)) ∧
  (∀ s a b d iss s0 j fin, let ds := supDesc [src a .pair, src b .one, dst d .one]
     Acts s ds iss s0 j fin →
     let r := readAllOpds s0 iss.u false j.lanes ds.opds
     let pa := (col r.2 0).headD 0
     let req := (col r.2 1).headD 0
     let t := systemRelease r.1 j
     let out (s : State) (v : Nat) : State := writeDst s iss.u ((dst d .one)) j.lanes (j.lanes.map (fun _ => v))
     pa % 4096 = 0 → pageUsable r.1 pa = true → req ≤ 2 →
     (∀ f, flipOf r.1 (pa / 4096) = some f → f.place = iss.p → f.left = [] →
       exec (.bias d a b) s = .next (fin (out (systemAcquire { r.1 with flips := r.1.flips.filter (fun y => decide (y ≠ f)) } j) (1 + if f.linkFail then 256 else 0)))) ∧
     (flipOf r.1 (pa / 4096) = none → biasOf t pa < 2 →
     (req = 2 ∨ req = biasOf t pa → exec (.bias d a b) s = .next (fin (out t (biasOf t pa)))) ∧
     (req = 1 → biasOf t pa = 0 → exec (.bias d a b) s = .next (fin (out (systemAcquire (setBias (purgePage t pa) pa 1) j) 0))) ∧
     (req = 0 → biasOf t pa = 1 → t.pkg.cxlUp = false →
       exec (.bias d a b) s = .next (fin (out (systemAcquire (((List.range 64).map (fun i => pa / 64 + i)).foldl lostLine (setBias t pa 0)) j) 257))))) ∧
  ((∀ s d a b iss s0 j fin asid l t, let ds := supDesc [src d .pair, src a .pair, src b .one]
     Acts s ds iss s0 j fin →
     let r := readAllOpds s0 iss.u false j.lanes ds.opds
     let x (k : Nat) : Nat := (col r.2 k).headD 0
     let s1 := systemRelease r.1 j
     x 0 % 4096 = 0 → x 1 % 4096 = 0 → pageUsable r.1 (x 0) = true → asidWord (x 2) = some (some asid) → translatedVa (x 1) = true →
     walk s1 iss.p.die asid (x 1) = .ok l → l.size = 12 → ownDevice s1 l.pa = true → biasOf s1 l.pa = 0 →
     movePage s1 iss.p.die asid (x 1) l.pa (x 0) = .ok t → exec (.mgrt d a b) s = .next (fin (systemAcquire t j))) ∧
   (∀ s d a b iss, RunsPlain s (supDesc [src d .pair, src a .pair, src b .one]) iss → iss.lanes = [0] → readOpd s iss.u (src d .pair) false 0 % 4096 ≠ 0 →
     exec (.mgrt d a b) s = .next (takeFault s iss (faultVa .align (BitVec.ofNat 64 (readOpd s iss.u (src d .pair) false 0))) iss.lanes)) ∧
   (∀ s die asid va src dst e t old, leafEntry s die asid va = some e → movePage s die asid va src dst = .ok t → dst % 4096 = 0 → e % 8 = 0 → e / 4096 ≠ dst / 4096 →
     inBiasTable e = false → inBiasTable dst = false →
     let s1 := purgePage (purgePage s src) dst
     let s2 := setBias ((shootTlbs s1 { asid := some asid, lo := va, hi := va + 4096 }).wr dst 4096 (s1.rd src 4096)) dst 0
     physRead s2 e 8 = .ok old →
     (∀ k < 4096, t.byte (dst + k) = s1.byte (src + k)) ∧ biasOf t dst = 0 ∧ (∀ k < 53, 12 ≤ k → (t.rd e 8).testBit k = (dst / 4096).testBit (k - 12)) ∧
     (∀ k < 64, k < 12 ∨ 53 ≤ k → (t.rd e 8).testBit k = (BitVec.ofNat 64 old).getLsbD k) ∧
     ∀ d < 4, ∀ x ∈ (t.die d).tlbs.flatten, x.asid = some asid ∨ x.asid = none → ¬(x.va / 2 ^ x.size = va / 2 ^ x.size)))

/-! ## Tables and the matrix engine -/

/-- R130: TLI with a table that lies in the unit's local store interpolates each element of each lane; a table word with a reserved bit, a size outside 2 to 1024, or
a place outside the local store takes FLT_OPERAND. -/
def Obligations.TableInterpolationCompletes : Prop :=
  ∀ s d a b iss s0 j fin, let ds : Desc := { types := some [4, 6], opds := [src a .one, (src b .quad).must .kOnly, dst d .one] }
    let q := readOpd s0 iss.u (src b .quad) false 0
    let e := q / 2 ^ 32 % 16
    let ok : Prop := 1 ≤ e ∧ e ≤ 10 ∧ q / 2 ^ 36 % 2 ^ 28 = 0 ∧ q % 2 ^ 32 % 4 = 0 ∧ q % 2 ^ 32 + 4 * 2 ^ e ≤ lsBytes s0 iss.u
    let ty := modeType iss.u.regs.mode
    let m := fmodeOf iss.u.regs.mode
    let entry (i : Nat) : Nat := s0.rd (locLs iss.p.die iss.p.core (q % 2 ^ 32 + 4 * i)) 4
    let one (x : Nat) : VF := tliElem m (floatFmt ty) entry (2 ^ e) (q / 2 ^ 64 % 2 ^ 32) (q / 2 ^ 96 % 2 ^ 32) (if ty = 6 then x * 65536 else x)
    (Acts s ds iss s0 j fin → ok →
      let r := readAllOpds s0 iss.u (signedTy ty) j.lanes [src a .one]
      let vs := (col r.2 0).map (fun v => perElem ty (fun x => one (x.getD 0 0)) [v])
      exec (.tli d a b) s = .next (fin (writeDst (orFlags r.1 iss.p (vs.foldl (fun f r => f ||| r.2) 0)) iss.u (dst d .one) j.lanes (vs.map (·.1))))) ∧
    (RunsPlain s ds iss → s0 = s → ¬ ok → exec (.tli d a b) s = .next (takeFault s iss (fault .operand) iss.lanes))

/-- R321, R323, R327, R328: MXFB loads a format block; MXSW exchanges the planes of a quad that its ASID owns while nothing streams or loads; MXREL frees its slot; MXZ
fills every row of its slot; MXQ reads the quad's planes and slots. A reserved accumulator word takes FLT_OPERAND. -/
def Obligations.MatrixInstructionsComplete : Prop :=
  (∀ s d a iss s0 j fin t x, Acts s (mxDesc [fbOpd d, src a .pair]) iss s0 j fin →
    let r := readAllOpds s0 iss.u false j.lanes (mxDesc [fbOpd d, src a .pair]).opds
    let va := (col r.2 0).headD 0
    va % 32 = 0 → load r.1 (whoOf r.1 iss.u 0) va 32 = .ok (t, x) → blockOk (uQuad iss.u) (BitVec.ofNat 256 x) = true →
    exec (.mxfb d a) s = .next (afterFills s iss (fin (loadEvent (withRegs t iss.p (fun r => { r with fb := setAt r.fb (fbIndex d) (BitVec.ofNat 256 x) })) iss.u)))) ∧
  (∀ s iss s0 j fin, Acts s (mxDesc []) iss s0 j fin → quadAdmits s0 iss.u = true → mxLoading s0 iss.p.die (uQuad iss.u) = false →
    mxStreaming s0 iss.p.die (uQuad iss.u) = false → (∀ p, (s0.quad iss.p.die (uQuad iss.u)).swapReq = some p → p = iss.p) →
    exec .mxsw s = .next (fin (s0.modQuad iss.p.die (uQuad iss.u) (fun q => { q with active := q.shadow, shadow := q.active, swapReq := none })))) ∧
  (∀ s d iss s0 j fin, Acts s (mxDesc [src d .one]) iss s0 j fin →
    let r := readAllOpds s0 iss.u false j.lanes [src d .one]
    let w := (col r.2 0).headD 0
    accBad (uQuad iss.u) w = false → slotStreams r.1 iss.p.die (uQuad iss.u) iss.u.ident.asid (accSlot w) = false →
    exec (.mxrel d) s = .next (fin (r.1.modQuad iss.p.die (uQuad iss.u) (fun q =>
      { q with slots := q.slots.map (fun t => if t = some { asid := iss.u.ident.asid, slot := accSlot w } then none else t) })))) ∧
  (∀ s d a iss s0 j fin t slot, Acts s (mxDesc [src d .one, src a .one]) iss s0 j fin →
    let r := readAllOpds s0 iss.u false j.lanes [src d .one, src a .one]
    let w := (col r.2 0).headD 0
    accBad (uQuad iss.u) w = false → slotStreams r.1 iss.p.die (uQuad iss.u) iss.u.ident.asid (accSlot w) = false →
    mapSlot r.1 iss.p.die (uQuad iss.u) iss.u.ident.asid (accSlot w) = .ok (t, slot) →
    exec (.mxz d a) s = .next (fin (t.wrBytes (rowLoc iss.p.die (uQuad iss.u) slot 0) (repeatWord (slotBytes (uQuad iss.u) / 4) ((col r.2 1).headD 0))))) ∧
  (∀ s d a iss s0 j fin, Acts s (mxDesc [src a .one, dst d .one]) iss s0 j fin →
    let r := readAllOpds s0 iss.u false j.lanes [src a .one]
    let q := r.1.quad iss.p.die (uQuad iss.u)
    let out (v : Nat) : Prop := exec (.mxq d a) s = .next (fin (writeDst r.1 iss.u (dst d .one) j.lanes (j.lanes.map (fun _ => v))))
    let n := (col r.2 0).headD 0
    (n = 0 → quadAdmits r.1 iss.u = true → out ((q.slots.filter (·.isNone)).length * 2 ^ 24 +
      (q.slots.filter (fun t => t.elim false (fun t => decide (t.asid = iss.u.ident.asid)))).length * 2 ^ 16 + (if q.shadow.valid then 512 else 0) + (if q.active.valid then 256 else 0))) ∧
    (n = 1 → out (slotBits q iss.u.ident.asid 0)) ∧ (n = 2 → out (slotBits q iss.u.ident.asid 32)) ∧
    (n = 3 → out (q.resv.filter (fun r => r.elim false (fun r => decide (r.asid = iss.u.ident.asid)))).length)) ∧
  (∀ s d iss, isQ d = false → RunsPlain s (mxDesc [src d .one]) iss → (∀ l ∈ iss.lanes, accBad (uQuad iss.u) (readOpd s iss.u (src d .one) false l) = true) → iss.lanes ≠ [] →
    exec (.mxrel d) s = .next (takeFault s iss (fault .operand) iss.lanes))

/-- R322, R324 to R326, R333, R334: MXWL, MXST and MXRD hand their work to the quad's engine, and the thread waits while it is in flight: MXWL makes the shadow plane invalid,
and where its tile and scales can be loaded the plane holds them and the instruction completes; MXST and MXRD move a row at a time, from memory or channel 14 and to memory or
channel 15, each row counted in mxpi, and the last row completes the instruction (an access of the engine's that waits for a page flip has its turn in the page's queue, R299); one of no rows, or whose rows an earlier issue has done, completes at once. -/
def Obligations.MatrixStreamsComplete : Prop :=
  (∀ s d a b iss s0 j fin, let ds : Desc := { mxDesc [fbOpd d, src a .pair, src b .one] with holds := true }
    Acts s ds iss s0 j fin → mxHeld s = none →
    let r := readAllOpds s0 iss.u false j.lanes ds.opds
    let va := (col r.2 0).headD 0
    let c := (col r.2 1).headD 0
    let job : MxJob := { place := iss.p, kind := .load, acc := 0, va := BitVec.ofNat 64 va, queue := false, ctl := BitVec.ofNat 32 c, fb := fbOf iss.u (fbIndex d),
                         back := poppedBy iss.u [(src a .pair, va), (src b .one, c)] }
    let t := blocked (putJob (r.1.modQuad iss.p.die (uQuad iss.u) (fun q => { q with shadow := Plane.invalid })) iss.u job) iss .load iss.lanes
    quadAdmits r.1 iss.u = true → blockOk (uQuad iss.u) job.fb = true → va % 128 = 0 → c % 128 = 0 → mxLoading r.1 iss.p.die (uQuad iss.u) = false →
    exec (.mxwl d a b) s = .next t ∧
    ∀ iss' t' pl, t.pkg.heldReqs = [] → mxIssue t iss.p = some iss' → loadTile t iss'.u job = .ok (t', pl) →
      exec (.evMxwlCompletion iss.p.die (uQuad iss.u)) t = .next (endJob (t'.modQuad iss.p.die (uQuad iss.u) (fun q => { q with shadow := pl })) iss')) ∧
  (∀ s die quad j iss t pl, (s.quad die quad).jobs.find? (fun j => decide (j.kind = .load)) = some j → mxIssue s j.place = some iss → pageBehind s (.job j.place) = false →
    loadTile (pageLeave s (.job j.place)) iss.u j = .ok (t, pl) →
    exec (.evMxwlCompletion die quad) s = .next (endJob (t.modQuad die quad (fun q => { q with shadow := pl })) iss)) ∧
  (∀ s d a b iss s0 j fin, let ds : Desc := { mxDesc [src d .one, rowOpd a, src b .one] with holds := true }
    Acts s ds iss s0 j fin → mxHeld s = none →
    let r := readAllOpds s0 iss.u false j.lanes ds.opds
    let acc := (col r.2 0).headD 0
    let w := (col r.2 (if isQ a then 1 else 2)).headD 0
    let job : MxJob := { place := iss.p, kind := .stream, acc := BitVec.ofNat 32 acc, va := BitVec.ofNat 64 (if isQ a then 0 else (col r.2 1).headD 0), queue := isQ a,
                         ctl := BitVec.ofNat 32 w, fb := fbOf iss.u (w % 4), back := poppedBy iss.u [(src d .one, acc), (src b .one, w)] }
    let rows := ctlRows job.ctl.toNat
    let t := blocked (putJob (mxArm r.1 iss) iss.u job) iss .load iss.lanes
    quadAdmits r.1 iss.u = true → (isQ a = true → boundTo iss.u a 14 = true) → ctlBad (uQuad iss.u) job.acc.toNat job.ctl.toNat (isQ a) = false → blockOk (uQuad iss.u) job.fb = true →
    job.va.toNat % 64 = 0 → mxStreaming r.1 iss.p.die (uQuad iss.u) = false → slotStreams r.1 iss.p.die (uQuad iss.u) iss.u.ident.asid (accSlot job.acc.toNat) = false →
    planePairs r.1 iss.p.die (uQuad iss.u) job.fb = true →
    (rows = 0 → exec (.mxst d a b) s = .next (fin r.1)) ∧
    (rows ≠ 0 → mxLeft iss job.ctl.toNat = false → exec (.mxst d a b) s = .next (fin (setBusy r.1 iss.p false))) ∧
    (mxLeft iss job.ctl.toNat = true → exec (.mxst d a b) s = .next t ∧
      ∀ iss' t', t.pkg.heldReqs = [] → mxIssue t iss.p = some iss' → streamRow t iss'.u job = .ok t' → rows ≤ (iss'.u.regs.mxpi + 1).toNat →
        exec (.evMxstRow iss.p) t = .next (rowBoundary (endJob (mxStall ((rowPlace t' iss'.u job false).modUnit iss.p (fun u => u.modRegs (fun r => { r with mxpi := iss'.u.regs.mxpi + 1 }))) iss.p .load) iss')
          iss.p.die (uQuad iss.u)))) ∧
  (∀ s d a b iss s0 j fin, let ds : Desc := { mxDesc [rowOpd d, src a .one, src b .one] with holds := true }
    Acts s ds iss s0 j fin → mxHeld s = none →
    let r := readAllOpds s0 iss.u false j.lanes ds.opds
    let n := if isQ d then 0 else 1
    let acc := (col r.2 n).headD 0
    let w := (col r.2 (n + 1)).headD 0
    let job : MxJob := { place := iss.p, kind := .drain, acc := BitVec.ofNat 32 acc, va := BitVec.ofNat 64 (if isQ d then 0 else (col r.2 0).headD 0), queue := isQ d,
                         ctl := BitVec.ofNat 32 w, fb := 0, back := poppedBy iss.u [(src a .one, acc), (src b .one, w)] }
    let t := blocked (putJob (mxArm r.1 iss) iss.u job) iss .load iss.lanes
    quadAdmits r.1 iss.u = true → (isQ d = true → boundTo iss.u d 15 = true) → ctlBad (uQuad iss.u) job.acc.toNat job.ctl.toNat (isQ d) = false → job.va.toNat % 64 = 0 →
    (mxLeft iss job.ctl.toNat = false → exec (.mxrd d a b) s = .next (fin (setBusy (mxArm r.1 iss) iss.p false))) ∧
    (mxLeft iss job.ctl.toNat = true → exec (.mxrd d a b) s = .next t ∧
      ∀ iss' t', t.pkg.heldReqs = [] → mxIssue t iss.p = some iss' → drainRow t iss'.u job = .ok t' → ctlRows job.ctl.toNat ≤ (iss'.u.regs.mxpi + 1).toNat →
        exec (.evMxrdRow iss.p) t = .next (endJob (mxStall ((rowPlace t' iss'.u job false).modUnit iss.p (fun u => u.modRegs (fun r => { r with mxpi := iss'.u.regs.mxpi + 1 }))) iss.p .load) iss'))) ∧
  (∀ s p j iss t, s.jobOf p = some j → mxIssue s p = some iss → pageBehind s (.job p) = false →
    let s0 := pageLeave s (.job p)
    let n := iss.u.regs.mxpi + 1
    let r := mxStall ((rowPlace t iss.u j false).modUnit p (fun u => u.modRegs (fun r => { r with mxpi := n }))) p .load
    let e := if ctlRows j.ctl.toNat ≤ n.toNat then endJob r iss else r
    (j.kind = .stream → streamRow s0 iss.u j = .ok t → exec (.evMxstRow p) s = .next (rowBoundary e p.die (uQuad iss.u))) ∧
    (j.kind = .drain → drainRow s0 iss.u j = .ok t → exec (.evMxrdRow p) s = .next e)) ∧
  (∀ s iss, (endJob s iss).jobOf iss.p = none)

/-! ## Micro-instructions of the rays -/

/-- R350, R353 to R357: what the micro-instructions of ray programs leave of their ray, which then stands at the next micro-word. A push that
finds fewer entries than it needs takes those there are (DEDUCED, log entry 47). -/
def Obligations.TraversalMicroInstructions : Prop :=
  (∀ s b r, MicroRuns s true .ray b r →
    (∀ r1 e t x, r.nodeAt % 32 = 0 → layoutFor s b r (r.get 0x21 1) = some (r1, e) → load s (whoBatch b) r1.nodeAt (layBytes e) = .ok (t, x) →
      exec .uNfet s = .next (microNext t b true { r1 with node := some (bytesOf (layBytes e) x), nodeVa := BitVec.ofNat 64 r1.nodeAt, nodeLay := e })) ∧
    (r.ncnt = 0 → exec .uTrit s = .next (microNext s b true ((r.setFlag 5 false).setFlag 0 true))) ∧
    (∀ t x, r.ncnt ≠ 0 → load s (whoBatch b) r.nodeAt 48 = .ok (t, x) →
      let r1 := ((r.put 0x28 8 ((r.nodeAt + 48) % 2 ^ 64)).put 0x41 1 (r.ncnt - 1)).setFlag 5 (triHit r x).isSome
      exec .uTrit s = .next (microNext t b true { r1.setFlag 0 (decide (r1.ncnt = 0)) with pend := triHit r x })) ∧
    (∀ t x r1 e, r.flag 1 = true → r.flag 2 = true → r.level < 2 → r.nodeAt % 64 = 0 → load s (whoBatch b) r.nodeAt 64 = .ok (t, x) →
      fieldAt x 0x30 8 % 32 = 0 → fieldAt x 0x30 8 < 2 ^ 57 → fieldAt x 0x3D 3 = 0 → layoutFor t b r (fieldAt x 0x3C 1) = some (r1, e) →
      exec .uInst s = .next (microNext t b true (enterInst r1 x)))) ∧
  (∀ s b r, MicroRuns s true .both b r →
    exec .uYld s = .next (microNext s b true r) ∧
    (r.tdepth = r.base → exec .uPop s = .next (microNext s b true (r.setFlag 3 true))) ∧
    (∀ es e, r.tdepth ≠ r.base → r.pool = es ++ [e] → exec .uPop s = .next (microNext s b true (takeEntry { r with pool := es } e))) ∧
    (∀ t x es e, r.tdepth ≠ r.base → r.pool = [] → 0 < r.ovfN → 8 ≤ poolGet b r → load s (whoBatch b) (r.ovf + 64 * (r.ovfN - 1)) 64 = .ok (t, x) →
      (List.range 8).map (fun j => BitVec.ofNat 64 (fieldAt x (8 * j) 8)) = es ++ [e] →
      exec .uPop s = .next (microNext t b true (takeEntry { r.put 0x42 2 (r.ovfN - 1) with pool := es } e)))) ∧
  (∀ s b r, MicroRuns s false .ray b r →
    (∀ bs e cs, r.node = some bs → r.lay = some e → boxChildren r e (ofBytes bs) (layChildren e) 0 = .ok cs →
      exec .uBoxt s = .next (microNext s b false { r.setFlag 0 cs.isEmpty with cands := cs })) ∧
    exec .uOrdr s = .next (microNext s b false { r with cands := sortBy (fun a b => ltF a.tn.toNat b.tn.toNat) r.cands }) ∧
    (let es := ((r.cands.drop 1).reverse.map Cand.entry).drop r.taken;
      r.tdepth + es.length ≤ r.limit →
      (es.length ≤ poolGet b r → exec .uPush s = .next (microNext s b false { r with pool := r.pool ++ es, cands := r.cands.take 1 })) ∧
      (poolGet b r < es.length → exec .uPush s = .next (setRay s b.id
        { r with pool := r.pool ++ es.take (poolGet b r), taken := r.taken + poolGet b r, need := 1, stalled := 1 }))) ∧
    (r.cands = [] → exec .uNext s = .next (microNext s b false (r.setFlag 0 true))) ∧
    (∀ c cs, r.cands = c :: cs →
      exec .uNext s = .next (microNext s b false { ((((r.put 0x28 8 c.va.toNat).put 0x41 1 c.count).setFlag 1 c.leaf).setFlag 2 c.inst).setFlag 0 false with cands := [] })) ∧
    (∀ a : BitVec 6, r.flag 1 = true → r.flag 2 = false → a.toNat < 16 → exec (.uLeaf a) s = .next (microNext s b false ((r.setM a.toNat r.ncnt).setFlag 0 (decide (r.ncnt = 0))))) ∧
    (r.level ≠ 0 → exec .uIpop s = .next (microNext s b false
      ((((r.put 0x21 1 (r.get (instOff r.level + 0x1E) 1)).put 0x27 1 (r.level - 1)).setFlag 4 (decide (1 < r.level))).setFlag 3 false))) ∧
    exec .uHit s = .next (microNext s b false (if r.flag 5 then commitHit r else r)) ∧
    exec .uAnyh s = .next (if r.flag 5 then closeRay s b (ticked false (commitHit r)) 1 else microNext s b false r) ∧
    exec .uTmax s = .next (microNext s b false (if r.get 0x4C 4 = 0xFFFFFFFF then r else r.put 0x1C 4 (r.get 0x48 4))))

/-- R358, R360 to R363: the general micro-instructions, and those of raster programs. When it is a ray's turn to emit is read by inference (log entry 47). -/
def Obligations.GeneralAndRasterMicroInstructions : Prop :=
  (∀ s b r, MicroRuns s false .both b r →
    (∀ (a c : BitVec 6) (i : BitVec 14), a.toNat < 16 →
      let put (v : Nat) : State := microNext s b false ((r.setM a.toNat v).setFlag 0 (decide (v % 65536 = 0)))
      (c = 0 → exec (.uLdr a c i) s = .next (put i.toNat)) ∧
      (∀ bs, c = 1 → r.node = some bs → i.toNat % 2 = 0 → i.toNat < bs.length → exec (.uLdr a c i) s = .next (put (fieldAt (ofBytes bs) i.toNat 2))) ∧
      (c = 2 → exec (.uLdr a c i) s = .next (put (BitVec.ofNat 16 (r.m a.toNat) + i.signExtend 16).toNat)) ∧
      exec (.uStat a i) s = .next (microNext s b false (r.put 0x7C 4 (65536 * r.m a.toNat + i.toNat)))) ∧
    (∀ i : BitVec 4, let r1 := if i.getLsbD 2 then r.setFlag 6 (i.getLsbD 0) else r
      exec (.uFlg i) s = .next (microNext s b false (if i.getLsbD 3 then r1.setFlag 7 (i.getLsbD 1) else r1))) ∧
    (∀ (n : BitVec 1) (f : BitVec 3) (t : BitVec 14), t.toNat < r.code.length →
      exec (.uBrc n f t) s = .next (if r.flag f.toNat = n.getLsbD 0 then microNext s b false r else microJump s b r t.toNat) ∧
      exec (.uJmp t) s = .next (microJump s b r t.toNat)) ∧
    exec .uDone s = .next (closeRay s b (ticked false r) 1)) ∧
  (∀ s b r, MicroRuns s false .raster b r →
    (let es := [0x80, 0x8C, 0x98].map (cornersOf .rne r)
     exec .uEdgt s = .next (microNext s b false (((r.setFlag 0 (es.any (fun c => ltX (maxOf c) zeroX))).setFlag 1 (es.all (fun c => ltX zeroX (minOf c)))).setFlag 4
       (decide (tileLev r.nodeAt = 3))))) ∧
    (let z := rnd .rdn (minOf (cornersOf .rdn r 0))
     exec .uDepz s = .next (microNext s b false (r.setFlag 0 (nanF z || leF (tileGet s b.die b.quad (hzOff (tileLev r.nodeAt) (tileX r.nodeAt) (tileY r.nodeAt)) 4) z)))) ∧
    (let lev := tileLev r.nodeAt;
      let d := tileSize (lev + 1);
      let es := ((List.range 16).reverse.map (fun j => BitVec.ofNat 64 (tileWord (tileX r.nodeAt + d * (j % 4)) (tileY r.nodeAt + d * (j / 4)) (lev + 1)))).drop r.taken;
      lev < 3 → r.tdepth + es.length ≤ r.limit → es.length ≤ poolGet b r → exec .uSplt s = .next (microNext s b false { r with pool := r.pool ++ es }))) ∧
  (∀ s b r, MicroRuns s true .raster b r → tileLev r.nodeAt = 3 →
    let x := tileX r.nodeAt
    let y := tileY r.nodeAt
    emitTurn s b r x y = true →
    let px := (List.range 4).foldl (fun (a : State × Nat) j => let q := emitPixel a.1 b r x y j; (q.1, a.2 + (if q.2 then 2 ^ j else 0))) (s, 0)
    let s1 := emitDepth px.1 b x y
    let w (v : Nat) : Word := BitVec.ofNat 32 v
    (px.2 = 0 → exec .uEmit s = .next (microNext s1 b true r)) ∧
    (∀ s2 tm t, px.2 ≠ 0 → templateFor s b.die b.asid (BitVec.ofNat 64 (r.get 0x10 8)) = .ok (s2, some tm) → tm.valid = true →
      let tk := takeTicket s1 b.die b.quad (64 * (y / 2) + x / 2) px.2
      binRecord tk.1 b.die b.quad b.asid tm { v := [w (r.get 0x18 2 + x), w (r.get 0x1A 2 + y), w px.2, w (r.get 0xC 4)], p := 0, ticket := some tk.2, mig := none } = some t →
      exec .uEmit s = .next (microNext t b true r))) ∧
  (∀ s b r, MicroRuns s true .raster b r → tileLev r.nodeAt ≠ 3 → ∃ r0, rayCur s = some (b, r0) ∧ exec .uEmit s = .next (rayFault s b r .trav 0))

/-! ## Events -/

/-- R45, R46, R388 to R390: a supervisor action on a unit whose state allows it has its effect and clears the core's refused flag; one that is not allowed sets it and does
nothing else. Redirection gives the handler the masks, the cause and the pc in k56 to k63, and the return puts those registers back. That an action 2 wakes
sleeping gangs, that a selector names saved units, that a discarded task waits for room and that a redirected unit leaves its waits is read from the spec by
inference (log entries 37, 59, 60, 68). -/
def Obligations.SupervisorActionEvents : Prop :=
  (∀ s die core (unit : Fld) u, selUnit s die core unit.toNat = some u →
    let done (t : State) : State := t.modCore die core (fun k => { k with refused := false })
    let k := s.core die core
    let target : DWord := pairOf k.tgtLo k.tgtHi
    let d : Fld := k.tgtLo.extractLsb' 0 8
    let lane := (k.tgtLo.extractLsb' 8 8).toNat
    (u.ctl.faulted = true → exec (.evReplay die core unit) s = .next (done (s.modUnit u.place (fun _ => replayUnit u))) ∧
      exec (.evResume die core unit) s = .next (done (s.modUnit u.place (fun _ => resumeUnit u))) ∧
      (target.toNat % 4 = 0 → target.toNat < 2 ^ 57 →
        exec (.evRedirect die core unit) s = .next (done (keepRedir (quitAll (leaveWaits (s.modUnit u.place (fun _ => redirectUnit u target)) u) u) (redirectUnit u target))))) ∧
    (u.ctl.faulted = false → u.ctl.run = .ready → u.book.sleeps.any (fun z => !z.woken) = true → exec (.evResume die core unit) s =
      .next (done (s.modUnit u.place (fun _ => u.modBook (fun b => { b with sleeps := b.sleeps.map (fun z => { z with woken := true }) }))))) ∧
    (u.ctl.run = .stopped → u.ctl.redirected = true → target.toNat % 4 = 0 → target.toNat < 2 ^ 57 →
      exec (.evReturn die core unit) s = .next (done (quitAll (leaveWaits (s.modUnit u.place (fun _ => returnUnit u target)) u) u))) ∧
    (isWaiting s u = true → exec (.evReleaseWaiter die core unit) s = .next (done (releaseUnitWaiters s u))) ∧
    exec (.evKill die core unit) s = .next (done (killUnit s u)) ∧
    (∀ c, s.cmds.find? (fun c => c.stuck && namesToken d lane c.token c.lanes && issuedBy u c.asid c.serial c.sup c.issuer) = some c →
      exec (.evReplayCommand die core unit) s = .next (done (modCmd s c.id (fun c => { c with state := .running }))) ∧
      exec (.evCancelCommand die core unit) s = .next (done (cancelLane s u d lane))) ∧
    (u.ctl.faulted = false → exec (.evReplay die core unit) s = .next (s.modCore die core (fun k => { k with refused := true })))) ∧
  (∀ s die core (unit : Fld) v, selUnit s die core unit.toNat = none → selSaved s die core unit.toNat = some v →
    let done (t : State) : State := t.modCore die core (fun k => { k with refused := false })
    let target : DWord := pairOf (s.core die core).tgtLo (s.core die core).tgtHi
    exec (.evKill die core unit) s = .next (done (match v.grid with | some g => killGrid s g | none => destroySaved s die v)) ∧
    ∀ u, savedAs s die v = some u → (u.ctl.faulted = true → exec (.evReplay die core unit) s = .next (done (editSaved s die v (replayUnit u))) ∧
      exec (.evResume die core unit) s = .next (done (editSaved s die v (resumeUnit u))) ∧
      (target.toNat % 4 = 0 → target.toNat < 2 ^ 57 → exec (.evRedirect die core unit) s = .next (done (sendSaved s die v (redirectUnit u target)))))) ∧
  (∀ s die core (unit : Fld) t c, let q : TaskQ := if unit.getLsbD 7 then .mcc die (core / 4) else .core die core
    let done (t : State) : State := t.modCore die core (fun k => { k with refused := false })
    (tasksOf s q)[unit.toNat % 64]? = some t → t.held = some c →
    (outbufFull s q.die q.coreNo = false → exec (.evDiscardTask die core unit) s = .next (done (refuseTask (dropTask s q (unit.toNat % 64)) q t c))) ∧
    (outbufFull s q.die q.coreNo = true → exec (.evDiscardTask die core unit) s =
      .next (done (modTasks s q (fun ts => modAt ts (unit.toNat % 64) (fun x => { x with held := none, refusal := some c })))))) ∧
  (∀ u t t' i, u.isWave = true → (∀ sl ∈ (redirectUnit u t).slices, sl.pc = t ∧ sl.active = sl.live) ∧ (redirectUnit u t).regs.getK 62 = BitVec.ofNat 32 u.ctl.cause.toNat ∧
    (redirectUnit u t).regs.getK 63 = loWord u.ctl.fpc ∧ (i < 3 → (redirectUnit u t).regs.getK (56 + i) = u.ctl.factive.extractLsb' (32 * i) 32) ∧
    (i < 8 → (returnUnit (redirectUnit u t) t').regs.getK (56 + i) = u.regs.getK (56 + i)))

/-- R50, R51, R157, R169, R182, R244, R248, R254, R259, R262, R268, R283, R388 to R412, R419, R431: the events that read or write one register do what its read or write does, and
a read answers with the value; a field that clears on reading is 0 afterwards. A write that needs the Flask waits while a flip is in progress (R298; log entry 108).
What dw_data does to items that only read is read by inference (log entry 58). -/
def Obligations.RegisterEvents : Prop :=
  (∀ s die, let r := (s.die die).regs
    let ans (f : DieRegs → DieRegs) (v : Word) : Res := .next (reply (s.modRegs die f) (.reg (v.setWidth 64)))
    exec (.evLqErrRead die) s = ans (fun r => { r with lqErr := 0 }) r.lqErr ∧ exec (.evTrcLost die) s = ans (fun r => { r with trcLost := 0 }) r.trcLost ∧
    exec (.evMsgDrop die) s = ans (fun r => { r with msgDrop := 0 }) r.msgDrop ∧
    exec (.evSeCorr die) s = ans (fun r => { r with seCorr := r.seCorr &&& 0xF0000000 }) r.seCorr ∧
    exec (.evSeUnc die) s = ans (fun r => { r with seUnc := r.seUnc &&& 0xF0000000 }) r.seUnc ∧
    exec (.evTrcHead die) s = .next (reply (acquire s (sysWho die 0) 2) (.reg (r.trcHead.setWidth 64)))) ∧
  (∀ s die core, let c := s.coreClocks die core
    exec (.evCycLo die core) s = .next (reply (s.modCore die core (fun k => { k with cycHi := hiWord c })) (.reg ((loWord c).setWidth 64)))) ∧
  (∀ s die core u, let k := s.core die core
    let i := (k.ctrSel.extractLsb' 0 5).toNat
    selUnit s die core (k.ctrSel.extractLsb' 8 8).toNat = some u → i < 24 →
    let x := counterOf u (i / 2)
    (i % 2 = 0 → exec (.evCtrDataRead die core) s = .next (reply (s.modCore die core (fun k => { k with ctrOdd := some (hiWord x) })) (.reg ((loWord x).setWidth 64)))) ∧
    (i % 2 = 1 → exec (.evCtrDataRead die core) s = .next (reply (s.modCore die core (fun k => { k with ctrOdd := none })) (.reg ((k.ctrOdd.getD (hiWord x)).setWidth 64)))) ∧
    (∀ w, i / 2 ≠ 0 → exec (.evCtrDataWrite die core w) s = .next (s.modUnit u.place (fun u => u.modBook (fun b => { b with stalls := smSet 0 b.stalls (i / 2) 0 })))) ∧
    (∀ w, i / 2 = 0 → exec (.evCtrDataWrite die core w) s = .next (s.modUnit u.place (fun u => u.modBook (fun b => { b with retired := 0 }))))) ∧
  (∀ s die core u w, selUnit s die core ((s.core die core).dlySel.extractLsb' 16 8).toNat = some u →
    exec (.evDlyDataWrite die core w) s = .next (s.modUnit u.place (fun u => u.modBook (fun b => { b with inbox := { b.inbox with delays := [] } })))) ∧
  (∀ s d iss s0 j fin, Acts s { opds := [dst d .one] } iss s0 j fin →
    let now := (s0.die iss.p.die).time
    let ret := iss.u.book.retired
    let ends (g : Regs → Regs) (v : Nat) : State := fin (writeDst (withRegs s0 iss.p g) iss.u (dst d .one) j.lanes (j.lanes.map (fun _ => v)))
    exec (.evSfstatClr d) s = .next (ends (fun r => { r with fstat := 0 }) iss.u.regs.fstat.toNat) ∧
    exec (.evStimeLo d) s = .next (ends (fun r => { r with timeHi := BitVec.ofNat 32 (now.toNat / 2 ^ 32) }) (now.toNat % 2 ^ 32)) ∧
    exec (.evSretLo d) s = .next (ends (fun r => { r with retHi := BitVec.ofNat 32 (ret.toNat / 2 ^ 32) }) (ret.toNat % 2 ^ 32))) ∧
  (∀ s die core n w, 0x40 ≤ n → n < 0x100 → exec (.evSystemRegisterWrite die core n w) s = .next (writeReg s die core n w)) ∧
  (∀ s die quad n w, n < 8 → s.pkg.phase ≠ .hold → ((((s.quad die quad).mboxes.getD n Chan.empty).words.length < 16 →
      exec (.evMboxPush die quad n w) s = .next (s.modQuad die quad (fun q => { q with mboxes := modAt q.mboxes n (fun c => { c with words := c.words ++ [w] }) }))) ∧
    (16 ≤ ((s.quad die quad).mboxes.getD n Chan.empty).words.length →
      exec (.evMboxPush die quad n w) s = .next (s.modQuad die quad (fun q => { q with mboxOvf := q.mboxOvf ||| BitVec.ofNat 8 (2 ^ n) }))))) ∧
  (∀ s die quad (w : Word), deviceWaits s = true → exec (.evChanOwner die quad w) s = .next (waitReg s die (4 * quad) 0x81 w)) ∧
  (∀ s die quad (w : Word), deviceWaits s = false → let x := w &&& 0x1FFFF
    let a := evictJobs s die quad x
    let old := (a.quad die quad).chanOwner.extractLsb' 0 16
    let empty (c : Chan) : Chan := { c with words := [] }
    let b := if old = x.extractLsb' 0 16 then a else (saveQuadBlock a die quad old.toNat).modQuad die quad (fun q => { q with
      chans := q.chans.map empty, mboxes := q.mboxes.map empty, launders := q.launders.map (fun l => { l with cfg := 0, entries := [] }) })
    let c := b.modQuad die quad (fun q => { q with chanOwner := x })
    exec (.evChanOwner die quad w) s = .next (if x.getLsbD 16 then loadQuadBlock c die quad (x.extractLsb' 0 16).toNat else c)) ∧
  (∀ s die quad n (w : Word), let x := w &&& 0xB3FFFFFF
    let set (t : State) (f : Launder → Launder) : State := t.modQuad die quad (fun q => { q with launders := modAt q.launders n f })
    (w.getLsbD 31 = false → exec (.evLdrCfg die quad n w) s = .next (set (failWaiters s die quad n) (fun l => { l with cfg := x, entries := [] }))) ∧
    (w.getLsbD 31 = true → ldrRefused (s.quad die quad) n x = true → exec (.evLdrCfg die quad n w) s = .next (set s (fun l => { l with cfg := l.cfg ||| 0x40000000 }))) ∧
    (w.getLsbD 31 = true → ldrRefused (s.quad die quad) n x = false →
      exec (.evLdrCfg die quad n w) s = .next (set s (fun l => { l with cfg := x, entries := if l.cfg.getLsbD 31 then l.entries else [] })))) ∧
  (∀ s die (w : Word), exec (.evRdcCfg die w) s = .next ((s.modDie die (fun d => { d with rdc := [] })).modRegs die (fun r => { r with rdcCfg := w &&& 0x1F })) ∧
    exec (.evWaiterCfg die w) s = .next (if linked s die = [] then s.modRegs die (fun r => { r with waiterCfg := w }) else s) ∧
    exec (.evPortFrz die w) s = .next (serveHeld (s.modRegs die (fun r => { r with portFrz := r.portFrz &&& ~~~(w &&& 0x1F) }))) ∧
    ((s.die die).regs.monSel.extractLsb' 0 5 = 0 → exec (.evMonCfgWrite die w) s = .next (writeMon s die w)) ∧
    (let t := modPkg s (fun p => { p with pwrLim := w &&& 0x80000FFF })
     exec (.evNgateWrite die w) s = .next (if w.getLsbD 31 then wakeAll t else t)) ∧
    ((s.die die).disp.pre = none → exec (.evCtxPre die w) s = .next (startPre (s.modRegs die (fun r => { r with ctxPreSlot := (w.extractLsb' 0 11).toNat })) die (w.extractLsb' 0 11).toNat)) ∧
    ((s.die die).disp.pre ≠ none → exec (.evCtxPre die w) s = .next s) ∧
    (s.pkg.phase ≠ .hold → exec (.evLqBell die w) s = .next (if deviceWaits s then waitReg s die 0 0xC9 w else ringBell s die w))) ∧
  (∀ s die (w : Word), let slot := (w.extractLsb' 3 10).toNat
    let prio := (w.extractLsb' 0 3).toNat
    (slot < ctxCount s die → die < s.dies.length → (slot, prio) ∈ ((ringBell s die w).die die).disp.bells) ∧
    (∀ h ∈ ((ringBell s die w).die die).disp.heads, h.slot = slot → h.prio = prio → h.held = false)) ∧
  (∀ s die core, exec (.evStopRequest die core) s = .next (s.modCore die core (fun k => { k with stop := true })) ∧ exec (.evStopRelease die core) s = .next (stopRelease s die core)) ∧
  (∀ s die core u v w, (s.core die core).gated = false → let x := dwSelOf (s.core die core).dwSel
    let err (t : State) : State := t.modCore die core (fun k => { k with dwErr := true })
    let f : Fld := BitVec.ofNat 8 x.index
    selUnit s die core x.unit = some u → (x.space < 6 → inspectable u = false →
      exec (.evDwDataRead die core) s = .next (reply (err s) (.reg 0)) ∧ exec (.evDwDataWrite die core w) s = .next (err s)) ∧
    (inspectable u = true →
      (x.space = 4 → x.index = 0 → x.lane = 0 → v = u.regs.mode.toNat → exec (.evDwDataRead die core) s = .next (reply s (.reg (BitVec.ofNat 64 v)))) ∧
      (x.space = 4 → exec (.evDwDataWrite die core w) s = .next (if x.index < 3 then s else err s)) ∧
      (x.space = 0 → x.lane = 0 → isK f = true → (src f .one).kindOk u = true →
        exec (.evDwDataRead die core) s = .next (reply s (.reg ((u.regs.getK (f.toNat - 0x80)).setWidth 64))) ∧
        exec (.evDwDataWrite die core w) s = .next (withRegs s u.place (fun r => r.setKs (f.toNat - 0x80) [w.setWidth 32])))))

/-- R170, R295, R298, R299, R402, R405, R422 to R435: what happens at the package's edge: bring-up ends in the hold state or with firmware, requests are answered, links fail,
power is measured, cores are gated and woken, errors are counted. The layout of the attestation report, the port that a drift outside the bound names, that a step of
bring-up takes a clock and what a configuration-space read answers are the model's choices (log entries 29, 114, 128), and so is where a soft error strikes (log
entry 57). -/
def Obligations.PackageEvents : Prop :=
  (∀ s b, ∃ t, exec (.evPowerOn b) s = .next t ∧ t.pkg.booting = some b ∧ t.pkg.phase = .bringUp ∧ t.pkg.report.step = 1 ∧ t.pkg.report.state = 2 ∧ t.units = [] ∧
    t.pkg.keys = s.pkg.keys ∧ t.pkg.minVersion = s.pkg.minVersion) ∧
  (∀ s b, s.pkg.booting = some b → let k := s.pkg.report.step.toNat
    (∀ c, bringUpFault s.pkg b = some (k, c) → (advanceBoot s).pkg.phase = .hold ∧ (advanceBoot s).pkg.booting = none ∧ (advanceBoot s).pkg.report.state = 1 ∧
      (advanceBoot s).pkg.report.step = BitVec.ofNat 8 k ∧ (advanceBoot s).pkg.report.code = BitVec.ofNat 8 c ∧ (advanceBoot s).units = s.units) ∧
    ((∀ c, bringUpFault s.pkg b ≠ some (k, c)) → k < 7 → (advanceBoot s).pkg.report.step = BitVec.ofNat 8 (k + 1) ∧ (advanceBoot s).pkg.report.state = s.pkg.report.state ∧
      (advanceBoot s).pkg.phase = s.pkg.phase ∧ (advanceBoot s).units = s.units) ∧
    (∀ i, (∀ c, bringUpFault s.pkg b ≠ some (k, c)) → b.image = some i → k = 7 → s.units = [] →
      (advanceBoot s).pkg.phase = .running ∧ (advanceBoot s).pkg.booting = none ∧ (advanceBoot s).pkg.pkgNo = b.pkgNo ∧ (advanceBoot s).pkg.report.state = 0 ∧
      ∀ d < 4, ∀ c < 4, ∃ u, (advanceBoot s).unit? { die := d, core := 240 + c, unit := 0 } = some u ∧ u.engine = .sup ∧
        u.regs.getK 0 = BitVec.ofNat 32 d ∧ u.regs.getK 1 = BitVec.ofNat 32 c ∧ (u.slice 0).pc = BitVec.ofNat 64 (2 ^ 56 + paOf (advanceBoot s) 0 (i.place + i.entry)))) ∧
  (∀ p b, b.failStep = none → (b.image = none → bringUpFault p b = some (6, 5)) ∧
    (∀ i c, b.image = some i → imageFault p i = some c → bringUpFault p b = some (6, c)) ∧ (∀ i, b.image = some i → imageFault p i = none → bringUpFault p b = none)) ∧
  (∀ s, (s.pkg.portsDown.length < 16 → exec .evReportQuery s = .next (reply s (.report (reportBytes s.pkg.report)))) ∧
    (16 ≤ s.pkg.portsDown.length → exec .evReportQuery s = .next (reply s .silent)) ∧
    ∀ nonce, (s.pkg.phase ≠ .running → exec (.evAttestationRequest nonce) s = .next (reply s .silent)) ∧
      (manageable s = true → s.pkg.phase = .running → ∃ m, exec (.evAttestationRequest nonce) s = .next (reply s (.attest (m ++ Config.identitySign m))) ∧
        m.take 32 = bytesOf 32 nonce.toNat)) ∧
  (∀ s off, (s.pkg.cxlUp = true → ∃ x, configRead off s = reply { s with freeCount := s.freeCount + 1 } (.reg x)) ∧ (s.pkg.cxlUp = false → configRead off s = reply s .silent)) ∧
  (∀ s port r, s.pkg.phase = .running → (s.pkg.cxlUp = true → exec (.evHostRequest r) s = .next (acceptReq s none r)) ∧
    (port < 16 → port ∉ s.pkg.portsDown → exec (.evOlunRequest port r) s = .next (acceptReq s (some port) r))) ∧
  (∀ s src r x, portFrozen s src = false → s.pkg.heldReqs.any (·.leads s) = false → r.pa < 2 ^ 53 → serveReq s src r = some x → acceptReq s src r = x) ∧
  (∀ s port, port < 16 → exec (.evFlitFailure port) s = .next (modPkg s (fun p => { p with portsDown := if p.portsDown.contains port then p.portsDown else p.portsDown ++ [port] }))) ∧
  (∀ s pkg, ∃ t, exec (.evSilentPackage pkg) s = .next t ∧ pkg ∈ t.pkg.silent ∧ t.mem = s.mem ∧ t.units = s.units) ∧
  (∀ s line (wb : Option (BitVec 512)) f, s.flips.find? (fun f => f.left.contains line) = some f → f.left ≠ [line] → f.left.Nodup →
    let t := match wb with | some b => s.wr (64 * line) 64 b.toNat | none => s
    exec (.evBirspArrival line wb) s = .next { t with flips := t.flips.map (fun x => if x = f then { x with left := f.left.filter (fun y => decide (y ≠ line)) } else x) }) ∧
  (∀ s, s.flips = [] → s.pkg.heldReqs = [] → exec .evCxlLinkDown s = .next (modPkg s (fun p => { p with cxlUp := false, heldReqs := [] }))) ∧
  (∀ s die ns, let t := s.modDie die (fun d => { d with slew := d.slew + ns })
    (s.pkg.phase ≠ .running ∨ (t.die die).slew.natAbs ≤ 4 → exec (.evTimeCorrection die ns) s = .next t) ∧
    (s.pkg.phase = .running → 4 < (t.die die).slew.natAbs → ∃ n port, port < 16 ∧ exec (.evTimeCorrection die ns) s =
      .next (modPkg { t with freeCount := n } (fun p => { p with report := { p.report with state := 0, code := 1, unit := BitVec.ofNat 16 port } })))) ∧
  (∀ s (draw : BitVec 12), ∃ p, exec (.evPowerMeasurement draw) s = .next { s with pkg := p } ∧ p.draw = draw ∧
    (powerLimit s.pkg < draw.toNat → p.clk = max 500 (s.pkg.clk - 10)) ∧ (draw.toNat ≤ powerLimit s.pkg → powerLimit s.pkg ≤ draw.toNat + 50 → p.clk = s.pkg.clk)) ∧
  (∀ s die core, core < 240 → s.pkg.pwrLim.getLsbD 31 = false → (s.core die core).gated = false → coreIdle s die core = true →
    100000 ≤ (nowOf s die - (s.core die core).emptySince).toNat → ∃ t, exec (.evCoreGating die core) s = .next t ∧ (t.core die core).gated = true ∧ (t.core die core).l1 = []) ∧
  (∀ s die core, (s.core die core).gated = true → (s.core die core).waking ≠ none → ∃ t, exec (.evCoreWake die core) s = .next t ∧ (t.core die core).gated = false ∧
    ∀ k < 524288, t.byte (locLs die core 0 + k) = 0) ∧
  (∀ s (e : ErrInfo), let t := if e.counted || !e.corrected then countError s e else s
    (e.corrected = true → exec (.evSoftError e) s = .next t) ∧
    (e.corrected = false →
      (∀ p g u, e.met = .unit p g → t.unit? p = some u → u.gangSlices g ≠ [] →
        exec (.evSoftError e) s = .next (takeFault t (gangIssue u g) (faultVa .ecc e.addr) (gangIssue u g).lanes)) ∧
      (∀ id c, e.met = .cmd id → t.cmds.find? (fun c => decide (c.id = id)) = some c → exec (.evSoftError e) s = .next (eccCmd t c e.addr)) ∧
      (∀ id g, e.met = .decrement id → t.grids.find? (fun g => decide (g.id = id)) = some g → gridOver t g = true → g.held = none → g.done ≠ 0 →
        exec (.evSoftError e) s = .next (eccDecrement t g)) ∧
      (∀ core tag, e.met = .l1 core tag → exec (.evSoftError e) s = .next (t.modCore e.die core (fun k => { k with l1 := k.l1.map (markBad tag) }))) ∧
      (∀ tag, e.met = .l2 tag → exec (.evSoftError e) s = .next (t.modDie e.die (fun d => { d with l2 := d.l2.map (markBad tag) }))) ∧
      let report : State := sendPacket t e.die 0
        { cause := .ecc, halted := false, tx := false, asid := 0, imm := 0, kind := 9, place := 0, serial := 0, pc := 0, va := e.addr, unfinished := 0, detail := 0 }
      (∀ id l b r, e.met = .ray id l → batchOf t id = some b → b.ray? l = some r → exec (.evSoftError e) s = .next (eccRay t b r e.addr report)) ∧
      (e.met = .memory → exec (.evSoftError e) s = .next report)))

/-- R153, R155, R231, R258, R263 to R286, R365, R370, R468: the dispatcher's events, and those of commands and batches: each has its effect when what it waits for has
come. A step that needs the Flask or the queues waits while a flip is in progress, and steps of commands take places in one page queue (log entry 108). When a batch
spills is read by inference (log entry 47). -/
def Obligations.DispatcherEvents : Prop :=
  (∀ s die slot prio h, slot < ctxCount s die → prio < 8 → deviceWaits s = false → let s1 := if (hdrOfSlot s die slot).isNone then readHeader s die slot else adoptAll s die
    hdrOfSlot s1 die slot = some h → eligible s1 die h = true → (slot, prio) ∈ (s1.die die).disp.bells →
    (∀ hd t ok, headOf s1 die slot prio = some hd → recheck s1 die hd = (t, ok) →
      exec (.evLaunchQueueTake die slot prio) s = .next (if ok then dropBell t die slot prio else t)) ∧
    (headOf s1 die slot prio = none →
      (∀ t, openQueue s1 die slot prio = (t, none) → exec (.evLaunchQueueTake die slot prio) s = .next (dropBell t die slot prio)) ∧
      (∀ t q r va, openQueue s1 die slot prio = (t, some q) → sysRead t (dispWho die h.asid) (q.entryVa q.head) 8 = .ok (r, va) →
        exec (.evLaunchQueueTake die slot prio) s = .next (if va = 0 then dropBell r die slot prio else examineRec r die h prio (BitVec.ofNat 64 va))))) ∧
  (∀ s die slot prio, let q := readQueue s die slot prio
    (q.enabled = true → q.blockOk = true → q.count ≤ 2 ^ q.lsize → q.count ≠ 0 → openQueue s die slot prio = (s, some q)) ∧
    (q.enabled = false ∨ (q.blockOk = true ∧ q.count = 0) → openQueue s die slot prio = (s, none)) ∧
    (q.enabled = true → q.blockOk = false → openQueue s die slot prio = (stopQueue s die slot prio 3 0, none)) ∧
    (q.enabled = true → q.blockOk = true → 2 ^ q.lsize < q.count → openQueue s die slot prio = (stopQueue s die slot prio 4 0, none))) ∧
  (∀ s die asid va, (asid, va) ∈ (s.die die).disp.notes → die < s.dies.length → deviceWaits s = false → ∃ t, exec (.evDependenceNotification die asid va) s = .next t ∧ t.seq = s.seq + 1 ∧
    (t.die die).disp.heads = (s.die die).disp.heads.map (fun h => if h.asid = asid ∧ h.rec_.dep = va ∧ h.ready = false ∧ h.held = false then { h with ready := true, since := s.seq } else h)) ∧
  (∀ s die h s1, bestHead s die = some h → (gridsOn s die).length < 64 → deviceWaits s = false →
    (recheck s die h = (s1, false) → exec (.evConditionRead die h.slot h.prio) s = .next s1) ∧
    let start (t : State) (n : Nat) : State := let r := takeHead t die h; { r with grids := r.grids ++ [gridOf r die h n], seq := r.seq + 1 }
    (recheck s die h = (s1, true) → h.rec_.cond = 0 → exec (.evConditionRead die h.slot h.prio) s = .next (start s1 h.rec_.waves)) ∧
    (∀ s2 x, recheck s die h = (s1, true) → h.rec_.cond ≠ 0 → sysRead s1 (dispWho die h.asid) h.rec_.cond.toNat 4 = .ok (s2, x) →
      exec (.evConditionRead die h.slot h.prio) s = .next (if x ≠ 0 then start s2 h.rec_.waves else finishGrid (start s2 0) (gridOf (takeHead s2 die h) die h 0)))) ∧
  (∀ s die, let s1 := adoptAll s die
    let behind := (s1.die die).disp.behind
    (s1.die die).disp.placed = false → binDue s1 die = false → deviceWaits s1 = false →
    (∀ t, placeOne s1 die (fun a => !behind.contains a) = some t → exec (.evPlacement die) s = .next (notePlaced t die)) ∧
    (placeOne s1 die (fun a => !behind.contains a) = none →
      (∀ t, behind.findSome? (fun b => placeOne s1 die (fun a => decide (a = b))) = some t → exec (.evPlacement die) s = .next (notePlaced t die)) ∧
      ((∀ b ∈ behind, placeOne s1 die (fun a => decide (a = b)) = none) → exec (.evPlacement die) s = .next s1))) ∧
  (∀ s die, ((adoptAll s die).die die).disp.placed = true → exec (.evPlacement die) s = .next (adoptAll s die)) ∧
  (∀ s g c t, waveCore s g = some c → placeWave' s g = some t → ((s.core g.die c).gated = true → t = startWake s g.die c) ∧ ((s.core g.die c).gated = false →
    (∃ u ∈ t.units, u.place.die = g.die ∧ u.place.core = c ∧ u.engine = .wave ∧ u.ident.grid = some g.id ∧ u.ident.regs = g.regs ∧ u.ident.prio = g.prio ∧ u.ident.asid = g.asid ∧
      u.liveSlices ≠ [] ∧ ∀ i ∈ u.liveSlices, (u.slice i).pc = g.entry) ∨ ∃ f va, t = dispPacket (setGrid s { g with held := some f }) g.die g.asid f va g.recVa)) ∧
  (∀ s g, s.grids.find? (fun x => decide (x.id = g.id)) = some g → g.held = none → gridOver s g = true → deviceWaits s = false → exec (.evGridCompletion g.id) s = .next (finishGrid s g) ∧
    (g.done = 0 → ∀ x ∈ (finishGrid s g).grids, x.id ≠ g.id)) ∧
  (∀ s die slot t h, (s.die die).disp.slices.find? (fun t => decide (t.slot = slot)) = some t → hdrOfSlot s die slot = some h →
    (ctxUnits s die h.asid = [] → exec (.evSliceExpiry die slot) s = .next (s.modDisp die (fun d => { d with slices := d.slices.filter (fun x => decide (x.slot ≠ slot)) }))) ∧
    (ctxUnits s die h.asid ≠ [] → h.slice ≠ 0 → h.slice * 1000 ≤ (nowOf s die - t.started).toNat → (s.die die).disp.pre = none → deviceWaits s = false →
      let r := readHeader s die slot
      (othersWait r die h.asid = true → exec (.evSliceExpiry die slot) s =
        .next ((startPre r die slot).modDisp die (fun d => { d with behind := if d.behind.contains h.asid then d.behind else d.behind ++ [h.asid] }))) ∧
      (othersWait r die h.asid = false → exec (.evSliceExpiry die slot) s =
        .next (r.modDisp die (fun d => { d with slices := d.slices.map (fun x => if x.slot = slot then { x with started := nowOf s die } else x) }))))) ∧
  (∀ s die slot h, (s.die die).disp.pre = some slot → deviceWaits s = false → let s1 := beginPre s die slot
    hdrOfSlot s1 die slot = some h → exec (.evPreemptionComplete die) s =
      .next (if stillOn s1 die h.asid then (saveContext s1 die h).modDisp die (fun d => { d with pre := none }) else s1)) ∧
  (∀ s slot asid rest, (List.range 4).filterMap (fun d => (hdrOfSlot s d slot).map (·.asid)) = asid :: rest →
    let ds := diesOf s asid
    let s1 := ds.foldl (fun s d => stopRays s d asid) s
    let s2 := ds.foldl (fun s d => match ctxOf s d asid with | some h => saveContext s d h | none => s) s1
    let s3 := ds.foldl (fun s d => captureBlocks s d asid) s2
    ((∃ d ∈ ds, stillOn s1 d asid = false) → exec (.evCapture slot) s = .next s1) ∧
    ((∀ d ∈ ds, stillOn s1 d asid = true) → exec (.evCapture slot) s = .next (ds.foldl (fun s d => s.modDisp d (fun x =>
      { x with saved := x.saved.map (fun v => if v.asid = asid then { v with captured := true } else v) })) s3))) ∧
  (∀ s die quad bin, let b := (s.quad die quad).bins.getD bin Bin.reset
    (b.state = .filling → b.timer ≤ b.elapsed →
      exec (.evBinTimerExpiry die quad bin) s = .next (s.modQuad die quad (fun q => { q with bins := setAt q.bins bin { b with state := .launching } }))) ∧
    (∀ h c sl s1 ri, let t := needCtx s die b.asid
      binCore t die quad b = some (h, c, sl) → takeRec t die b.asid 1 = some (s1, ri) → ((s1.core die c).gated = true → exec (.evBinLaunch die quad bin) s = .next (startWake s1 die c)) ∧
      ((s1.core die c).gated = false → ∃ t u, exec (.evBinLaunch die quad bin) s = .next t ∧ u ∈ t.units ∧ u.place = { die := die, core := c, unit := sl } ∧
        u.engine = .wave ∧ u.ident.regs = b.regs ∧ u.ident.prio = b.prio ∧ u.liveSlices.length = min 24 ((b.recs.length + 3) / 4) ∧ ∀ i ∈ u.liveSlices, (u.slice i).pc = b.entry))) ∧
  (∀ s die core (mcc : Bool), let q : TaskQ := if 240 ≤ core then .sup die (core - 240) else if mcc then .mcc die (core / 4) else .core die core
    (∀ t, payRefusal s q = some t → exec (.evTaskDispatch die core mcc) s = .next t) ∧
    (payRefusal s q = none → let s1 := if deviceWaits s then s else needTaskCtxs s q
      (pickTask s1 q = none → exec (.evTaskDispatch die core mcc) s = .next s1) ∧
      (∀ i t p, pickTask s1 q = some (i, t, p) →
        (core < 240 → mcc = false → exec (.evTaskDispatch die core mcc) s = .next (dispatchTask s1 q p .swarm i t)) ∧
        (core < 240 → mcc = true → exec (.evTaskDispatch die core mcc) s = .next (dispatchTask s1 q p .mcc i t)) ∧
        (240 ≤ core → exec (.evTaskDispatch die core mcc) s = .next (dispatchSup s1 q p i t))))) ∧
  (∀ s q p (e : Engine) i t, (s.core p.die p.core).gated = false →
    let w : Who := { coreWho p.die p.core t.asid 0 with core := if e = .swarm then some p.core else none, acc := decide (e = .mcc) }
    let s0 := acquire (enterCore s p.die p.core t.asid t.lds) w (scopeAt w 0 t.scope)
    (∀ fp x, readFootprint s0 w t p = .fault fp x → dispatchTask s q p e i t = holdTask s0 q i t fp x) ∧
    (readFootprint s0 w t p = .refused → outbufFull s p.die p.core = false → dispatchTask s q p e i t = refuseTask (dropTask s0 q i) q t .operand)) ∧
  (∀ s id b, batchOf s id = some b → exec (.evBatchCompletion id) s = .next (if batchOver b && !deviceWaits s then finishBatch s b (batchCode b) else s) ∧
    (let run := b.rays.filter (fun r => decide (r.state = .running) || (decide (r.state = .waiting) && decide (r.stalled ≠ 0)))
     (run.any (fun r => r.starved b) = false ∨ run.all (fun r => r.stuck s b) = false → exec (.evStackSpill id) s = .next s) ∧
     ∀ r, run.any (fun r => r.starved b) = true → run.all (fun r => r.stuck s b) = true → mostEntries (b.rays.filter (fun r => !r.state.ended)) = some r →
      (r.ovfN = r.ovfCap → exec (.evStackSpill id) s = .next (rayFault s b r .trav 0)) ∧
      (∀ t r1, r.ovfN ≠ r.ovfCap → spillBlock s (whoBatch b) r = .ok (t, r1) → exec (.evStackSpill id) s = .next (setRay t id r1)) ∧
      (∀ x, r.ovfN ≠ r.ovfCap → spillBlock s (whoBatch b) r = .error x → exec (.evStackSpill id) s = .next (ownErr s b r x)))) ∧
  (∀ s id c, s.cmds.find? (fun c => decide (c.id = id)) = some c →
    let turn (f : State → State) : State :=
      pageTurn s (.cmd id) (fun a b => decide (a.cmds.find? (fun x => decide (x.id = id)) = b.cmds.find? (fun x => decide (x.id = id)))) f
    (c.state ≠ .running → exec (.evCommandBlock id) s = .next s) ∧
    (c.state = .running → c.img = none → exec (.evCommandBlock id) s = .next (turn (fun s => beginCmd s c))) ∧
    (c.state = .running → c.img.isSome = true → c.op = 6 → exec (.evCommandBlock id) s = .next (turn (fun s => runCollective s c))) ∧
    (c.state = .running → c.img.isSome = true → c.op ≠ 6 → exec (.evCommandBlock id) s = .next (turn (fun s => runPlain s c))) ∧
    (c.op ≠ 6 → ∀ t t', plainBlock s c c.next = .ok t → blockDone t c c.next = .ok t' → runPlain s c = t') ∧
    (∀ code, c.state = .done code → deviceWaits s = false → exec (.evTokenWrite id) s = .next (finishCmd s c code))) ∧
  (∀ s w stays f, (s.pkg.heldReqs = [] → deviceWaits s = false → deviceWaits (f s) = false → pageTurn s w stays f = f s) ∧
    (∀ x xs, s.pkg.heldReqs = x :: xs → x ≠ w → w ∈ xs → x.leads s = true → pageTurn s w stays f = s))

/-- R60, R140, R158, R159, R180, R226, R252, R261, R280, R348, R406, R415 to R420: what happens on cores and caches beside instructions: gangs are promoted and rejoin, fills and
write-throughs arrive, messages are delivered, sleeps end, the Riser is granted, comparators fire, samples are taken, halts and stops take effect. What a halt does to an irrevocable attempt, what a level monitor takes of a quad without an owner
and what a precise stop's record says of a unit are read by inference (log entries 61, 64, 104). -/
def Obligations.CoreEvents : Prop :=
  (∀ s p g u, s.unit? p = some u → 256 ≤ smGet 0 u.book.gwait g → u.book.promoted.contains g = false →
    exec (.evGangPromotion p g) s = .next (s.modUnit p (fun u => if 256 ≤ smGet 0 u.book.gwait g ∧ u.book.promoted.contains g = false then
      u.modBook (fun b => { b with promoted := b.promoted ++ [g] }) else u))) ∧
  (∀ s p u pc, s.unit? p = some u → u.isWave = true → u.ctl.run = .ready → u.liveSlices ≠ [] → (∀ i ∈ u.liveSlices, (u.slice i).atRegang = true ∧ (u.slice i).pc = pc) →
    exec (.evRegangRejoin p) s = .next (s.modUnit p rejoin)) ∧
  (∀ s p u, s.unit? p = some u → u.ctl.haltFlag = true → u.ctl.run = .ready →
    ((∀ j, s.jobOf p = some j → j.kind ≠ .load) → exec (.evHaltTakesEffect p) s = .next (leaveMatrix (endIrrevocable (s.modUnit p (fun v =>
        if v.ctl.haltFlag = true ∧ v.ctl.run = .ready then v.modCtl (fun c => { c with halted := true }) else v)) p) p) ∧
      (u.engine ≠ .mcc → (∀ l ∈ u.txLanes, (smGet LaneTx.idle u.tx l).irrev = false) →
        ∃ t, exec (.evHaltTakesEffect p) s = .next t ∧ t.unit? p = some (u.modCtl (fun c => { c with halted := true })))) ∧
    (∀ j, s.jobOf p = some j → j.kind = .load → u.ctl.halted = false → exec (.evHaltTakesEffect p) s = .next s)) ∧
  (∀ s die f fs, (s.die die).fills = f :: fs → exec (.evFillArrival die) s = .next (arriveFill (s.modDie die (fun d => { d with fills := fs })) die f)) ∧
  (∀ s die t i, ((s.die die).wts.find? (fun t => !t.arrived) = some t → exec (.evWriteThroughArrival die) s =
      .next ((meetHome die s t).modDie die (fun d => { d with wts := match d.wts.findIdx? (fun t => !t.arrived) with | some i => modAt d.wts i (fun t => { t with arrived := true }) | none => d.wts }))) ∧
    ((s.die die).wts.findIdx? (fun t => t.arrived) = some i → exec (.evWriteThroughAcknowledgement die) s = .next (s.modDie die (fun d => { d with wts := d.wts.eraseIdx i })))) ∧
  (∀ s die core it its, let r := runNet s
    outbufOf r die core = it :: its → (r.pkg.net.any it.sameSender = true → exec (.evMessageDelivery die core) s = .next r) ∧
    (r.pkg.net.any it.sameSender = false → (acceptItem r it = none → exec (.evMessageDelivery die core) s = .next r) ∧
      ∀ t, acceptItem r it = some t → exec (.evMessageDelivery die core) s = .next (modOutbuf t die core (·.drop 1)))) ∧
  (∀ s die core, exec (.evInputBufferDelivery die core) s =
      .next (deliverInbuf (if core < 240 then ((unitsOn s die core).filter (fun u => !u.book.saved.isEmpty)).foldl (fun s u => deliverSaved s u.place 64) s else s) die core)) ∧
  (∀ s die, exec (.evFaultPacketDelivery die) s = .next (deliverFaultBuf s die)) ∧
  (∀ s p g u, s.unit? p = some u → ∃ t v, exec (.evSleepTimeout p g) s = .next t ∧ t.unit? p = some v ∧ v.regs = u.regs ∧ v.book.sleeps.length = u.book.sleeps.length ∧
    ∀ z ∈ v.book.sleeps, z.gang = g → z.limit = true → z.until_.toNat ≤ (nowOf s p.die).toNat → z.woken = true) ∧
  (∀ s die x, (s.die die).riser = none → (s.die die).riserQ.find? (riserHolds s) = some x →
    exec (.evRiserGrant die) s = .next (s.modDie die (fun d => { d with riser := some x, riserQ := d.riserQ.filter (fun y => decide (y ≠ x)) }))) ∧
  (∀ s p g n c iss, issueAt s p g true = some iss → comparatorAt s iss = some (n, c) → iss.u.ctl.run = .ready →
    exec (.evComparatorFire p g n) s = .next (if c.ctl.getLsbD 29 then skipNext (fireRecord s iss n) iss
      else takeFault (skipNext (fireRecord s iss n) iss) iss { fault .bkpt with detail := BitVec.ofNat 64 (0x100 + n) } iss.lanes)) ∧
  (∀ s die core, (s.core die core).smpCfg.getLsbD 31 = true → samplePeriod (s.core die core).smpCfg ≤ (s.core die core).smpCount →
    let t := s.modCore die core (fun k => { k with smpCount := k.smpCount % samplePeriod k.smpCfg })
    (nextSampled (unitsOn t die core) (s.core die core).smpNext = none → exec (.evSampleRecord die core) s = .next t) ∧
    (∀ u, nextSampled (unitsOn t die core) (s.core die core).smpNext = some u → let r := t.modCore die core (fun k => { k with smpNext := (u.place.unit + 1) % 192 })
      exec (.evSampleRecord die core) s = .next (traceWrite r die 3 (traceRecord 3 (if u.book.issued = [] then unitRank r u else 0) (asidOf r u) (placeWord u.place (ownPkg r))
        (nowOf r die) (firstIssue u).pc u.activation.tag (senderSerial u))))) ∧
  (∀ s die core, (s.core die core).stop = true → (s.core die core).stopped = false → (∀ u ∈ unitsOn s die core, u.ident.act = none ∧ u.quiet = true) →
    ∃ r n, exec (.evPreciseStopReached die core) s = .next (traceWrite (({ s with freeCount := n } : State).modCore die core (fun k => { k with stopped := true })) die 5 r)) ∧
  (∀ s die m, let o := smGet [] (s.die die).mons m
    let p := levelPeriod (smGet 0 o 0)
    let ok (q : Nat) : Bool := ((s.quad die q).chanOwner.getLsbD 16 || (smGet 0 o 1).getLsbD 15) && monQualifies o 6 ((s.quad die q).chanOwner.extractLsb' 0 16).toNat q
    p ≤ smGet 0 (s.die die).monCount m → exec (.evMonitorLevelSample die m) s = .next (s.modDie die (fun d => { d with
      monCount := smPut d.monCount m (smGet 0 d.monCount m % p),
      mons := smSet [] d.mons m (((List.range 60).filter ok).foldl (fun x q => monUpdate x (levelOf (s.quad die q) (smGet 0 x 1))) o) }))) ∧
  (∀ s w iss, issueOf s (!wholeOpcode (w.extractLsb' 24 8).toNat) = some iss → exec (.evUnassignedOpcode w) s = .next (takeFault s iss (fault (wordFault iss.u w)) iss.lanes)) ∧
  (∀ s w b r, MicroRuns s false .both b r → exec (.evReservedMicroOperation w) s = .next (rayFault s b r .trav 0))
end

