-- ==== Sys2Proof/Laws/SMap.lean ====
section
/-! SUPPORT. The sparse map: a read after a write, and the canonical form. -/

namespace Sys2Proof.Machine

variable {β : Type}

@[simp] theorem smGet_nil (d : β) (k : Nat) : smGet d [] k = d := rfl

theorem smGet_smPut_same (d : β) (m : SMap β) (k : Nat) (v : β) : smGet d (smPut m k v) k = v := by
  induction m with
  | nil => simp [smPut, smGet]
  | cons e m ih =>
    obtain ⟨j, w⟩ := e
    simp only [smPut]
    split
    · simp [smGet]
    · split
      · simp [smGet, *]
      · simp [smGet, *]

theorem smGet_smPut_other (d : β) (m : SMap β) {k x : Nat} (v : β) (h : x ≠ k) : smGet d (smPut m k v) x = smGet d m x := by
  induction m with
  | nil => simp [smPut, smGet, h]
  | cons e m ih =>
    obtain ⟨j, w⟩ := e
    simp only [smPut]
    split
    · simp [smGet, h]
    · split
      · next hk => subst hk; simp [smGet, h]
      · simp [smGet, ih]

theorem smGet_smDel_same (d : β) (m : SMap β) (k : Nat) : smGet d (smDel m k) k = d := by
  induction m with
  | nil => rfl
  | cons e m ih =>
    obtain ⟨j, w⟩ := e
    by_cases hj : j = k
    · simpa [smDel, hj] using ih
    · simpa [smDel, hj, smGet, Ne.symm hj] using ih

theorem smGet_smDel_other (d : β) (m : SMap β) {k x : Nat} (h : x ≠ k) : smGet d (smDel m k) x = smGet d m x := by
  induction m with
  | nil => rfl
  | cons e m ih =>
    obtain ⟨j, w⟩ := e
    by_cases hj : j = k
    · subst hj; simpa [smDel, smGet, h] using ih
    · simp only [smDel, ne_eq, decide_not, List.filter_cons, hj, decide_false, Bool.not_false, if_true, smGet]
      split
      · rfl
      · simpa [smDel] using ih

variable [DecidableEq β]

@[simp] theorem smGet_smSet_same (d : β) (m : SMap β) (k : Nat) (v : β) : smGet d (smSet d m k v) k = v := by
  unfold smSet
  split
  · next h => rw [h, smGet_smDel_same]
  · exact smGet_smPut_same ..

theorem smGet_smSet_other (d : β) (m : SMap β) {k x : Nat} (v : β) (h : x ≠ k) : smGet d (smSet d m k v) x = smGet d m x := by
  unfold smSet
  split
  · exact smGet_smDel_other d m h
  · exact smGet_smPut_other d m v h

/-! ## The canonical form -/

theorem smWfFrom_mono {d : β} {lo lo' : Nat} {m : SMap β} (h : lo' ≤ lo) (hm : smWfFrom d lo m = true) : smWfFrom d lo' m = true := by
  cases m with
  | nil => rfl
  | cons e m => obtain ⟨j, w⟩ := e; simp only [smWfFrom, Bool.and_eq_true, decide_eq_true_eq] at hm ⊢; exact ⟨⟨by omega, hm.1.2⟩, hm.2⟩

theorem smWfFrom_smPut {d : β} {lo : Nat} {m : SMap β} {k : Nat} {v : β} (hm : smWfFrom d lo m = true) (hk : lo ≤ k) (hv : v ≠ d) :
    smWfFrom d lo (smPut m k v) = true := by
  induction m generalizing lo with
  | nil => simp [smPut, smWfFrom, hk, hv]
  | cons e m ih =>
    obtain ⟨j, w⟩ := e
    simp only [smWfFrom, Bool.and_eq_true, decide_eq_true_eq] at hm
    simp only [smPut]
    split
    · simp only [smWfFrom, Bool.and_eq_true, decide_eq_true_eq]; exact ⟨⟨hk, hv⟩, ⟨by omega, hm.1.2⟩, hm.2⟩
    · split
      · simp only [smWfFrom, Bool.and_eq_true, decide_eq_true_eq]; exact ⟨⟨hm.1.1, hv⟩, hm.2⟩
      · simp only [smWfFrom, Bool.and_eq_true, decide_eq_true_eq]; exact ⟨hm.1, ih hm.2 (by omega)⟩

theorem smWfFrom_filter {d : β} {lo : Nat} {m : SMap β} (p : Nat × β → Bool) (hm : smWfFrom d lo m = true) : smWfFrom d lo (m.filter p) = true := by
  induction m generalizing lo with
  | nil => rfl
  | cons e m ih =>
    obtain ⟨j, w⟩ := e
    simp only [smWfFrom, Bool.and_eq_true, decide_eq_true_eq] at hm
    by_cases hp : p (j, w) = true
    · simp only [List.filter_cons, hp, if_true, smWfFrom, Bool.and_eq_true, decide_eq_true_eq]; exact ⟨hm.1, ih hm.2⟩
    · simp only [List.filter_cons, hp, if_false, Bool.false_eq_true]; exact smWfFrom_mono (by omega) (ih hm.2)

theorem smWf_nil (d : β) : smWf d ([] : SMap β) = true := rfl

theorem smWf_filter {d : β} {m : SMap β} (p : Nat × β → Bool) (hm : smWf d m = true) : smWf d (m.filter p) = true := smWfFrom_filter p hm

/-- A write keeps the canonical form. -/
theorem smWf_smSet {d : β} {m : SMap β} (k : Nat) (v : β) (hm : smWf d m = true) : smWf d (smSet d m k v) = true := by
  unfold smSet
  split
  · exact smWf_filter _ hm
  · next h => exact smWfFrom_smPut hm (Nat.zero_le k) h

/-- Below the first key a canonical map reads as an unlisted key does. -/
theorem smGet_below {d : β} {lo k : Nat} {m : SMap β} (hm : smWfFrom d lo m = true) (hk : k < lo) : smGet d m k = d := by
  induction m generalizing lo with
  | nil => rfl
  | cons e m ih =>
    obtain ⟨j, w⟩ := e
    simp only [smWfFrom, Bool.and_eq_true, decide_eq_true_eq] at hm
    simp only [smGet]
    rw [if_neg (by omega)]
    exact ih hm.2 (by omega)

/-- Equal canonical maps are equal lists. -/
theorem smWf_ext {d : β} {m m' : SMap β} (hm : smWf d m = true) (hm' : smWf d m' = true) (h : ∀ k, smGet d m k = smGet d m' k) : m = m' := by
  suffices H : ∀ lo, smWfFrom d lo m = true → smWfFrom d lo m' = true → m = m' from H 0 hm hm'
  clear hm hm'
  induction m generalizing m' with
  | nil =>
    intro lo _ hm'
    cases m' with
    | nil => rfl
    | cons e m' =>
      obtain ⟨j, w⟩ := e
      simp only [smWfFrom, Bool.and_eq_true, decide_eq_true_eq] at hm'
      exact absurd (h j).symm (by simpa [smGet] using hm'.1.2)
  | cons e m ih =>
    obtain ⟨j, w⟩ := e
    intro lo hm hm'
    simp only [smWfFrom, Bool.and_eq_true, decide_eq_true_eq] at hm
    cases m' with
    | nil => exact absurd (h j) (by simpa [smGet] using hm.1.2)
    | cons e' m' =>
      obtain ⟨j', w'⟩ := e'
      simp only [smWfFrom, Bool.and_eq_true, decide_eq_true_eq] at hm'
      have hj : j = j' := by
        rcases Nat.lt_trichotomy j j' with hlt | heq | hgt
        · have := h j
          rw [show smGet d ((j', w') :: m') j = d by simp only [smGet]; rw [if_neg (by omega)]; exact smGet_below hm'.2 (by omega)] at this
          exact absurd this (by simpa [smGet] using hm.1.2)
        · exact heq
        · have := h j'
          rw [show smGet d ((j, w) :: m) j' = d by simp only [smGet]; rw [if_neg (by omega)]; exact smGet_below hm.2 (by omega)] at this
          exact absurd this.symm (by simpa [smGet] using hm'.1.2)
      subst hj
      have hw : w = w' := by simpa [smGet] using h j
      subst hw
      rw [ih (m' := m') (fun k => ?_) (j + 1) hm.2 hm'.2]
      by_cases hk : k = j
      · subst hk; rw [smGet_below hm.2 (by omega), smGet_below hm'.2 (by omega)]
      · simpa [smGet, hk] using h k

end Sys2Proof.Machine
end

