-- ==== Sys2Proof/Laws/State.lean ====
section
/-! SUPPORT. What each update of the state leaves as it was, field by field, and what it makes of the part it changes. -/

namespace Sys2Proof.Machine

/-! ## modUnit -/

@[simp] theorem State.modUnit_cur (s : State) (p : Place) (f : Unit → Unit) : (s.modUnit p f).cur = s.cur := rfl
@[simp] theorem State.modUnit_agenda (s : State) (p : Place) (f : Unit → Unit) : (s.modUnit p f).agenda = s.agenda := rfl
@[simp] theorem State.modUnit_freeCount (s : State) (p : Place) (f : Unit → Unit) : (s.modUnit p f).freeCount = s.freeCount := rfl
@[simp] theorem State.modUnit_seq (s : State) (p : Place) (f : Unit → Unit) : (s.modUnit p f).seq = s.seq := rfl
@[simp] theorem State.modUnit_pkg (s : State) (p : Place) (f : Unit → Unit) : (s.modUnit p f).pkg = s.pkg := rfl
@[simp] theorem State.modUnit_mem (s : State) (p : Place) (f : Unit → Unit) : (s.modUnit p f).mem = s.mem := rfl
@[simp] theorem State.modUnit_dies (s : State) (p : Place) (f : Unit → Unit) : (s.modUnit p f).dies = s.dies := rfl
@[simp] theorem State.modUnit_cores (s : State) (p : Place) (f : Unit → Unit) : (s.modUnit p f).cores = s.cores := rfl
@[simp] theorem State.modUnit_quads (s : State) (p : Place) (f : Unit → Unit) : (s.modUnit p f).quads = s.quads := rfl
@[simp] theorem State.modUnit_cmds (s : State) (p : Place) (f : Unit → Unit) : (s.modUnit p f).cmds = s.cmds := rfl
@[simp] theorem State.modUnit_batches (s : State) (p : Place) (f : Unit → Unit) : (s.modUnit p f).batches = s.batches := rfl
@[simp] theorem State.modUnit_grids (s : State) (p : Place) (f : Unit → Unit) : (s.modUnit p f).grids = s.grids := rfl
@[simp] theorem State.modUnit_flips (s : State) (p : Place) (f : Unit → Unit) : (s.modUnit p f).flips = s.flips := rfl
@[simp] theorem State.modUnit_serials (s : State) (p : Place) (f : Unit → Unit) : (s.modUnit p f).serials = s.serials := rfl
@[simp] theorem State.modUnit_forwards (s : State) (p : Place) (f : Unit → Unit) : (s.modUnit p f).forwards = s.forwards := rfl
@[simp] theorem State.modUnit_replies (s : State) (p : Place) (f : Unit → Unit) : (s.modUnit p f).replies = s.replies := rfl
@[simp] theorem State.modUnit_die (s : State) (p : Place) (f : Unit → Unit) (x : Nat) : (s.modUnit p f).die x = s.die x := rfl
@[simp] theorem State.modUnit_sup (s : State) (p : Place) (f : Unit → Unit) (x y : Nat) : (s.modUnit p f).sup x y = s.sup x y := rfl
@[simp] theorem State.modUnit_core (s : State) (p : Place) (f : Unit → Unit) (x y : Nat) : (s.modUnit p f).core x y = s.core x y := rfl
@[simp] theorem State.modUnit_quad (s : State) (p : Place) (f : Unit → Unit) (x y : Nat) : (s.modUnit p f).quad x y = s.quad x y := rfl
@[simp] theorem State.modUnit_byte (s : State) (p : Place) (f : Unit → Unit) (x : Nat) : (s.modUnit p f).byte x = s.byte x := rfl
@[simp] theorem State.modUnit_rd (s : State) (p : Place) (f : Unit → Unit) (x y : Nat) : (s.modUnit p f).rd x y = s.rd x y := rfl

/-! ## dropUnit -/

@[simp] theorem State.dropUnit_cur (s : State) (p : Place) : (s.dropUnit p).cur = s.cur := rfl
@[simp] theorem State.dropUnit_agenda (s : State) (p : Place) : (s.dropUnit p).agenda = s.agenda := rfl
@[simp] theorem State.dropUnit_freeCount (s : State) (p : Place) : (s.dropUnit p).freeCount = s.freeCount := rfl
@[simp] theorem State.dropUnit_seq (s : State) (p : Place) : (s.dropUnit p).seq = s.seq := rfl
@[simp] theorem State.dropUnit_pkg (s : State) (p : Place) : (s.dropUnit p).pkg = s.pkg := rfl
@[simp] theorem State.dropUnit_mem (s : State) (p : Place) : (s.dropUnit p).mem = s.mem := rfl
@[simp] theorem State.dropUnit_dies (s : State) (p : Place) : (s.dropUnit p).dies = s.dies := rfl
@[simp] theorem State.dropUnit_cores (s : State) (p : Place) : (s.dropUnit p).cores = s.cores := rfl
@[simp] theorem State.dropUnit_quads (s : State) (p : Place) : (s.dropUnit p).quads = s.quads := rfl
@[simp] theorem State.dropUnit_cmds (s : State) (p : Place) : (s.dropUnit p).cmds = s.cmds := rfl
@[simp] theorem State.dropUnit_batches (s : State) (p : Place) : (s.dropUnit p).batches = s.batches := rfl
@[simp] theorem State.dropUnit_grids (s : State) (p : Place) : (s.dropUnit p).grids = s.grids := rfl
@[simp] theorem State.dropUnit_flips (s : State) (p : Place) : (s.dropUnit p).flips = s.flips := rfl
@[simp] theorem State.dropUnit_serials (s : State) (p : Place) : (s.dropUnit p).serials = s.serials := rfl
@[simp] theorem State.dropUnit_forwards (s : State) (p : Place) : (s.dropUnit p).forwards = s.forwards := rfl
@[simp] theorem State.dropUnit_replies (s : State) (p : Place) : (s.dropUnit p).replies = s.replies := rfl
@[simp] theorem State.dropUnit_die (s : State) (p : Place) (x : Nat) : (s.dropUnit p).die x = s.die x := rfl
@[simp] theorem State.dropUnit_sup (s : State) (p : Place) (x y : Nat) : (s.dropUnit p).sup x y = s.sup x y := rfl
@[simp] theorem State.dropUnit_core (s : State) (p : Place) (x y : Nat) : (s.dropUnit p).core x y = s.core x y := rfl
@[simp] theorem State.dropUnit_quad (s : State) (p : Place) (x y : Nat) : (s.dropUnit p).quad x y = s.quad x y := rfl
@[simp] theorem State.dropUnit_byte (s : State) (p : Place) (x : Nat) : (s.dropUnit p).byte x = s.byte x := rfl
@[simp] theorem State.dropUnit_rd (s : State) (p : Place) (x y : Nat) : (s.dropUnit p).rd x y = s.rd x y := rfl

/-! ## modCore -/

@[simp] theorem State.modCore_cur (s : State) (d c : Nat) (f : Core → Core) : (s.modCore d c f).cur = s.cur := rfl
@[simp] theorem State.modCore_agenda (s : State) (d c : Nat) (f : Core → Core) : (s.modCore d c f).agenda = s.agenda := rfl
@[simp] theorem State.modCore_freeCount (s : State) (d c : Nat) (f : Core → Core) : (s.modCore d c f).freeCount = s.freeCount := rfl
@[simp] theorem State.modCore_seq (s : State) (d c : Nat) (f : Core → Core) : (s.modCore d c f).seq = s.seq := rfl
@[simp] theorem State.modCore_pkg (s : State) (d c : Nat) (f : Core → Core) : (s.modCore d c f).pkg = s.pkg := rfl
@[simp] theorem State.modCore_mem (s : State) (d c : Nat) (f : Core → Core) : (s.modCore d c f).mem = s.mem := rfl
@[simp] theorem State.modCore_dies (s : State) (d c : Nat) (f : Core → Core) : (s.modCore d c f).dies = s.dies := rfl
@[simp] theorem State.modCore_quads (s : State) (d c : Nat) (f : Core → Core) : (s.modCore d c f).quads = s.quads := rfl
@[simp] theorem State.modCore_units (s : State) (d c : Nat) (f : Core → Core) : (s.modCore d c f).units = s.units := rfl
@[simp] theorem State.modCore_cmds (s : State) (d c : Nat) (f : Core → Core) : (s.modCore d c f).cmds = s.cmds := rfl
@[simp] theorem State.modCore_batches (s : State) (d c : Nat) (f : Core → Core) : (s.modCore d c f).batches = s.batches := rfl
@[simp] theorem State.modCore_grids (s : State) (d c : Nat) (f : Core → Core) : (s.modCore d c f).grids = s.grids := rfl
@[simp] theorem State.modCore_flips (s : State) (d c : Nat) (f : Core → Core) : (s.modCore d c f).flips = s.flips := rfl
@[simp] theorem State.modCore_serials (s : State) (d c : Nat) (f : Core → Core) : (s.modCore d c f).serials = s.serials := rfl
@[simp] theorem State.modCore_forwards (s : State) (d c : Nat) (f : Core → Core) : (s.modCore d c f).forwards = s.forwards := rfl
@[simp] theorem State.modCore_replies (s : State) (d c : Nat) (f : Core → Core) : (s.modCore d c f).replies = s.replies := rfl
@[simp] theorem State.modCore_die (s : State) (d c : Nat) (f : Core → Core) (x : Nat) : (s.modCore d c f).die x = s.die x := rfl
@[simp] theorem State.modCore_sup (s : State) (d c : Nat) (f : Core → Core) (x y : Nat) : (s.modCore d c f).sup x y = s.sup x y := rfl
@[simp] theorem State.modCore_quad (s : State) (d c : Nat) (f : Core → Core) (x y : Nat) : (s.modCore d c f).quad x y = s.quad x y := rfl
@[simp] theorem State.modCore_unitOf (s : State) (d c : Nat) (f : Core → Core) (x : Place) : (s.modCore d c f).unit? x = s.unit? x := rfl
@[simp] theorem State.modCore_byte (s : State) (d c : Nat) (f : Core → Core) (x : Nat) : (s.modCore d c f).byte x = s.byte x := rfl
@[simp] theorem State.modCore_rd (s : State) (d c : Nat) (f : Core → Core) (x y : Nat) : (s.modCore d c f).rd x y = s.rd x y := rfl

/-! ## modQuad -/

@[simp] theorem State.modQuad_cur (s : State) (d q : Nat) (f : Quad → Quad) : (s.modQuad d q f).cur = s.cur := rfl
@[simp] theorem State.modQuad_agenda (s : State) (d q : Nat) (f : Quad → Quad) : (s.modQuad d q f).agenda = s.agenda := rfl
@[simp] theorem State.modQuad_freeCount (s : State) (d q : Nat) (f : Quad → Quad) : (s.modQuad d q f).freeCount = s.freeCount := rfl
@[simp] theorem State.modQuad_seq (s : State) (d q : Nat) (f : Quad → Quad) : (s.modQuad d q f).seq = s.seq := rfl
@[simp] theorem State.modQuad_pkg (s : State) (d q : Nat) (f : Quad → Quad) : (s.modQuad d q f).pkg = s.pkg := rfl
@[simp] theorem State.modQuad_mem (s : State) (d q : Nat) (f : Quad → Quad) : (s.modQuad d q f).mem = s.mem := rfl
@[simp] theorem State.modQuad_dies (s : State) (d q : Nat) (f : Quad → Quad) : (s.modQuad d q f).dies = s.dies := rfl
@[simp] theorem State.modQuad_cores (s : State) (d q : Nat) (f : Quad → Quad) : (s.modQuad d q f).cores = s.cores := rfl
@[simp] theorem State.modQuad_units (s : State) (d q : Nat) (f : Quad → Quad) : (s.modQuad d q f).units = s.units := rfl
@[simp] theorem State.modQuad_cmds (s : State) (d q : Nat) (f : Quad → Quad) : (s.modQuad d q f).cmds = s.cmds := rfl
@[simp] theorem State.modQuad_batches (s : State) (d q : Nat) (f : Quad → Quad) : (s.modQuad d q f).batches = s.batches := rfl
@[simp] theorem State.modQuad_grids (s : State) (d q : Nat) (f : Quad → Quad) : (s.modQuad d q f).grids = s.grids := rfl
@[simp] theorem State.modQuad_flips (s : State) (d q : Nat) (f : Quad → Quad) : (s.modQuad d q f).flips = s.flips := rfl
@[simp] theorem State.modQuad_serials (s : State) (d q : Nat) (f : Quad → Quad) : (s.modQuad d q f).serials = s.serials := rfl
@[simp] theorem State.modQuad_forwards (s : State) (d q : Nat) (f : Quad → Quad) : (s.modQuad d q f).forwards = s.forwards := rfl
@[simp] theorem State.modQuad_replies (s : State) (d q : Nat) (f : Quad → Quad) : (s.modQuad d q f).replies = s.replies := rfl
@[simp] theorem State.modQuad_die (s : State) (d q : Nat) (f : Quad → Quad) (x : Nat) : (s.modQuad d q f).die x = s.die x := rfl
@[simp] theorem State.modQuad_sup (s : State) (d q : Nat) (f : Quad → Quad) (x y : Nat) : (s.modQuad d q f).sup x y = s.sup x y := rfl
@[simp] theorem State.modQuad_core (s : State) (d q : Nat) (f : Quad → Quad) (x y : Nat) : (s.modQuad d q f).core x y = s.core x y := rfl
@[simp] theorem State.modQuad_unitOf (s : State) (d q : Nat) (f : Quad → Quad) (x : Place) : (s.modQuad d q f).unit? x = s.unit? x := rfl
@[simp] theorem State.modQuad_byte (s : State) (d q : Nat) (f : Quad → Quad) (x : Nat) : (s.modQuad d q f).byte x = s.byte x := rfl
@[simp] theorem State.modQuad_rd (s : State) (d q : Nat) (f : Quad → Quad) (x y : Nat) : (s.modQuad d q f).rd x y = s.rd x y := rfl

/-! ## modDie -/

@[simp] theorem State.modDie_cur (s : State) (d : Nat) (f : Die → Die) : (s.modDie d f).cur = s.cur := rfl
@[simp] theorem State.modDie_agenda (s : State) (d : Nat) (f : Die → Die) : (s.modDie d f).agenda = s.agenda := rfl
@[simp] theorem State.modDie_freeCount (s : State) (d : Nat) (f : Die → Die) : (s.modDie d f).freeCount = s.freeCount := rfl
@[simp] theorem State.modDie_seq (s : State) (d : Nat) (f : Die → Die) : (s.modDie d f).seq = s.seq := rfl
@[simp] theorem State.modDie_pkg (s : State) (d : Nat) (f : Die → Die) : (s.modDie d f).pkg = s.pkg := rfl
@[simp] theorem State.modDie_mem (s : State) (d : Nat) (f : Die → Die) : (s.modDie d f).mem = s.mem := rfl
@[simp] theorem State.modDie_cores (s : State) (d : Nat) (f : Die → Die) : (s.modDie d f).cores = s.cores := rfl
@[simp] theorem State.modDie_quads (s : State) (d : Nat) (f : Die → Die) : (s.modDie d f).quads = s.quads := rfl
@[simp] theorem State.modDie_units (s : State) (d : Nat) (f : Die → Die) : (s.modDie d f).units = s.units := rfl
@[simp] theorem State.modDie_cmds (s : State) (d : Nat) (f : Die → Die) : (s.modDie d f).cmds = s.cmds := rfl
@[simp] theorem State.modDie_batches (s : State) (d : Nat) (f : Die → Die) : (s.modDie d f).batches = s.batches := rfl
@[simp] theorem State.modDie_grids (s : State) (d : Nat) (f : Die → Die) : (s.modDie d f).grids = s.grids := rfl
@[simp] theorem State.modDie_flips (s : State) (d : Nat) (f : Die → Die) : (s.modDie d f).flips = s.flips := rfl
@[simp] theorem State.modDie_serials (s : State) (d : Nat) (f : Die → Die) : (s.modDie d f).serials = s.serials := rfl
@[simp] theorem State.modDie_forwards (s : State) (d : Nat) (f : Die → Die) : (s.modDie d f).forwards = s.forwards := rfl
@[simp] theorem State.modDie_replies (s : State) (d : Nat) (f : Die → Die) : (s.modDie d f).replies = s.replies := rfl
@[simp] theorem State.modDie_core (s : State) (d : Nat) (f : Die → Die) (x y : Nat) : (s.modDie d f).core x y = s.core x y := rfl
@[simp] theorem State.modDie_quad (s : State) (d : Nat) (f : Die → Die) (x y : Nat) : (s.modDie d f).quad x y = s.quad x y := rfl
@[simp] theorem State.modDie_unitOf (s : State) (d : Nat) (f : Die → Die) (x : Place) : (s.modDie d f).unit? x = s.unit? x := rfl
@[simp] theorem State.modDie_byte (s : State) (d : Nat) (f : Die → Die) (x : Nat) : (s.modDie d f).byte x = s.byte x := rfl
@[simp] theorem State.modDie_rd (s : State) (d : Nat) (f : Die → Die) (x y : Nat) : (s.modDie d f).rd x y = s.rd x y := rfl

/-! ## modSup -/

@[simp] theorem State.modSup_cur (s : State) (d i : Nat) (f : SupCore → SupCore) : (s.modSup d i f).cur = s.cur := rfl
@[simp] theorem State.modSup_agenda (s : State) (d i : Nat) (f : SupCore → SupCore) : (s.modSup d i f).agenda = s.agenda := rfl
@[simp] theorem State.modSup_freeCount (s : State) (d i : Nat) (f : SupCore → SupCore) : (s.modSup d i f).freeCount = s.freeCount := rfl
@[simp] theorem State.modSup_seq (s : State) (d i : Nat) (f : SupCore → SupCore) : (s.modSup d i f).seq = s.seq := rfl
@[simp] theorem State.modSup_pkg (s : State) (d i : Nat) (f : SupCore → SupCore) : (s.modSup d i f).pkg = s.pkg := rfl
@[simp] theorem State.modSup_mem (s : State) (d i : Nat) (f : SupCore → SupCore) : (s.modSup d i f).mem = s.mem := rfl
@[simp] theorem State.modSup_cores (s : State) (d i : Nat) (f : SupCore → SupCore) : (s.modSup d i f).cores = s.cores := rfl
@[simp] theorem State.modSup_quads (s : State) (d i : Nat) (f : SupCore → SupCore) : (s.modSup d i f).quads = s.quads := rfl
@[simp] theorem State.modSup_units (s : State) (d i : Nat) (f : SupCore → SupCore) : (s.modSup d i f).units = s.units := rfl
@[simp] theorem State.modSup_cmds (s : State) (d i : Nat) (f : SupCore → SupCore) : (s.modSup d i f).cmds = s.cmds := rfl
@[simp] theorem State.modSup_batches (s : State) (d i : Nat) (f : SupCore → SupCore) : (s.modSup d i f).batches = s.batches := rfl
@[simp] theorem State.modSup_grids (s : State) (d i : Nat) (f : SupCore → SupCore) : (s.modSup d i f).grids = s.grids := rfl
@[simp] theorem State.modSup_flips (s : State) (d i : Nat) (f : SupCore → SupCore) : (s.modSup d i f).flips = s.flips := rfl
@[simp] theorem State.modSup_serials (s : State) (d i : Nat) (f : SupCore → SupCore) : (s.modSup d i f).serials = s.serials := rfl
@[simp] theorem State.modSup_forwards (s : State) (d i : Nat) (f : SupCore → SupCore) : (s.modSup d i f).forwards = s.forwards := rfl
@[simp] theorem State.modSup_replies (s : State) (d i : Nat) (f : SupCore → SupCore) : (s.modSup d i f).replies = s.replies := rfl
@[simp] theorem State.modSup_core (s : State) (d i : Nat) (f : SupCore → SupCore) (x y : Nat) : (s.modSup d i f).core x y = s.core x y := rfl
@[simp] theorem State.modSup_quad (s : State) (d i : Nat) (f : SupCore → SupCore) (x y : Nat) : (s.modSup d i f).quad x y = s.quad x y := rfl
@[simp] theorem State.modSup_unitOf (s : State) (d i : Nat) (f : SupCore → SupCore) (x : Place) : (s.modSup d i f).unit? x = s.unit? x := rfl
@[simp] theorem State.modSup_byte (s : State) (d i : Nat) (f : SupCore → SupCore) (x : Nat) : (s.modSup d i f).byte x = s.byte x := rfl
@[simp] theorem State.modSup_rd (s : State) (d i : Nat) (f : SupCore → SupCore) (x y : Nat) : (s.modSup d i f).rd x y = s.rd x y := rfl

/-! ## wrBytes -/

@[simp] theorem State.wrBytes_cur (s : State) (loc : Nat) (bs : List Byte) : (s.wrBytes loc bs).cur = s.cur := rfl
@[simp] theorem State.wrBytes_agenda (s : State) (loc : Nat) (bs : List Byte) : (s.wrBytes loc bs).agenda = s.agenda := rfl
@[simp] theorem State.wrBytes_freeCount (s : State) (loc : Nat) (bs : List Byte) : (s.wrBytes loc bs).freeCount = s.freeCount := rfl
@[simp] theorem State.wrBytes_seq (s : State) (loc : Nat) (bs : List Byte) : (s.wrBytes loc bs).seq = s.seq := rfl
@[simp] theorem State.wrBytes_pkg (s : State) (loc : Nat) (bs : List Byte) : (s.wrBytes loc bs).pkg = s.pkg := rfl
@[simp] theorem State.wrBytes_dies (s : State) (loc : Nat) (bs : List Byte) : (s.wrBytes loc bs).dies = s.dies := rfl
@[simp] theorem State.wrBytes_cores (s : State) (loc : Nat) (bs : List Byte) : (s.wrBytes loc bs).cores = s.cores := rfl
@[simp] theorem State.wrBytes_quads (s : State) (loc : Nat) (bs : List Byte) : (s.wrBytes loc bs).quads = s.quads := rfl
@[simp] theorem State.wrBytes_units (s : State) (loc : Nat) (bs : List Byte) : (s.wrBytes loc bs).units = s.units := rfl
@[simp] theorem State.wrBytes_cmds (s : State) (loc : Nat) (bs : List Byte) : (s.wrBytes loc bs).cmds = s.cmds := rfl
@[simp] theorem State.wrBytes_batches (s : State) (loc : Nat) (bs : List Byte) : (s.wrBytes loc bs).batches = s.batches := rfl
@[simp] theorem State.wrBytes_grids (s : State) (loc : Nat) (bs : List Byte) : (s.wrBytes loc bs).grids = s.grids := rfl
@[simp] theorem State.wrBytes_flips (s : State) (loc : Nat) (bs : List Byte) : (s.wrBytes loc bs).flips = s.flips := rfl
@[simp] theorem State.wrBytes_serials (s : State) (loc : Nat) (bs : List Byte) : (s.wrBytes loc bs).serials = s.serials := rfl
@[simp] theorem State.wrBytes_forwards (s : State) (loc : Nat) (bs : List Byte) : (s.wrBytes loc bs).forwards = s.forwards := rfl
@[simp] theorem State.wrBytes_replies (s : State) (loc : Nat) (bs : List Byte) : (s.wrBytes loc bs).replies = s.replies := rfl
@[simp] theorem State.wrBytes_die (s : State) (loc : Nat) (bs : List Byte) (x : Nat) : (s.wrBytes loc bs).die x = s.die x := rfl
@[simp] theorem State.wrBytes_sup (s : State) (loc : Nat) (bs : List Byte) (x y : Nat) : (s.wrBytes loc bs).sup x y = s.sup x y := rfl
@[simp] theorem State.wrBytes_core (s : State) (loc : Nat) (bs : List Byte) (x y : Nat) : (s.wrBytes loc bs).core x y = s.core x y := rfl
@[simp] theorem State.wrBytes_quad (s : State) (loc : Nat) (bs : List Byte) (x y : Nat) : (s.wrBytes loc bs).quad x y = s.quad x y := rfl
@[simp] theorem State.wrBytes_unitOf (s : State) (loc : Nat) (bs : List Byte) (x : Place) : (s.wrBytes loc bs).unit? x = s.unit? x := rfl

/-! ## wr -/

@[simp] theorem State.wr_cur (s : State) (loc n v : Nat) : (s.wr loc n v).cur = s.cur := rfl
@[simp] theorem State.wr_agenda (s : State) (loc n v : Nat) : (s.wr loc n v).agenda = s.agenda := rfl
@[simp] theorem State.wr_freeCount (s : State) (loc n v : Nat) : (s.wr loc n v).freeCount = s.freeCount := rfl
@[simp] theorem State.wr_seq (s : State) (loc n v : Nat) : (s.wr loc n v).seq = s.seq := rfl
@[simp] theorem State.wr_pkg (s : State) (loc n v : Nat) : (s.wr loc n v).pkg = s.pkg := rfl
@[simp] theorem State.wr_dies (s : State) (loc n v : Nat) : (s.wr loc n v).dies = s.dies := rfl
@[simp] theorem State.wr_cores (s : State) (loc n v : Nat) : (s.wr loc n v).cores = s.cores := rfl
@[simp] theorem State.wr_quads (s : State) (loc n v : Nat) : (s.wr loc n v).quads = s.quads := rfl
@[simp] theorem State.wr_units (s : State) (loc n v : Nat) : (s.wr loc n v).units = s.units := rfl
@[simp] theorem State.wr_cmds (s : State) (loc n v : Nat) : (s.wr loc n v).cmds = s.cmds := rfl
@[simp] theorem State.wr_batches (s : State) (loc n v : Nat) : (s.wr loc n v).batches = s.batches := rfl
@[simp] theorem State.wr_grids (s : State) (loc n v : Nat) : (s.wr loc n v).grids = s.grids := rfl
@[simp] theorem State.wr_flips (s : State) (loc n v : Nat) : (s.wr loc n v).flips = s.flips := rfl
@[simp] theorem State.wr_serials (s : State) (loc n v : Nat) : (s.wr loc n v).serials = s.serials := rfl
@[simp] theorem State.wr_forwards (s : State) (loc n v : Nat) : (s.wr loc n v).forwards = s.forwards := rfl
@[simp] theorem State.wr_replies (s : State) (loc n v : Nat) : (s.wr loc n v).replies = s.replies := rfl
@[simp] theorem State.wr_die (s : State) (loc n v : Nat) (x : Nat) : (s.wr loc n v).die x = s.die x := rfl
@[simp] theorem State.wr_sup (s : State) (loc n v : Nat) (x y : Nat) : (s.wr loc n v).sup x y = s.sup x y := rfl
@[simp] theorem State.wr_core (s : State) (loc n v : Nat) (x y : Nat) : (s.wr loc n v).core x y = s.core x y := rfl
@[simp] theorem State.wr_quad (s : State) (loc n v : Nat) (x y : Nat) : (s.wr loc n v).quad x y = s.quad x y := rfl
@[simp] theorem State.wr_unitOf (s : State) (loc n v : Nat) (x : Place) : (s.wr loc n v).unit? x = s.unit? x := rfl

/-! ## zeroRange -/

@[simp] theorem State.zeroRange_cur (s : State) (base n : Nat) : (s.zeroRange base n).cur = s.cur := rfl
@[simp] theorem State.zeroRange_agenda (s : State) (base n : Nat) : (s.zeroRange base n).agenda = s.agenda := rfl
@[simp] theorem State.zeroRange_freeCount (s : State) (base n : Nat) : (s.zeroRange base n).freeCount = s.freeCount := rfl
@[simp] theorem State.zeroRange_seq (s : State) (base n : Nat) : (s.zeroRange base n).seq = s.seq := rfl
@[simp] theorem State.zeroRange_pkg (s : State) (base n : Nat) : (s.zeroRange base n).pkg = s.pkg := rfl
@[simp] theorem State.zeroRange_dies (s : State) (base n : Nat) : (s.zeroRange base n).dies = s.dies := rfl
@[simp] theorem State.zeroRange_cores (s : State) (base n : Nat) : (s.zeroRange base n).cores = s.cores := rfl
@[simp] theorem State.zeroRange_quads (s : State) (base n : Nat) : (s.zeroRange base n).quads = s.quads := rfl
@[simp] theorem State.zeroRange_units (s : State) (base n : Nat) : (s.zeroRange base n).units = s.units := rfl
@[simp] theorem State.zeroRange_cmds (s : State) (base n : Nat) : (s.zeroRange base n).cmds = s.cmds := rfl
@[simp] theorem State.zeroRange_batches (s : State) (base n : Nat) : (s.zeroRange base n).batches = s.batches := rfl
@[simp] theorem State.zeroRange_grids (s : State) (base n : Nat) : (s.zeroRange base n).grids = s.grids := rfl
@[simp] theorem State.zeroRange_flips (s : State) (base n : Nat) : (s.zeroRange base n).flips = s.flips := rfl
@[simp] theorem State.zeroRange_serials (s : State) (base n : Nat) : (s.zeroRange base n).serials = s.serials := rfl
@[simp] theorem State.zeroRange_forwards (s : State) (base n : Nat) : (s.zeroRange base n).forwards = s.forwards := rfl
@[simp] theorem State.zeroRange_replies (s : State) (base n : Nat) : (s.zeroRange base n).replies = s.replies := rfl
@[simp] theorem State.zeroRange_die (s : State) (base n : Nat) (x : Nat) : (s.zeroRange base n).die x = s.die x := rfl
@[simp] theorem State.zeroRange_sup (s : State) (base n : Nat) (x y : Nat) : (s.zeroRange base n).sup x y = s.sup x y := rfl
@[simp] theorem State.zeroRange_core (s : State) (base n : Nat) (x y : Nat) : (s.zeroRange base n).core x y = s.core x y := rfl
@[simp] theorem State.zeroRange_quad (s : State) (base n : Nat) (x y : Nat) : (s.zeroRange base n).quad x y = s.quad x y := rfl
@[simp] theorem State.zeroRange_unitOf (s : State) (base n : Nat) (x : Place) : (s.zeroRange base n).unit? x = s.unit? x := rfl

/-! ## tickSeq -/

@[simp] theorem State.tickSeq_cur (s : State) : (s.tickSeq).cur = s.cur := rfl
@[simp] theorem State.tickSeq_agenda (s : State) : (s.tickSeq).agenda = s.agenda := rfl
@[simp] theorem State.tickSeq_freeCount (s : State) : (s.tickSeq).freeCount = s.freeCount := rfl
@[simp] theorem State.tickSeq_pkg (s : State) : (s.tickSeq).pkg = s.pkg := rfl
@[simp] theorem State.tickSeq_mem (s : State) : (s.tickSeq).mem = s.mem := rfl
@[simp] theorem State.tickSeq_dies (s : State) : (s.tickSeq).dies = s.dies := rfl
@[simp] theorem State.tickSeq_cores (s : State) : (s.tickSeq).cores = s.cores := rfl
@[simp] theorem State.tickSeq_quads (s : State) : (s.tickSeq).quads = s.quads := rfl
@[simp] theorem State.tickSeq_units (s : State) : (s.tickSeq).units = s.units := rfl
@[simp] theorem State.tickSeq_cmds (s : State) : (s.tickSeq).cmds = s.cmds := rfl
@[simp] theorem State.tickSeq_batches (s : State) : (s.tickSeq).batches = s.batches := rfl
@[simp] theorem State.tickSeq_grids (s : State) : (s.tickSeq).grids = s.grids := rfl
@[simp] theorem State.tickSeq_flips (s : State) : (s.tickSeq).flips = s.flips := rfl
@[simp] theorem State.tickSeq_serials (s : State) : (s.tickSeq).serials = s.serials := rfl
@[simp] theorem State.tickSeq_forwards (s : State) : (s.tickSeq).forwards = s.forwards := rfl
@[simp] theorem State.tickSeq_replies (s : State) : (s.tickSeq).replies = s.replies := rfl
@[simp] theorem State.tickSeq_die (s : State) (x : Nat) : (s.tickSeq).die x = s.die x := rfl
@[simp] theorem State.tickSeq_sup (s : State) (x y : Nat) : (s.tickSeq).sup x y = s.sup x y := rfl
@[simp] theorem State.tickSeq_core (s : State) (x y : Nat) : (s.tickSeq).core x y = s.core x y := rfl
@[simp] theorem State.tickSeq_quad (s : State) (x y : Nat) : (s.tickSeq).quad x y = s.quad x y := rfl
@[simp] theorem State.tickSeq_unitOf (s : State) (x : Place) : (s.tickSeq).unit? x = s.unit? x := rfl
@[simp] theorem State.tickSeq_byte (s : State) (x : Nat) : (s.tickSeq).byte x = s.byte x := rfl
@[simp] theorem State.tickSeq_rd (s : State) (x y : Nat) : (s.tickSeq).rd x y = s.rd x y := rfl

/-! ## Units -/

theorem State.unit?_place {s : State} {p : Place} {u : Unit} (h : s.unit? p = some u) : u.place = p := by
  simpa using List.find?_some h

theorem State.unit?_mem {s : State} {p : Place} {u : Unit} (h : s.unit? p = some u) : u ∈ s.units := List.mem_of_find?_eq_some h

/-- The unit at a place after a change of it that keeps its place. -/
theorem State.unit?_modUnit_same {s : State} {p : Place} {f : Unit → Unit} (hf : ∀ u, (f u).place = u.place) :
    (s.modUnit p f).unit? p = (s.unit? p).map f := by
  simp only [State.unit?, State.modUnit]
  induction s.units with
  | nil => rfl
  | cons u us ih =>
    by_cases h : u.place = p
    · simp [h, hf]
    · simp only [List.map_cons, h, if_false, List.find?_cons, decide_false, ih]

/-- A unit elsewhere. -/
theorem State.unit?_modUnit_other {s : State} {p q : Place} {f : Unit → Unit} (hf : ∀ u, (f u).place = u.place) (h : q ≠ p) :
    (s.modUnit p f).unit? q = s.unit? q := by
  simp only [State.unit?, State.modUnit]
  induction s.units with
  | nil => rfl
  | cons u us ih =>
    by_cases hp : u.place = p
    · simp [hp, hf, Ne.symm h, ih]
    · by_cases hq : u.place = q
      · simp [hq, h]
      · simp only [List.map_cons, hp, if_false, List.find?_cons, hq, decide_false, ih]

/-- Two changes of one unit are one change. -/
theorem State.modUnit_modUnit (s : State) (p : Place) {f : Unit → Unit} (g : Unit → Unit) (hf : ∀ u, (f u).place = u.place) :
    (s.modUnit p f).modUnit p g = s.modUnit p (fun u => g (f u)) := by
  simp only [State.modUnit, List.map_map]
  congr 1
  apply List.map_congr_left
  intro u _
  by_cases h : u.place = p
  · simp [h, hf]
  · simp [h]

/-! ## The fields of a unit -/

@[simp] theorem Unit.modRegs_place (u : Unit) (f : Regs → Regs) : (u.modRegs f).place = u.place := rfl
@[simp] theorem Unit.modRegs_ident (u : Unit) (f : Regs → Regs) : (u.modRegs f).ident = u.ident := rfl
@[simp] theorem Unit.modRegs_regs (u : Unit) (f : Regs → Regs) : (u.modRegs f).regs = f u.regs := rfl
@[simp] theorem Unit.modRegs_slices (u : Unit) (f : Regs → Regs) : (u.modRegs f).slices = u.slices := rfl
@[simp] theorem Unit.modRegs_tx (u : Unit) (f : Regs → Regs) : (u.modRegs f).tx = u.tx := rfl
@[simp] theorem Unit.modRegs_tickets (u : Unit) (f : Regs → Regs) : (u.modRegs f).tickets = u.tickets := rfl
@[simp] theorem Unit.modRegs_ctl (u : Unit) (f : Regs → Regs) : (u.modRegs f).ctl = u.ctl := rfl
@[simp] theorem Unit.modRegs_book (u : Unit) (f : Regs → Regs) : (u.modRegs f).book = u.book := rfl
@[simp] theorem Unit.modCtl_place (u : Unit) (f : Control → Control) : (u.modCtl f).place = u.place := rfl
@[simp] theorem Unit.modCtl_ident (u : Unit) (f : Control → Control) : (u.modCtl f).ident = u.ident := rfl
@[simp] theorem Unit.modCtl_regs (u : Unit) (f : Control → Control) : (u.modCtl f).regs = u.regs := rfl
@[simp] theorem Unit.modCtl_slices (u : Unit) (f : Control → Control) : (u.modCtl f).slices = u.slices := rfl
@[simp] theorem Unit.modCtl_tx (u : Unit) (f : Control → Control) : (u.modCtl f).tx = u.tx := rfl
@[simp] theorem Unit.modCtl_tickets (u : Unit) (f : Control → Control) : (u.modCtl f).tickets = u.tickets := rfl
@[simp] theorem Unit.modCtl_ctl (u : Unit) (f : Control → Control) : (u.modCtl f).ctl = f u.ctl := rfl
@[simp] theorem Unit.modCtl_book (u : Unit) (f : Control → Control) : (u.modCtl f).book = u.book := rfl
@[simp] theorem Unit.modBook_place (u : Unit) (f : Book → Book) : (u.modBook f).place = u.place := rfl
@[simp] theorem Unit.modBook_ident (u : Unit) (f : Book → Book) : (u.modBook f).ident = u.ident := rfl
@[simp] theorem Unit.modBook_regs (u : Unit) (f : Book → Book) : (u.modBook f).regs = u.regs := rfl
@[simp] theorem Unit.modBook_slices (u : Unit) (f : Book → Book) : (u.modBook f).slices = u.slices := rfl
@[simp] theorem Unit.modBook_tx (u : Unit) (f : Book → Book) : (u.modBook f).tx = u.tx := rfl
@[simp] theorem Unit.modBook_tickets (u : Unit) (f : Book → Book) : (u.modBook f).tickets = u.tickets := rfl
@[simp] theorem Unit.modBook_ctl (u : Unit) (f : Book → Book) : (u.modBook f).ctl = u.ctl := rfl
@[simp] theorem Unit.modBook_book (u : Unit) (f : Book → Book) : (u.modBook f).book = f u.book := rfl
@[simp] theorem Unit.modIdent_place (u : Unit) (f : Ident → Ident) : (u.modIdent f).place = u.place := rfl
@[simp] theorem Unit.modIdent_ident (u : Unit) (f : Ident → Ident) : (u.modIdent f).ident = f u.ident := rfl
@[simp] theorem Unit.modIdent_regs (u : Unit) (f : Ident → Ident) : (u.modIdent f).regs = u.regs := rfl
@[simp] theorem Unit.modIdent_slices (u : Unit) (f : Ident → Ident) : (u.modIdent f).slices = u.slices := rfl
@[simp] theorem Unit.modIdent_tx (u : Unit) (f : Ident → Ident) : (u.modIdent f).tx = u.tx := rfl
@[simp] theorem Unit.modIdent_tickets (u : Unit) (f : Ident → Ident) : (u.modIdent f).tickets = u.tickets := rfl
@[simp] theorem Unit.modIdent_ctl (u : Unit) (f : Ident → Ident) : (u.modIdent f).ctl = u.ctl := rfl
@[simp] theorem Unit.modIdent_book (u : Unit) (f : Ident → Ident) : (u.modIdent f).book = u.book := rfl

/-! ## Cores, quads and dies -/

theorem State.core_modCore_same (s : State) (d c : Nat) (f : Core → Core) : (s.modCore d c f).core d c = f (s.core d c) := by
  simp [State.core, State.modCore, smGet_smPut_same]

theorem State.core_modCore_other (s : State) {d c d' c' : Nat} (f : Core → Core) (h : coreKey d' c' ≠ coreKey d c) : (s.modCore d c f).core d' c' = s.core d' c' := by
  simp [State.core, State.modCore, smGet_smPut_other _ _ _ h]

theorem State.quad_modQuad_same (s : State) (d q : Nat) (f : Quad → Quad) : (s.modQuad d q f).quad d q = f (s.quad d q) := by
  simp [State.quad, State.modQuad, smGet_smPut_same]

theorem State.quad_modQuad_other (s : State) {d q d' q' : Nat} (f : Quad → Quad) (h : quadKey d' q' ≠ quadKey d q) : (s.modQuad d q f).quad d' q' = s.quad d' q' := by
  simp [State.quad, State.modQuad, smGet_smPut_other _ _ _ h]

theorem getD_modAt_same {α : Type} (d : α) (xs : List α) (i : Nat) (f : α → α) (h : i < xs.length) : (modAt xs i f).getD i d = f (xs.getD i d) := by
  induction xs generalizing i with
  | nil => simp at h
  | cons x xs ih => cases i with
    | zero => simp [modAt]
    | succ i => simpa [modAt] using ih i (by simpa using h)

theorem getD_modAt_other {α : Type} (d : α) (xs : List α) {i j : Nat} (f : α → α) (h : j ≠ i) : (modAt xs i f).getD j d = xs.getD j d := by
  induction xs generalizing i j with
  | nil => simp [modAt]
  | cons x xs ih =>
    cases i with
    | zero => cases j with
      | zero => exact absurd rfl h
      | succ j => simp [modAt]
    | succ i => cases j with
      | zero => simp [modAt]
      | succ j => simpa [modAt] using ih (i := i) (j := j) (by omega)

@[simp] theorem length_modAt {α : Type} (xs : List α) (i : Nat) (f : α → α) : (modAt xs i f).length = xs.length := by
  induction xs generalizing i with
  | nil => rfl
  | cons x xs ih => cases i <;> simp [modAt, ih]

@[simp] theorem length_setAt {α : Type} (xs : List α) (i : Nat) (y : α) : (setAt xs i y).length = xs.length := by
  induction xs generalizing i with
  | nil => rfl
  | cons x xs ih => cases i <;> simp [setAt, ih]

theorem State.die_modDie_same (s : State) {d : Nat} (f : Die → Die) (h : d < s.dies.length) : (s.modDie d f).die d = f (s.die d) := getD_modAt_same _ _ _ f h

theorem State.die_modDie_other (s : State) {d d' : Nat} (f : Die → Die) (h : d' ≠ d) : (s.modDie d f).die d' = s.die d' := getD_modAt_other _ _ f h

end Sys2Proof.Machine
end

