-- ==== Sys2Proof/Laws/Memory.lean ====
section
/-! SUPPORT. Memory by location: every operation keeps the canonical form, and a write changes the bytes it names and no others. -/

namespace Sys2Proof.Machine

theorem wf_memWrite {m : SMap Byte} (loc : Nat) (bs : List Byte) (h : Memory.wf m = true) : Memory.wf (memWrite m loc bs) = true := by
  induction bs generalizing m loc with
  | nil => exact h
  | cons b bs ih => exact ih _ (smWf_smSet _ _ h)

theorem wf_memWriteMask {m : SMap Byte} (loc mask n v : Nat) (h : Memory.wf m = true) : Memory.wf (memWriteMask m loc mask n v) = true := by
  induction n generalizing m loc mask v with
  | zero => exact h
  | succ n ih =>
    unfold memWriteMask
    apply ih
    split
    · exact smWf_smSet _ _ h
    · exact h

theorem State.wf_wrBytes {s : State} (loc : Nat) (bs : List Byte) (h : Memory.wf s.mem = true) : Memory.wf (s.wrBytes loc bs).mem = true := wf_memWrite _ _ h
theorem State.wf_wr {s : State} (loc n v : Nat) (h : Memory.wf s.mem = true) : Memory.wf (s.wr loc n v).mem = true := wf_memWrite _ _ h
theorem State.wf_zeroRange {s : State} (base n : Nat) (h : Memory.wf s.mem = true) : Memory.wf (s.zeroRange base n).mem = true := smWf_filter _ h
theorem State.wf_setBias {s : State} (pa code : Nat) (h : Memory.wf s.mem = true) : Memory.wf (setBias s pa code).mem = true := State.wf_wr _ _ _ h

theorem State.wf_putLine {s : State} (loc : Nat) (m : BitVec 128) (b : BitVec 1024) (h : Memory.wf s.mem = true) : Memory.wf (s.putLine loc m b).mem = true := by
  unfold State.putLine
  split
  · exact h
  · exact wf_memWriteMask _ _ _ _ h

/-! ## Reading after writing -/

theorem smGet_memWrite_outside (m : SMap Byte) {loc x : Nat} {bs : List Byte} (h : x < loc ∨ loc + bs.length ≤ x) : smGet 0 (memWrite m loc bs) x = smGet 0 m x := by
  induction bs generalizing m loc with
  | nil => rfl
  | cons b bs ih =>
    rw [memWrite, ih _ (by simp only [List.length_cons] at h; omega)]
    exact smGet_smSet_other _ _ _ (by simp only [List.length_cons] at h; omega)

theorem smGet_memWrite_inside (m : SMap Byte) (loc : Nat) {i : Nat} {bs : List Byte} (h : i < bs.length) : smGet 0 (memWrite m loc bs) (loc + i) = bs.getD i 0 := by
  induction bs generalizing m loc i with
  | nil => simp at h
  | cons b bs ih =>
    cases i with
    | zero => rw [memWrite, smGet_memWrite_outside _ (by omega)]; simp
    | succ i =>
      have := ih (smSet 0 m loc b) (loc + 1) (i := i) (by simpa using h)
      simpa [memWrite, Nat.add_assoc, Nat.add_comm 1 i] using this

@[simp] theorem length_bytesOf (n x : Nat) : (bytesOf n x).length = n := by
  induction n generalizing x with
  | zero => rfl
  | succ n ih => simp [bytesOf, ih]

theorem getD_bytesOf {n i : Nat} (x : Nat) (h : i < n) : (bytesOf n x).getD i 0 = BitVec.ofNat 8 (x / 256 ^ i) := by
  induction n generalizing x i with
  | zero => omega
  | succ n ih =>
    cases i with
    | zero => simp [bytesOf]
    | succ i =>
      have := ih (x / 256) (i := i) (by omega)
      simpa [bytesOf, Nat.div_div_eq_div_mul, Nat.pow_succ, Nat.mul_comm] using this

/-- Bytes that a write does not name keep their values. -/
theorem State.byte_wr_outside (s : State) {loc n v x : Nat} (h : x < loc ∨ loc + n ≤ x) : (s.wr loc n v).byte x = s.byte x :=
  smGet_memWrite_outside _ (by simpa using h)

/-- The bytes that a write names hold its number, lowest byte first (R2). -/
theorem State.byte_wr_inside (s : State) (loc : Nat) {n i : Nat} (v : Nat) (h : i < n) : (s.wr loc n v).byte (loc + i) = BitVec.ofNat 8 (v / 256 ^ i) := by
  rw [State.byte, State.wr, State.wrBytes, smGet_memWrite_inside _ _ (by simpa using h), getD_bytesOf _ h]

end Sys2Proof.Machine
end

