-- ==== Sys2Proof/Laws/Frame.lean ====
section
/-! SUPPORT. The frame of an instruction, said once: what an issue does under each of the conditions of the vocabulary. -/

namespace Sys2Proof.Machine

open Sys2Proof.Spec

@[simp] theorem doomLanes_nil (s : State) (p : Place) (c : Nat) : doomLanes s p [] c = s := rfl

/-- The lanes that an unlogged instruction would doom: none outside transactions. -/
theorem doomed_none {s : State} {d : Desc} {iss : Issue} (h : MayRun s d iss) :
    (if d.unlogged = true then iss.lanes.filter (fun l => iss.u.txLanes.contains l) else []) = [] := by
  split
  · next hu => simp [h.logged hu]
  · rfl

/-- A check of R63 that fails is all that the instruction does. -/
theorem frame_checks {s : State} {d : Desc} {iss : Issue} {c : Cause} (body : Issue → State → Run) (hi : issueOf s d.guarded = some iss)
    (hc : checks iss.u d = some c) : frame s d body = .next (takeFault s iss (fault c) iss.lanes) := by
  simp only [frame, hi, hc]

/-- A register that holds a pending token makes the gang wait (R48). -/
theorem frame_pending {s : State} {d : Desc} {iss : Issue} (body : Issue → State → Run) (hi : issueOf s d.guarded = some iss) (hc : checks iss.u d = none)
    (hp : waitsToken s iss d = true) : frame s d body = .next (blocked s iss .token iss.lanes) := by
  simp only [frame, hi, hc, hp, if_true]

/-- No agent, no instruction. -/
theorem frame_none {s : State} {d : Desc} (body : Issue → State → Run) (hi : issueOf s d.guarded = none) : frame s d body = .fault .noAgent := by
  simp only [frame, hi]

/-- Without completed tokens among its registers an instruction only runs. -/
theorem withTokens_fresh {s : State} {d : Desc} {iss : Issue} (run : State → Run) (h : dueTokens iss d = []) : withTokens s iss d run = run s := by
  simp [withTokens, h]

/-- The uniform unit is not touched by an instruction that does not use it (R281). -/
theorem useUniform_other {s : State} {d : Desc} {iss : Issue} (h : usesUniform iss d = false) : useUniform s iss d = s := by
  simp [useUniform, h]

/-- Only an instruction whose operands are all uniform uses the uniform unit, once for its strand. -/
theorem usesUniform_lanes {d : Desc} {iss : Issue} (h : allUniform iss.u d.opds = false) : usesUniform iss d = false := by
  simp [usesUniform, h]

theorem usesUniform_shared {d : Desc} {iss : Issue} (h : iss.shared.isSome = true ∨ iss.lanes = []) : usesUniform iss d = false := by
  rcases h with h | h
  · simp [usesUniform, Option.isNone_eq_false_iff.mpr h]
  · simp [usesUniform, h]

theorem usesUniform_perGang {d : Desc} {iss : Issue} (h : d.perGang = true) (ha : d.always = false) : usesUniform iss d = false := by
  simp [usesUniform, h, ha]

/-- An instruction that runs lane by lane, or whose gang each execute it. -/
theorem frame_runs {s : State} {d : Desc} {iss : Issue} (body : Issue → State → Run) (h : Runs s d iss) (hu : allUniform iss.u d.opds = false ∨ d.perGang = true)
    (ha : iss.lanes ≠ [] ∨ d.always = true) : frame s d body = .next (settleRun iss d (issueBody s iss d body)) := by
  have h1 : (allUniform iss.u d.opds && !d.perGang) = false := by rcases hu with h | h <;> simp [h]
  have h2 : (iss.lanes.isEmpty && !d.always) = false := by rcases ha with h | h <;> simp [h]
  simp only [frame, h.issue, h.checked, h.settled, h.free, withTokens_fresh _ h.fresh, Bool.not_true, doomed_none h.toMayRun, Bool.false_eq_true, if_false, doomLanes_nil, List.contains_nil, Bool.not_false, List.filter_true, h1, h2]

/-- A gang none of whose lanes is active passes an instruction that needs one. -/
theorem frame_idle {s : State} {d : Desc} {iss : Issue} (body : Issue → State → Run) (h : Runs s d iss) (hu : allUniform iss.u d.opds = false ∨ d.perGang = true)
    (he : iss.lanes = []) (ha : d.always = false) : frame s d body = .next (complete s iss false) := by
  have h1 : (allUniform iss.u d.opds && !d.perGang) = false := by rcases hu with h | h <;> simp [h]
  obtain ⟨u, g, is, pc, ls⟩ := iss
  subst he
  simp only [frame, h.issue, h.checked, h.settled, h.free, withTokens_fresh _ h.fresh, Bool.not_true, doomed_none h.toMayRun, Bool.false_eq_true, if_false, doomLanes_nil, List.contains_nil, Bool.not_false, List.filter_true, h1,
    List.isEmpty_nil, ha, Bool.and_true, if_true]

theorem queueUses_none {u : Unit} {d : Desc} (n : Nat) (h : NoQueues d) : queueUses u d.opds n = [] := by
  simp only [queueUses, List.flatMap_eq_nil_iff]
  intro o ho
  cases hq : isQ o.f with
  | false => simp
  | true => cases u.chanOf o.f <;> simp [h o ho hq]

theorem queueFault_none {s : State} {u : Unit} {d : Desc} (n : Nat) (h : NoQueues d) : queueFault s u d.opds n = none := by
  have h1 : d.opds.any (fun o => isQ o.f && (o.rd || o.wr) && (u.chanOf o.f).isNone) = false := by
    simp only [List.any_eq_false]
    intro o ho
    cases hq : isQ o.f with
    | false => simp
    | true => simp [h o ho hq]
  simp [queueFault, h1, queueUses_none n h]

theorem issueBody_plain {s : State} {d : Desc} {iss : Issue} (body : Issue → State → Run) (h : NoQueues d) : issueBody s iss d body = body iss s := by
  simp [issueBody, queueFault_none _ h, queueUses_none _ h]

/-- Without an active lane no queue is touched (R64, R245). -/
theorem issueBody_idle {s : State} {d : Desc} {iss : Issue} (body : Issue → State → Run) (h : iss.lanes = []) : issueBody s iss d body = body iss s := by
  simp [issueBody, h]

theorem issueBody_ready {s : State} {d : Desc} {iss : Issue} (body : Issue → State → Run) (hl : iss.lanes ≠ []) (hf : queueFault s iss.u d.opds iss.lanes.length = none)
    (hr : queueReady s iss.u iss.gang (queueUses iss.u d.opds iss.lanes.length) = true) {t : State}
    (hb : body iss (if (queueUses iss.u d.opds iss.lanes.length).isEmpty then s else queueUnblock s iss.u iss.gang (queueUses iss.u d.opds iss.lanes.length)) = .ok t) :
    issueBody s iss d body = .ok t := by
  have he : iss.lanes.isEmpty = false := by simpa using hl
  simp only [issueBody, he, Bool.false_eq_true, if_false, hf, hr, if_true]
  split
  · next he => simpa [he] using hb
  · next he => simp only [he, Bool.false_eq_true, if_false] at hb; simp only [hb]

theorem settle_ok {iss : Issue} {d : Desc} {t : State} (h : d.holds = false) : settleRun iss d (.ok t) = ends iss d t := by
  simp [settleRun, h, ends]

/-- An instruction that runs lane by lane leaves the uniform unit alone. -/
theorem ends_lanes {s t : State} {d : Desc} {iss : Issue} (h : RunsPlain s d iss) (ha : d.always = false) : ends iss d t = complete t iss d.moves := by
  rw [ends, useUniform_other]
  rcases h.perLane with h | h
  · exact usesUniform_lanes h
  · exact usesUniform_perGang h ha

/-- The effect of a plain issue that ends well is its body's, and the gang completes. -/
theorem frame_plain {s t : State} {d : Desc} {iss : Issue} {body : Issue → State → Run} (h : RunsPlain s d iss) (hh : d.holds = false) (hb : body iss s = .ok t) :
    frame s d body = .next (ends iss d t) := by
  rw [frame_runs body h.toRuns h.perLane h.active, issueBody_plain body h.noQueue, hb, settle_ok hh]

/-- A plain issue that takes a fault. -/
theorem frame_plain_fault {s t : State} {d : Desc} {iss : Issue} {body : Issue → State → Run} {f : FaultInfo} {ls : List Nat} (h : RunsPlain s d iss)
    (hb : body iss s = .error (.flt f ls t)) : frame s d body = .next (takeFault t iss f ls) := by
  rw [frame_runs body h.toRuns h.perLane h.active, issueBody_plain body h.noQueue, hb]; rfl

/-- A plain issue that waits. -/
theorem frame_plain_wait {s t : State} {d : Desc} {iss : Issue} {body : Issue → State → Run} {r : Stall} {ls : List Nat} (h : RunsPlain s d iss)
    (hb : body iss s = .error (.wait r ls t)) : frame s d body = .next (blocked t iss r ls) := by
  rw [frame_runs body h.toRuns h.perLane h.active, issueBody_plain body h.noQueue, hb]; rfl

/-- A uniform instruction that another gang of the strand has executed is passed (R31). -/
theorem frame_shared {s : State} {d : Desc} {iss : Issue} (body : Issue → State → Run) (h : RunsUniform s d iss) (hh : d.holds = false)
    (hs : iss.shared.isSome = true ∨ iss.lanes = []) : frame s d body = .next (complete (countPass s iss) iss d.moves) := by
  have h3 : (iss.shared.isSome || iss.lanes.isEmpty) = true := by rcases hs with h | h <;> simp [h]
  simp only [frame, h.issue, h.checked, h.settled, h.free, withTokens_fresh _ h.fresh, Bool.not_true, doomed_none h.toMayRun, Bool.false_eq_true, if_false, doomLanes_nil, List.contains_nil, Bool.not_false, List.filter_true,
    h.uniform, h.once, Bool.and_self, if_true, uniformBody, h3]
  rw [settle_ok hh, ends, useUniform_other (usesUniform_shared hs)]

/-- A uniform instruction executes once, in one active lane of its strand. -/
theorem frame_uniform {s t : State} {d : Desc} {iss : Issue} {body : Issue → State → Run} (h : RunsUniform s d iss) (hh : d.holds = false)
    (hs : iss.shared = none) (ha : iss.lanes ≠ []) (hb : body { iss with lanes := iss.uniLane d } s = .ok t) :
    frame s d body = .next (ends iss d (ranOnce t iss 0)) := by
  have he : iss.lanes.isEmpty = false := by simpa using ha
  simp only [frame, h.issue, h.checked, h.settled, h.free, withTokens_fresh _ h.fresh, Bool.not_true, doomed_none h.toMayRun, Bool.false_eq_true, if_false, doomLanes_nil, List.contains_nil, Bool.not_false, List.filter_true,
    h.uniform, h.once, Bool.and_self, if_true, uniformBody, hs, Option.isSome_none, he, Bool.or_self, hb]
  rw [settle_ok hh]; rfl

/-! ## Reading operands -/

theorem readAllOpds_plain (s : State) (u : Unit) (sx : Bool) (ls : List Nat) {os : List Opd} (h : ∀ o ∈ os, o.rd = true → isQ o.f = false) :
    readAllOpds s u sx ls os = (s, (os.filter (·.rd)).map (fun o => ls.map (readOpd s u o sx))) := by
  induction os with
  | nil => rfl
  | cons o os ih =>
    have := ih (fun x hx => h x (by simp [hx]))
    cases hr : o.rd with
    | false => simp [readAllOpds, hr, this]
    | true => simp [readAllOpds, hr, h o (by simp) hr, this]

/-! ## Effects that are made -/

/-- Where an instruction takes effect and its effect ends well, that is its step: the one lemma for lanes, queue registers and uniform operands alike. -/
theorem frame_acts {s s0 t : State} {d : Desc} {iss j : Issue} {fin : State → State} {body : Issue → State → Run} (h : Acts s d iss s0 j fin) (hh : d.holds = false)
    (hb : body j s0 = .ok t) : frame s d body = .next (fin t) := by
  cases h with
  | lanes h => exact frame_plain h hh hb
  | queued h hu =>
    rw [frame_runs body h.toRuns h.perLane (.inl h.active)]
    have hl : iss.lanes.isEmpty = false := by simpa using h.active
    have he : (queueUses iss.u d.opds iss.lanes.length).isEmpty = false := by simpa using hu
    simp only [issueBody, hl, h.admitted, he, Bool.false_eq_true, if_false, h.ready, if_true, hb]
    rw [settle_ok hh]
  | once h hs hl => exact frame_uniform h hh hs hl hb

/-- The agent that cur names does not depend on the guard. -/
theorem issueOf_place {s : State} {g : Bool} {iss : Issue} (h : issueOf s g = some iss) : ∃ x, issueOf s false = some x ∧ x.p = iss.p := by
  unfold issueOf at h ⊢
  split at h
  · next p g' _ =>
    unfold issueAt at h ⊢
    split at h
    · cases h
    · split at h
      · cases h
      · cases h
        exact ⟨_, rfl, rfl⟩
  · cases h

/-- The issue whose effect is made is the one of the gang or thread. -/
theorem acts_issue {s s0 : State} {d : Desc} {iss j : Issue} {fin : State → State} (h : Acts s d iss s0 j fin) :
    issueOf s d.guarded = some iss ∧ checks iss.u d = none ∧ j.u = iss.u ∧ j.gang = iss.gang ∧ j.slices = iss.slices ∧ j.pc = iss.pc := by
  cases h with
  | lanes h => exact ⟨h.issue, h.checked, rfl, rfl, rfl, rfl⟩
  | queued h hu => exact ⟨h.issue, h.checked, rfl, rfl, rfl, rfl⟩
  | once h hs hl => exact ⟨h.issue, h.checked, rfl, rfl, rfl, rfl⟩

/-- The same for an instruction that accesses memory: the conflicts of its fills follow. -/
theorem memFrame_acts {s s0 t : State} {d : Desc} {iss j : Issue} {fin : State → State} {body : Issue → State → Run} (h : Acts s d iss s0 j fin) (hh : d.holds = false)
    (hb : body j s0 = .ok t) : memFrame s d body = .next (afterFills s iss (fin t)) := by
  obtain ⟨x, hx, hp⟩ := issueOf_place (acts_issue h).1
  simp only [memFrame, frame_acts h hh hb, afterMem, hx, afterFills, hp]

/-- An instruction that is not executed once for its strand acts in all its lanes. -/
theorem acts_perGang {s s0 : State} {d : Desc} {iss j : Issue} {fin : State → State} (h : Acts s d iss s0 j fin) (hp : d.perGang = true) :
    j = iss ∧ fin = ends iss d := by
  cases h with
  | lanes h => exact ⟨rfl, rfl⟩
  | queued h hu => exact ⟨rfl, rfl⟩
  | once h hs hl => exact absurd h.once (by simp [hp])

/-- Every operand of an instruction that passes the checks is allowed. -/
theorem operand_ok {u : Unit} {d : Desc} (h : checks u d = none) {o : Opd} (ho : o ∈ d.opds) : o.ok u = true := by
  simp only [checks] at h
  by_contra hn
  have h2 : d.opds.all (fun o => o.ok u) = false := by
    simp only [List.all_eq_false]; exact ⟨o, ho, hn⟩
  simp only [h2, Bool.not_false, Bool.true_or, if_true] at h
  repeat' split at h
  all_goals simp at h

end Sys2Proof.Machine
end

