-- ==== Sys2Proof/Laws/Lanewise.lean ====
section
/-! SUPPORT. Instructions that compute one value in each lane, and the writing of operands. -/

namespace Sys2Proof.Machine

open Sys2Proof.Spec

/-! ## Writing operands -/

theorem Regs.getV_setV_other (r : Regs) {l i l' i' : Nat} (x : Word) (h : 128 * l' + i' ≠ 128 * l + i) : (r.setV l i x).getV l' i' = r.getV l' i' :=
  smGet_smSet_other _ _ _ h

@[simp] theorem Regs.getV_setV_same (r : Regs) (l i : Nat) (x : Word) : (r.setV l i x).getV l i = x := smGet_smSet_same ..

theorem Regs.getK_setK_other (r : Regs) {i i' : Nat} (x : Word) (h : i' ≠ i) : (r.setK i x).getK i' = r.getK i' := smGet_smSet_other _ _ _ h

@[simp] theorem Regs.getK_setK_same (r : Regs) (i : Nat) (x : Word) : (r.setK i x).getK i = x := smGet_smSet_same ..

/-- What a write of v registers leaves alone. -/
theorem Regs.setVs_rest (r : Regs) (l i : Nat) (ws : List Word) :
    (r.setVs l i ws).k = r.k ∧ (r.setVs l i ws).p = r.p ∧ (r.setVs l i ws).q = r.q ∧ (r.setVs l i ws).mode = r.mode ∧ (r.setVs l i ws).fstat = r.fstat ∧
    (r.setVs l i ws).timeHi = r.timeHi ∧ (r.setVs l i ws).retHi = r.retHi ∧ (r.setVs l i ws).fb = r.fb ∧ (r.setVs l i ws).mxpi = r.mxpi := by
  induction ws generalizing r i with
  | nil => simp [Regs.setVs]
  | cons w ws ih => simpa [Regs.setVs, Regs.setV] using ih (r.setV l i w) (i + 1)

theorem Regs.setKs_rest (r : Regs) (i : Nat) (ws : List Word) :
    (r.setKs i ws).v = r.v ∧ (r.setKs i ws).p = r.p ∧ (r.setKs i ws).q = r.q ∧ (r.setKs i ws).mode = r.mode ∧ (r.setKs i ws).fstat = r.fstat ∧
    (r.setKs i ws).timeHi = r.timeHi ∧ (r.setKs i ws).retHi = r.retHi ∧ (r.setKs i ws).fb = r.fb ∧ (r.setKs i ws).mxpi = r.mxpi := by
  induction ws generalizing r i with
  | nil => simp [Regs.setKs]
  | cons w ws ih => simpa [Regs.setKs, Regs.setK] using ih (r.setK i w) (i + 1)

theorem Regs.getV_setVs_other (r : Regs) {l i l' i' : Nat} {ws : List Word} (hi : i' < 128) (hl : i + ws.length ≤ 128) (h : ¬(l' = l ∧ i ≤ i' ∧ i' < i + ws.length)) :
    (r.setVs l i ws).getV l' i' = r.getV l' i' := by
  induction ws generalizing r i with
  | nil => rfl
  | cons w ws ih =>
    simp only [List.length_cons] at hl h
    rw [Regs.setVs, ih _ (by omega) (by omega), Regs.getV_setV_other _ _ (by omega)]

theorem Regs.getV_setVs_inside (r : Regs) {l i j : Nat} {ws : List Word} (h : j < ws.length) (hl : i + ws.length ≤ 128) : (r.setVs l i ws).getV l (i + j) = ws.getD j 0 := by
  induction ws generalizing r i j with
  | nil => simp at h
  | cons w ws ih =>
    simp only [List.length_cons] at h hl
    cases j with
    | zero => rw [Regs.setVs, Nat.add_zero, Regs.getV_setVs_other _ (by omega) (by omega) (by omega)]; simp
    | succ j => simpa [Regs.setVs, Nat.add_assoc, Nat.add_comm 1 j] using ih (r.setV l i w) (i := i + 1) (j := j) (by omega) (by omega)

theorem Regs.getK_setKs_other (r : Regs) {i i' : Nat} {ws : List Word} (h : ¬(i ≤ i' ∧ i' < i + ws.length)) : (r.setKs i ws).getK i' = r.getK i' := by
  induction ws generalizing r i with
  | nil => rfl
  | cons w ws ih =>
    simp only [List.length_cons] at h
    rw [Regs.setKs, ih _ (by omega), Regs.getK_setK_other _ _ (by omega)]

theorem Regs.getK_setKs_inside (r : Regs) {i j : Nat} {ws : List Word} (h : j < ws.length) : (r.setKs i ws).getK (i + j) = ws.getD j 0 := by
  induction ws generalizing r i j with
  | nil => simp at h
  | cons w ws ih =>
    simp only [List.length_cons] at h
    cases j with
    | zero => rw [Regs.setKs, Nat.add_zero, Regs.getK_setKs_other _ (by omega)]; simp
    | succ j => simpa [Regs.setKs, Nat.add_assoc, Nat.add_comm 1 j] using ih (r.setK i w) (i := i + 1) (j := j) (by omega)

@[simp] theorem length_wordsOf (n x : Nat) : (wordsOf n x).length = n := by
  induction n generalizing x with
  | zero => rfl
  | succ n ih => simp [wordsOf, ih]

theorem setMaskBit_other (m : LaneMask) {l l' : Nat} (b : Bool) (h : l' ≠ l) : (setMaskBit m l b).getLsbD l' = m.getLsbD l' := by
  have h2 : (BitVec.ofNat 96 (2 ^ l)).getLsbD l' = false := by
    rw [BitVec.getLsbD_ofNat, Nat.testBit_two_pow]
    simp [Ne.symm h]
  unfold setMaskBit
  split
  · rw [BitVec.getLsbD_or, h2, Bool.or_false]
  · rw [BitVec.getLsbD_and, BitVec.getLsbD_not, h2]
    by_cases hl : l' < 96
    · simp [hl]
    · simp [BitVec.getLsbD_of_ge _ _ (Nat.le_of_not_lt hl)]

theorem getD_modAt {α : Type} (d : α) (xs : List α) (i j : Nat) (f : α → α) : (modAt xs i f).getD j d = if j = i ∧ i < xs.length then f (xs.getD i d) else xs.getD j d := by
  by_cases h : j = i
  · subst h
    by_cases hl : j < xs.length
    · simp only [hl, and_self, if_true]; exact getD_modAt_same _ _ _ _ hl
    · simp [hl, length_modAt]
  · simp only [h, false_and, if_false]; exact getD_modAt_other _ _ _ h

theorem Regs.getP_setP_other (r : Regs) {i l i' l' : Nat} (b : Bool) (h : ¬(i' = i ∧ l' = l)) : (r.setP i l b).getP i' l' = r.getP i' l' := by
  simp only [Regs.getP, Regs.setP, getD_modAt]
  split
  · next h2 => rw [h2.1]; exact setMaskBit_other _ _ (fun e => h ⟨h2.1, e⟩)
  · rfl

/-- Every register but the operand that one write names is as before. -/
theorem regsKept_refl (o : Opd) (ls : List Nat) (r : Regs) : RegsKept o ls r r :=
  ⟨fun _ _ _ _ => rfl, fun _ _ => rfl, fun _ _ _ => rfl, rfl, rfl, by simp, rfl, rfl, rfl, rfl⟩

theorem regsKept_trans {o : Opd} {ls : List Nat} {a b c : Regs} (h : RegsKept o ls a b) (h' : RegsKept o ls b c) : RegsKept o ls a c where
  v l i hi hn := (h'.v l i hi hn).trans (h.v l i hi hn)
  k i hn := (h'.k i hn).trans (h.k i hn)
  p i l hn := (h'.p i l hn).trans (h.p i l hn)
  q := h'.q.trans h.q
  mode := h'.mode.trans h.mode
  sticky := by rw [← h'.sticky, ← h.sticky]; simp only [BitVec.or_assoc, BitVec.or_self]
  timeHi := h'.timeHi.trans h.timeHi
  retHi := h'.retHi.trans h.retHi
  fb := h'.fb.trans h.fb
  mxpi := h'.mxpi.trans h.mxpi

/-- Flags OR into fstat (R41). -/
theorem regsKept_flags (o : Opd) (ls : List Nat) (r : Regs) (f : BitVec 5) : RegsKept o ls r { r with fstat := r.fstat ||| f } :=
  ⟨fun _ _ _ _ => rfl, fun _ _ => rfl, fun _ _ _ => rfl, rfl, rfl, by show r.fstat ||| f ||| r.fstat = r.fstat ||| f; rw [BitVec.or_comm, ← BitVec.or_assoc, BitVec.or_self], rfl, rfl, rfl, rfl⟩

theorem isV_or (f : Fld) : (isV f = true ∧ isK f = false ∧ isP f = false) ∨ (isV f = false ∧ isK f = true ∧ isP f = false) ∨
    (isV f = false ∧ isK f = false ∧ isP f = true) ∨ (isV f = false ∧ isK f = false ∧ isP f = false) := by
  simp only [isV, isK, isP, decide_eq_true_eq, decide_eq_false_iff_not]; omega

/-- A group that is aligned by R37 stays within the 128 v registers. -/
theorem group_fits {f : Fld} {sh : Shape} (hv : isV f = true) (ha : f.toNat % sh.words = 0) (hs : sh ≠ .mask) : f.toNat + sh.words ≤ 128 := by
  simp only [isV, decide_eq_true_eq] at hv
  cases sh <;> simp [Shape.words] at ha hs ⊢ <;> omega

/-- A v operand of an allowed kind is an aligned group. -/
theorem kindOk_group {u : Unit} {o : Opd} (h : o.kindOk u = true) (hv : isV o.f = true) : o.f.toNat % o.sh.words = 0 ∧ o.sh ≠ .mask := by
  simp only [Opd.kindOk, hv, if_true, groupOk, Bool.and_eq_true, decide_eq_true_eq] at h
  exact ⟨h.2.1, h.1⟩

theorem regsKept_putOpd {o : Opd} {ls : List Nat} (r : Regs) {l : Nat} (v : Nat) (hl : l ∈ ls)
    (hg : isV o.f = true → o.f.toNat % o.sh.words = 0 ∧ o.sh ≠ .mask) : RegsKept o ls r (r.putOpd o.f o.sh l v) := by
  rcases isV_or o.f with ⟨h1, h2, h3⟩ | ⟨h1, h2, h3⟩ | ⟨h1, h2, h3⟩ | ⟨h1, h2, h3⟩
  · obtain ⟨k, p, q, m, fs, a, b, c, d⟩ := r.setVs_rest l o.f.toNat (wordsOf o.sh.words v)
    simp only [Regs.putOpd, h1, if_true]
    refine ⟨fun l' i hi hn => ?_, fun i _ => by simp [Regs.getK, k], fun i l' _ => by simp [Regs.getP, p], q, m, by simp [fs], a, b, c, d⟩
    apply Regs.getV_setVs_other _ hi
    · simpa using group_fits h1 (hg h1).1 (hg h1).2
    · rintro ⟨rfl, ha, hb⟩; exact hn ⟨h1, hl, ha, by simpa using hb⟩
  · obtain ⟨k, p, q, m, fs, a, b, c, d⟩ := r.setKs_rest (o.f.toNat - 0x80) (wordsOf o.sh.words v)
    simp only [Regs.putOpd, h1, h2, if_true, Bool.false_eq_true, if_false]
    refine ⟨fun l' i _ _ => by simp [Regs.getV, k], fun i hn => ?_, fun i l' _ => by simp [Regs.getP, p], q, m, by simp [fs], a, b, c, d⟩
    apply Regs.getK_setKs_other
    rintro ⟨ha, hb⟩; exact hn ⟨h2, ha, by simpa using hb⟩
  · simp only [Regs.putOpd, h1, h2, h3, if_true, Bool.false_eq_true, if_false]
    refine ⟨fun _ _ _ _ => rfl, fun _ _ => rfl, fun i l' hn => ?_, rfl, rfl, by simp [Regs.setP], rfl, rfl, rfl, rfl⟩
    exact Regs.getP_setP_other _ _ (fun ⟨ha, hb⟩ => hn ⟨h3, ha, hb ▸ hl⟩)
  · simp only [Regs.putOpd, h1, h2, h3, Bool.false_eq_true, if_false]
    exact regsKept_refl ..

/-- Writing an operand in some lanes changes nothing else. -/
theorem regsKept_putLanes {o : Opd} {ls : List Nat} (r : Regs) (hg : isV o.f = true → o.f.toNat % o.sh.words = 0 ∧ o.sh ≠ .mask) {ms : List Nat} (vs : List Nat)
    (hm : ∀ l ∈ ms, l ∈ ls) : RegsKept o ls r (r.putLanes o.f o.sh ms vs) := by
  induction ms generalizing r vs with
  | nil => cases vs <;> exact regsKept_refl ..
  | cons l ms ih =>
    cases vs with
    | nil => exact regsKept_refl ..
    | cons v vs => exact regsKept_trans (regsKept_putOpd r v (hm l (by simp)) hg) (ih _ vs (fun x hx => hm x (by simp [hx])))

/-! ## The lane-by-lane frame -/

/-- The values that an instruction computes in its lanes, with their flags. -/
def laneResults (s : State) (iss : Issue) (d : Desc) (op : Issue → List Nat → Nat × BitVec 5) : List (Nat × BitVec 5) :=
  iss.lanes.map (fun l => op iss ((d.opds.filter (·.rd)).map (fun o => readOpd s iss.u o (d.types.isSome && signedTy (modeType iss.u.regs.mode)) l)))

theorem map_range_getD {α β : Type} (ls : List α) (fs : List (α → β)) (dflt : β) (g : List β → γ) :
    (List.range ls.length).map (fun k => g ((fs.map (fun f => ls.map f)).map (fun c => c.getD k dflt))) = ls.map (fun l => g (fs.map (fun f => f l))) := by
  apply List.ext_getElem
  · simp
  · intro i h1 h2
    simp only [List.length_map, List.length_range] at h1
    simp [h1, Function.comp_def]

/-- A lane-by-lane instruction without queue registers: the flags, then the destination in the active lanes; then the gang completes. -/
theorem lanewise_plain {s : State} {d : Desc} {out : Opd} {iss : Issue} (op : Issue → List Nat → Nat × BitVec 5) (hd : d.holds = false) (hm : d.moves = false) (ha : d.always = false)
    (hw : out.rd = false) (hr : out.wr = true) (h : RunsPlain s { d with opds := d.opds ++ [out] } iss) :
    lanewise s d out op = .next (complete (withRegs s iss.p (fun r =>
      ({ r with fstat := r.fstat ||| (laneResults s iss d op).foldl (fun f x => f ||| x.2) 0 } : Regs).putLanes out.f out.sh iss.lanes ((laneResults s iss d op).map (·.1)))) iss false) := by
  have hq : isQ out.f = false := by
    cases hq : isQ out.f with
    | false => rfl
    | true => simpa [hr] using (h.noQueue out (by simp) hq).2
  have hs : ∀ o ∈ d.opds ++ [out], o.rd = true → isQ o.f = false := fun o ho hrd => by
    cases hq : isQ o.f with
    | false => rfl
    | true => simpa [hrd] using (h.noQueue o ho hq).1
  have hv : (List.range iss.lanes.length).map (fun k => op iss (((d.opds.filter (·.rd)).map (fun o => iss.lanes.map (readOpd s iss.u o
      (d.types.isSome && signedTy (modeType iss.u.regs.mode))))).map (fun c => c.getD k 0))) = laneResults s iss d op := by
    have := map_range_getD iss.lanes ((d.opds.filter (·.rd)).map (fun o => readOpd s iss.u o (d.types.isSome && signedTy (modeType iss.u.regs.mode)))) 0 (op iss)
    simpa [laneResults, List.map_map, Function.comp_def] using this
  unfold lanewise
  rw [frame_plain (t := withRegs s iss.p (fun r =>
      ({ r with fstat := r.fstat ||| (laneResults s iss d op).foldl (fun f x => f ||| x.2) 0 } : Regs).putLanes out.f out.sh iss.lanes ((laneResults s iss d op).map (·.1)))) h hd ?_]
  · rw [ends_lanes h ha]; simp [hm]
  · simp only [sources, readAllOpds_plain s iss.u _ iss.lanes hs, List.filter_append, List.filter_cons, hw, Bool.false_eq_true, if_false, List.filter_nil, List.append_nil, hv,
      writeDst, hq]
    congr 1
    unfold orFlags withRegs Issue.p
    split
    · next h0 =>
      have h1 : ∀ r : Regs, ({ r with fstat := r.fstat ||| 0 } : Regs) = r := fun r => by simp
      simp only [h0, h1]
    · exact State.modUnit_modUnit s iss.u.place _ (fun u => rfl)

/-- A lane by lane instruction whose operands pass the checks completes, and of its unit only the destination in the active lanes and fstat change. -/
theorem lanewise_completes {s : State} {f : LaneForm} {iss : Issue} (op : Issue → List Nat → Nat × BitVec 5) (h : RunsPlain s f.desc iss)
    (hw : f.out.rd = false) (hwr : f.out.wr = true) (hr : f.out.rule = .any) :
    ∃ g : Regs → Regs, lanewise s { types := f.types, opds := f.srcs } f.out op = .next (complete (withRegs s iss.p g) iss false) ∧ RegsKept f.out iss.lanes iss.u.regs (g iss.u.regs) := by
  refine ⟨_, lanewise_plain op rfl rfl rfl hw hwr h, ?_⟩
  refine regsKept_trans (regsKept_flags f.out iss.lanes _ _) (regsKept_putLanes _ ?_ _ (fun _ h => h))
  intro hv
  have := operand_ok h.checked (o := f.out) (by simp [LaneForm.desc])
  simp only [Opd.ok, hr, Bool.and_eq_true, Bool.or_eq_true, decide_eq_true_eq, reduceCtorEq, false_or] at this
  exact kindOk_group this.2 hv

end Sys2Proof.Machine
end

