-- ==== Sys2Proof/Laws/PerInstr.lean ====
section
/-! SUPPORT. The family Encoding, constructor by constructor: an event has no word and everything else has one, and the opcode of an instruction's word is an
assigned one (R56 to R60, R351). -/

open Sys2Proof Sys2Proof.Spec

/-- What the family says of an instruction. -/
def Sys2Proof.Laws.Encoding.Statement (i : Instr) : Prop :=
  (encode i).isNone = isEvent i ∧ ∀ w, encode i = some w → isMicro i = false → opcodeAssigned (opcodeOf w).toNat = true

theorem Sys2Proof.Laws.opcodeOf_wordA (op d a b : BitVec 8) : opcodeOf (wordA op d a b) = op := by
  apply BitVec.eq_of_getLsbD_eq; intro k hk
  simp only [opcodeOf, field, wordA, BitVec.getLsbD_extractLsb', BitVec.getLsbD_append]
  rw [if_neg (by omega), if_neg (by omega), if_neg (by omega), show 24 + k - 8 - 8 - 8 = k by omega]
  simp [hk]
theorem Sys2Proof.Laws.opcodeOf_wordW (op d : BitVec 8) (i : BitVec 16) : opcodeOf (wordW op d i) = op := by
  apply BitVec.eq_of_getLsbD_eq; intro k hk
  simp only [opcodeOf, field, wordW, BitVec.getLsbD_extractLsb', BitVec.getLsbD_append]
  rw [if_neg (by omega), if_neg (by omega), show 24 + k - 16 - 8 = k by omega]
  simp [hk]
theorem Sys2Proof.Laws.opcodeOf_wordJ (op : BitVec 8) (i : BitVec 24) : opcodeOf (wordJ op i) = op := by
  apply BitVec.eq_of_getLsbD_eq; intro k hk
  simp only [opcodeOf, field, wordJ, BitVec.getLsbD_extractLsb', BitVec.getLsbD_append]
  simp [hk]

theorem Sys2Proof.Laws.Encoding.ofWord {i : Instr} {w : Word} (h : encode i = some w) (he : isEvent i = false) (ho : opcodeAssigned (opcodeOf w).toNat = true) :
    Encoding.Statement i := by
  refine ⟨by simp [h, he], fun x hx _ => ?_⟩
  rw [h] at hx
  cases hx
  exact ho

theorem Sys2Proof.Laws.Encoding.ofMicro {i : Instr} {w : Word} (h : encode i = some w) (he : isEvent i = false) (hm : isMicro i = true) : Encoding.Statement i :=
  ⟨by simp [h, he], fun _ _ hn => by simp [hm] at hn⟩

theorem Sys2Proof.Laws.Encoding.ofEvent {i : Instr} (h : encode i = none) (he : isEvent i = true) : Encoding.Statement i :=
  ⟨by simp [h, he], fun _ hw => by simp [h] at hw⟩

theorem Sys2Proof.Laws.Encoding.nop : Encoding.Statement (.nop) := Encoding.ofWord rfl rfl (by rw [opcodeOf_wordA]; decide)
theorem Sys2Proof.Laws.Encoding.bra (off : BitVec 24) : Encoding.Statement (.bra off) := Encoding.ofWord rfl rfl (by rw [opcodeOf_wordJ]; decide)
theorem Sys2Proof.Laws.Encoding.call (off : BitVec 24) : Encoding.Statement (.call off) := Encoding.ofWord rfl rfl (by rw [opcodeOf_wordJ]; decide)
theorem Sys2Proof.Laws.Encoding.brt (d : BitVec 8) (i : BitVec 16) : Encoding.Statement (.brt d i) := Encoding.ofWord rfl rfl (by rw [opcodeOf_wordW]; decide)
theorem Sys2Proof.Laws.Encoding.brf (d : BitVec 8) (i : BitVec 16) : Encoding.Statement (.brf d i) := Encoding.ofWord rfl rfl (by rw [opcodeOf_wordW]; decide)
theorem Sys2Proof.Laws.Encoding.bri (a : BitVec 8) : Encoding.Statement (.bri a) := Encoding.ofWord rfl rfl (by rw [opcodeOf_wordA]; decide)
theorem Sys2Proof.Laws.Encoding.calli (d : BitVec 8) (a : BitVec 8) : Encoding.Statement (.calli d a) := Encoding.ofWord rfl rfl (by rw [opcodeOf_wordA]; decide)
theorem Sys2Proof.Laws.Encoding.ret (a : BitVec 8) : Encoding.Statement (.ret a) := Encoding.ofWord rfl rfl (by rw [opcodeOf_wordA]; decide)
theorem Sys2Proof.Laws.Encoding.joinat (i : BitVec 16) : Encoding.Statement (.joinat i) := Encoding.ofWord rfl rfl (by rw [opcodeOf_wordW]; decide)
theorem Sys2Proof.Laws.Encoding.regang : Encoding.Statement (.regang) := Encoding.ofWord rfl rfl (by rw [opcodeOf_wordA]; decide)
theorem Sys2Proof.Laws.Encoding.loop (d : BitVec 8) (i : BitVec 16) : Encoding.Statement (.loop d i) := Encoding.ofWord rfl rfl (by rw [opcodeOf_wordW]; decide)
theorem Sys2Proof.Laws.Encoding.lbrk : Encoding.Statement (.lbrk) := Encoding.ofWord rfl rfl (by rw [opcodeOf_wordA]; decide)
theorem Sys2Proof.Laws.Encoding.exit : Encoding.Statement (.exit) := Encoding.ofWord rfl rfl (by rw [opcodeOf_wordA]; decide)
theorem Sys2Proof.Laws.Encoding.land : Encoding.Statement (.land) := Encoding.ofWord rfl rfl (by rw [opcodeOf_wordA]; decide)
theorem Sys2Proof.Laws.Encoding.yield : Encoding.Statement (.yield) := Encoding.ofWord rfl rfl (by rw [opcodeOf_wordA]; decide)
theorem Sys2Proof.Laws.Encoding.mode (i : BitVec 16) : Encoding.Statement (.mode i) := Encoding.ofWord rfl rfl (by rw [opcodeOf_wordW]; decide)
theorem Sys2Proof.Laws.Encoding.modet (t : BitVec 4) : Encoding.Statement (.modet t) := Encoding.ofWord rfl rfl (by rw [opcodeOf_wordA]; decide)
theorem Sys2Proof.Laws.Encoding.modeg (e : BitVec 1) (n : BitVec 1) (g : BitVec 3) : Encoding.Statement (.modeg e n g) := Encoding.ofWord rfl rfl (by rw [opcodeOf_wordA]; decide)
theorem Sys2Proof.Laws.Encoding.modes (s : BitVec 3) : Encoding.Statement (.modes s) := Encoding.ofWord rfl rfl (by rw [opcodeOf_wordA]; decide)
theorem Sys2Proof.Laws.Encoding.moder (r : BitVec 2) : Encoding.Statement (.moder r) := Encoding.ofWord rfl rfl (by rw [opcodeOf_wordA]; decide)
theorem Sys2Proof.Laws.Encoding.modew (a : BitVec 8) : Encoding.Statement (.modew a) := Encoding.ofWord rfl rfl (by rw [opcodeOf_wordA]; decide)
theorem Sys2Proof.Laws.Encoding.trap (i : BitVec 8) : Encoding.Statement (.trap i) := Encoding.ofWord rfl rfl (by rw [opcodeOf_wordA]; decide)
theorem Sys2Proof.Laws.Encoding.bkpt (i : BitVec 8) : Encoding.Statement (.bkpt i) := Encoding.ofWord rfl rfl (by rw [opcodeOf_wordA]; decide)
theorem Sys2Proof.Laws.Encoding.migr (off : BitVec 24) : Encoding.Statement (.migr off) := Encoding.ofWord rfl rfl (by rw [opcodeOf_wordJ]; decide)
theorem Sys2Proof.Laws.Encoding.spawn (d : BitVec 8) (a : BitVec 8) : Encoding.Statement (.spawn d a) := Encoding.ofWord rfl rfl (by rw [opcodeOf_wordA]; decide)
theorem Sys2Proof.Laws.Encoding.fork (a : BitVec 8) : Encoding.Statement (.fork a) := Encoding.ofWord rfl rfl (by rw [opcodeOf_wordA]; decide)
theorem Sys2Proof.Laws.Encoding.callat (d : BitVec 8) (a : BitVec 8) (b : BitVec 8) : Encoding.Statement (.callat d a b) := Encoding.ofWord rfl rfl (by rw [opcodeOf_wordA]; decide)
theorem Sys2Proof.Laws.Encoding.mfs (d : BitVec 8) (i : BitVec 8) : Encoding.Statement (.mfs d i) := Encoding.ofWord rfl rfl (by rw [opcodeOf_wordA]; decide)
theorem Sys2Proof.Laws.Encoding.mts (a : BitVec 8) (i : BitVec 8) : Encoding.Statement (.mts a i) := Encoding.ofWord rfl rfl (by rw [opcodeOf_wordA]; decide)
theorem Sys2Proof.Laws.Encoding.sleep (a : BitVec 8) : Encoding.Statement (.sleep a) := Encoding.ofWord rfl rfl (by rw [opcodeOf_wordA]; decide)
theorem Sys2Proof.Laws.Encoding.halt (a : BitVec 8) (b : BitVec 8) : Encoding.Statement (.halt a b) := Encoding.ofWord rfl rfl (by rw [opcodeOf_wordA]; decide)
theorem Sys2Proof.Laws.Encoding.add (d : BitVec 8) (a : BitVec 8) (b : BitVec 8) : Encoding.Statement (.add d a b) := Encoding.ofWord rfl rfl (by rw [opcodeOf_wordA]; decide)
theorem Sys2Proof.Laws.Encoding.sub (d : BitVec 8) (a : BitVec 8) (b : BitVec 8) : Encoding.Statement (.sub d a b) := Encoding.ofWord rfl rfl (by rw [opcodeOf_wordA]; decide)
theorem Sys2Proof.Laws.Encoding.mul (d : BitVec 8) (a : BitVec 8) (b : BitVec 8) : Encoding.Statement (.mul d a b) := Encoding.ofWord rfl rfl (by rw [opcodeOf_wordA]; decide)
theorem Sys2Proof.Laws.Encoding.mad (d : BitVec 8) (a : BitVec 8) (b : BitVec 8) : Encoding.Statement (.mad d a b) := Encoding.ofWord rfl rfl (by rw [opcodeOf_wordA]; decide)
theorem Sys2Proof.Laws.Encoding.min (d : BitVec 8) (a : BitVec 8) (b : BitVec 8) : Encoding.Statement (.min d a b) := Encoding.ofWord rfl rfl (by rw [opcodeOf_wordA]; decide)
theorem Sys2Proof.Laws.Encoding.max (d : BitVec 8) (a : BitVec 8) (b : BitVec 8) : Encoding.Statement (.max d a b) := Encoding.ofWord rfl rfl (by rw [opcodeOf_wordA]; decide)
theorem Sys2Proof.Laws.Encoding.neg (d : BitVec 8) (a : BitVec 8) : Encoding.Statement (.neg d a) := Encoding.ofWord rfl rfl (by rw [opcodeOf_wordA]; decide)
theorem Sys2Proof.Laws.Encoding.abs (d : BitVec 8) (a : BitVec 8) : Encoding.Statement (.abs d a) := Encoding.ofWord rfl rfl (by rw [opcodeOf_wordA]; decide)
theorem Sys2Proof.Laws.Encoding.addi (d : BitVec 8) (a : BitVec 8) (i : BitVec 8) : Encoding.Statement (.addi d a i) := Encoding.ofWord rfl rfl (by rw [opcodeOf_wordA]; decide)
theorem Sys2Proof.Laws.Encoding.muli (d : BitVec 8) (a : BitVec 8) (i : BitVec 8) : Encoding.Statement (.muli d a i) := Encoding.ofWord rfl rfl (by rw [opcodeOf_wordA]; decide)
theorem Sys2Proof.Laws.Encoding.clamp (d : BitVec 8) (a : BitVec 8) (b : BitVec 8) : Encoding.Statement (.clamp d a b) := Encoding.ofWord rfl rfl (by rw [opcodeOf_wordA]; decide)
theorem Sys2Proof.Laws.Encoding.mulh (d : BitVec 8) (a : BitVec 8) (b : BitVec 8) : Encoding.Statement (.mulh d a b) := Encoding.ofWord rfl rfl (by rw [opcodeOf_wordA]; decide)
theorem Sys2Proof.Laws.Encoding.div (d : BitVec 8) (a : BitVec 8) (b : BitVec 8) : Encoding.Statement (.div d a b) := Encoding.ofWord rfl rfl (by rw [opcodeOf_wordA]; decide)
theorem Sys2Proof.Laws.Encoding.rem (d : BitVec 8) (a : BitVec 8) (b : BitVec 8) : Encoding.Statement (.rem d a b) := Encoding.ofWord rfl rfl (by rw [opcodeOf_wordA]; decide)
theorem Sys2Proof.Laws.Encoding.sad (d : BitVec 8) (a : BitVec 8) (b : BitVec 8) : Encoding.Statement (.sad d a b) := Encoding.ofWord rfl rfl (by rw [opcodeOf_wordA]; decide)
theorem Sys2Proof.Laws.Encoding.addc (d : BitVec 8) (a : BitVec 8) (b : BitVec 8) : Encoding.Statement (.addc d a b) := Encoding.ofWord rfl rfl (by rw [opcodeOf_wordA]; decide)
theorem Sys2Proof.Laws.Encoding.ceq (d : BitVec 8) (a : BitVec 8) (b : BitVec 8) : Encoding.Statement (.ceq d a b) := Encoding.ofWord rfl rfl (by rw [opcodeOf_wordA]; decide)
theorem Sys2Proof.Laws.Encoding.cne (d : BitVec 8) (a : BitVec 8) (b : BitVec 8) : Encoding.Statement (.cne d a b) := Encoding.ofWord rfl rfl (by rw [opcodeOf_wordA]; decide)
theorem Sys2Proof.Laws.Encoding.clt (d : BitVec 8) (a : BitVec 8) (b : BitVec 8) : Encoding.Statement (.clt d a b) := Encoding.ofWord rfl rfl (by rw [opcodeOf_wordA]; decide)
theorem Sys2Proof.Laws.Encoding.cle (d : BitVec 8) (a : BitVec 8) (b : BitVec 8) : Encoding.Statement (.cle d a b) := Encoding.ofWord rfl rfl (by rw [opcodeOf_wordA]; decide)
theorem Sys2Proof.Laws.Encoding.cgt (d : BitVec 8) (a : BitVec 8) (b : BitVec 8) : Encoding.Statement (.cgt d a b) := Encoding.ofWord rfl rfl (by rw [opcodeOf_wordA]; decide)
theorem Sys2Proof.Laws.Encoding.cge (d : BitVec 8) (a : BitVec 8) (b : BitVec 8) : Encoding.Statement (.cge d a b) := Encoding.ofWord rfl rfl (by rw [opcodeOf_wordA]; decide)
theorem Sys2Proof.Laws.Encoding.cun (d : BitVec 8) (a : BitVec 8) (b : BitVec 8) : Encoding.Statement (.cun d a b) := Encoding.ofWord rfl rfl (by rw [opcodeOf_wordA]; decide)
theorem Sys2Proof.Laws.Encoding.ceqi (d : BitVec 8) (a : BitVec 8) (i : BitVec 8) : Encoding.Statement (.ceqi d a i) := Encoding.ofWord rfl rfl (by rw [opcodeOf_wordA]; decide)
theorem Sys2Proof.Laws.Encoding.clti (d : BitVec 8) (a : BitVec 8) (i : BitVec 8) : Encoding.Statement (.clti d a i) := Encoding.ofWord rfl rfl (by rw [opcodeOf_wordA]; decide)
theorem Sys2Proof.Laws.Encoding.pand (d : BitVec 8) (a : BitVec 8) (b : BitVec 8) : Encoding.Statement (.pand d a b) := Encoding.ofWord rfl rfl (by rw [opcodeOf_wordA]; decide)
theorem Sys2Proof.Laws.Encoding.por (d : BitVec 8) (a : BitVec 8) (b : BitVec 8) : Encoding.Statement (.por d a b) := Encoding.ofWord rfl rfl (by rw [opcodeOf_wordA]; decide)
theorem Sys2Proof.Laws.Encoding.pxor (d : BitVec 8) (a : BitVec 8) (b : BitVec 8) : Encoding.Statement (.pxor d a b) := Encoding.ofWord rfl rfl (by rw [opcodeOf_wordA]; decide)
theorem Sys2Proof.Laws.Encoding.pnot (d : BitVec 8) (a : BitVec 8) : Encoding.Statement (.pnot d a) := Encoding.ofWord rfl rfl (by rw [opcodeOf_wordA]; decide)
theorem Sys2Proof.Laws.Encoding.class (d : BitVec 8) (a : BitVec 8) (b : BitVec 8) : Encoding.Statement (.class d a b) := Encoding.ofWord rfl rfl (by rw [opcodeOf_wordA]; decide)
theorem Sys2Proof.Laws.Encoding.tstb (d : BitVec 8) (a : BitVec 8) (i : BitVec 5) : Encoding.Statement (.tstb d a i) := Encoding.ofWord rfl rfl (by rw [opcodeOf_wordA]; decide)
theorem Sys2Proof.Laws.Encoding.pmov (d : BitVec 8) (a : BitVec 8) (b : BitVec 8) : Encoding.Statement (.pmov d a b) := Encoding.ofWord rfl rfl (by rw [opcodeOf_wordA]; decide)
theorem Sys2Proof.Laws.Encoding.and (d : BitVec 8) (a : BitVec 8) (b : BitVec 8) : Encoding.Statement (.and d a b) := Encoding.ofWord rfl rfl (by rw [opcodeOf_wordA]; decide)
theorem Sys2Proof.Laws.Encoding.or (d : BitVec 8) (a : BitVec 8) (b : BitVec 8) : Encoding.Statement (.or d a b) := Encoding.ofWord rfl rfl (by rw [opcodeOf_wordA]; decide)
theorem Sys2Proof.Laws.Encoding.xor (d : BitVec 8) (a : BitVec 8) (b : BitVec 8) : Encoding.Statement (.xor d a b) := Encoding.ofWord rfl rfl (by rw [opcodeOf_wordA]; decide)
theorem Sys2Proof.Laws.Encoding.not (d : BitVec 8) (a : BitVec 8) : Encoding.Statement (.not d a) := Encoding.ofWord rfl rfl (by rw [opcodeOf_wordA]; decide)
theorem Sys2Proof.Laws.Encoding.andn (d : BitVec 8) (a : BitVec 8) (b : BitVec 8) : Encoding.Statement (.andn d a b) := Encoding.ofWord rfl rfl (by rw [opcodeOf_wordA]; decide)
theorem Sys2Proof.Laws.Encoding.shl (d : BitVec 8) (a : BitVec 8) (b : BitVec 8) : Encoding.Statement (.shl d a b) := Encoding.ofWord rfl rfl (by rw [opcodeOf_wordA]; decide)
theorem Sys2Proof.Laws.Encoding.shr (d : BitVec 8) (a : BitVec 8) (b : BitVec 8) : Encoding.Statement (.shr d a b) := Encoding.ofWord rfl rfl (by rw [opcodeOf_wordA]; decide)
theorem Sys2Proof.Laws.Encoding.sar (d : BitVec 8) (a : BitVec 8) (b : BitVec 8) : Encoding.Statement (.sar d a b) := Encoding.ofWord rfl rfl (by rw [opcodeOf_wordA]; decide)
theorem Sys2Proof.Laws.Encoding.rol (d : BitVec 8) (a : BitVec 8) (b : BitVec 8) : Encoding.Statement (.rol d a b) := Encoding.ofWord rfl rfl (by rw [opcodeOf_wordA]; decide)
theorem Sys2Proof.Laws.Encoding.shli (d : BitVec 8) (a : BitVec 8) (i : BitVec 6) : Encoding.Statement (.shli d a i) := Encoding.ofWord rfl rfl (by rw [opcodeOf_wordA]; decide)
theorem Sys2Proof.Laws.Encoding.shri (d : BitVec 8) (a : BitVec 8) (i : BitVec 6) : Encoding.Statement (.shri d a i) := Encoding.ofWord rfl rfl (by rw [opcodeOf_wordA]; decide)
theorem Sys2Proof.Laws.Encoding.sari (d : BitVec 8) (a : BitVec 8) (i : BitVec 6) : Encoding.Statement (.sari d a i) := Encoding.ofWord rfl rfl (by rw [opcodeOf_wordA]; decide)
theorem Sys2Proof.Laws.Encoding.popc (d : BitVec 8) (a : BitVec 8) : Encoding.Statement (.popc d a) := Encoding.ofWord rfl rfl (by rw [opcodeOf_wordA]; decide)
theorem Sys2Proof.Laws.Encoding.clz (d : BitVec 8) (a : BitVec 8) : Encoding.Statement (.clz d a) := Encoding.ofWord rfl rfl (by rw [opcodeOf_wordA]; decide)
theorem Sys2Proof.Laws.Encoding.brev (d : BitVec 8) (a : BitVec 8) : Encoding.Statement (.brev d a) := Encoding.ofWord rfl rfl (by rw [opcodeOf_wordA]; decide)
theorem Sys2Proof.Laws.Encoding.bfe (d : BitVec 8) (a : BitVec 8) (b : BitVec 8) : Encoding.Statement (.bfe d a b) := Encoding.ofWord rfl rfl (by rw [opcodeOf_wordA]; decide)
theorem Sys2Proof.Laws.Encoding.mov (d : BitVec 8) (a : BitVec 8) : Encoding.Statement (.mov d a) := Encoding.ofWord rfl rfl (by rw [opcodeOf_wordA]; decide)
theorem Sys2Proof.Laws.Encoding.movl (d : BitVec 8) (i : BitVec 16) : Encoding.Statement (.movl d i) := Encoding.ofWord rfl rfl (by rw [opcodeOf_wordW]; decide)
theorem Sys2Proof.Laws.Encoding.movh (d : BitVec 8) (i : BitVec 16) : Encoding.Statement (.movh d i) := Encoding.ofWord rfl rfl (by rw [opcodeOf_wordW]; decide)
theorem Sys2Proof.Laws.Encoding.movs (d : BitVec 8) (i : BitVec 16) : Encoding.Statement (.movs d i) := Encoding.ofWord rfl rfl (by rw [opcodeOf_wordW]; decide)
theorem Sys2Proof.Laws.Encoding.bfi (d : BitVec 8) (a : BitVec 8) (b : BitVec 8) : Encoding.Statement (.bfi d a b) := Encoding.ofWord rfl rfl (by rw [opcodeOf_wordA]; decide)
theorem Sys2Proof.Laws.Encoding.prmt (d : BitVec 8) (a : BitVec 8) (b : BitVec 8) : Encoding.Statement (.prmt d a b) := Encoding.ofWord rfl rfl (by rw [opcodeOf_wordA]; decide)
theorem Sys2Proof.Laws.Encoding.pack (d : BitVec 8) (a : BitVec 8) (b : BitVec 8) : Encoding.Statement (.pack d a b) := Encoding.ofWord rfl rfl (by rw [opcodeOf_wordA]; decide)
theorem Sys2Proof.Laws.Encoding.adda (d : BitVec 8) (a : BitVec 8) (b : BitVec 8) : Encoding.Statement (.adda d a b) := Encoding.ofWord rfl rfl (by rw [opcodeOf_wordA]; decide)
theorem Sys2Proof.Laws.Encoding.addai (d : BitVec 8) (a : BitVec 8) (i : BitVec 8) : Encoding.Statement (.addai d a i) := Encoding.ofWord rfl rfl (by rw [opcodeOf_wordA]; decide)
theorem Sys2Proof.Laws.Encoding.lane (d : BitVec 8) (a : BitVec 8) (b : BitVec 8) : Encoding.Statement (.lane d a b) := Encoding.ofWord rfl rfl (by rw [opcodeOf_wordA]; decide)
theorem Sys2Proof.Laws.Encoding.bcast (d : BitVec 8) (a : BitVec 8) : Encoding.Statement (.bcast d a) := Encoding.ofWord rfl rfl (by rw [opcodeOf_wordA]; decide)
theorem Sys2Proof.Laws.Encoding.suba (d : BitVec 8) (a : BitVec 8) (b : BitVec 8) : Encoding.Statement (.suba d a b) := Encoding.ofWord rfl rfl (by rw [opcodeOf_wordA]; decide)
theorem Sys2Proof.Laws.Encoding.clta (d : BitVec 8) (a : BitVec 8) (b : BitVec 8) : Encoding.Statement (.clta d a b) := Encoding.ofWord rfl rfl (by rw [opcodeOf_wordA]; decide)
theorem Sys2Proof.Laws.Encoding.ceqa (d : BitVec 8) (a : BitVec 8) (b : BitVec 8) : Encoding.Statement (.ceqa d a b) := Encoding.ofWord rfl rfl (by rw [opcodeOf_wordA]; decide)
theorem Sys2Proof.Laws.Encoding.cvt (d : BitVec 8) (a : BitVec 8) (b : BitVec 8) : Encoding.Statement (.cvt d a b) := Encoding.ofWord rfl rfl (by rw [opcodeOf_wordA]; decide)
theorem Sys2Proof.Laws.Encoding.cvtr (d : BitVec 8) (a : BitVec 8) (b : BitVec 8) : Encoding.Statement (.cvtr d a b) := Encoding.ofWord rfl rfl (by rw [opcodeOf_wordA]; decide)
theorem Sys2Proof.Laws.Encoding.rcp (d : BitVec 8) (a : BitVec 8) : Encoding.Statement (.rcp d a) := Encoding.ofWord rfl rfl (by rw [opcodeOf_wordA]; decide)
theorem Sys2Proof.Laws.Encoding.rsq (d : BitVec 8) (a : BitVec 8) : Encoding.Statement (.rsq d a) := Encoding.ofWord rfl rfl (by rw [opcodeOf_wordA]; decide)
theorem Sys2Proof.Laws.Encoding.sqrt (d : BitVec 8) (a : BitVec 8) : Encoding.Statement (.sqrt d a) := Encoding.ofWord rfl rfl (by rw [opcodeOf_wordA]; decide)
theorem Sys2Proof.Laws.Encoding.exp2 (d : BitVec 8) (a : BitVec 8) : Encoding.Statement (.exp2 d a) := Encoding.ofWord rfl rfl (by rw [opcodeOf_wordA]; decide)
theorem Sys2Proof.Laws.Encoding.log2 (d : BitVec 8) (a : BitVec 8) : Encoding.Statement (.log2 d a) := Encoding.ofWord rfl rfl (by rw [opcodeOf_wordA]; decide)
theorem Sys2Proof.Laws.Encoding.sinp (d : BitVec 8) (a : BitVec 8) : Encoding.Statement (.sinp d a) := Encoding.ofWord rfl rfl (by rw [opcodeOf_wordA]; decide)
theorem Sys2Proof.Laws.Encoding.cosp (d : BitVec 8) (a : BitVec 8) : Encoding.Statement (.cosp d a) := Encoding.ofWord rfl rfl (by rw [opcodeOf_wordA]; decide)
theorem Sys2Proof.Laws.Encoding.tanh (d : BitVec 8) (a : BitVec 8) : Encoding.Statement (.tanh d a) := Encoding.ofWord rfl rfl (by rw [opcodeOf_wordA]; decide)
theorem Sys2Proof.Laws.Encoding.flr (d : BitVec 8) (a : BitVec 8) : Encoding.Statement (.flr d a) := Encoding.ofWord rfl rfl (by rw [opcodeOf_wordA]; decide)
theorem Sys2Proof.Laws.Encoding.ceil (d : BitVec 8) (a : BitVec 8) : Encoding.Statement (.ceil d a) := Encoding.ofWord rfl rfl (by rw [opcodeOf_wordA]; decide)
theorem Sys2Proof.Laws.Encoding.trnc (d : BitVec 8) (a : BitVec 8) : Encoding.Statement (.trnc d a) := Encoding.ofWord rfl rfl (by rw [opcodeOf_wordA]; decide)
theorem Sys2Proof.Laws.Encoding.rint (d : BitVec 8) (a : BitVec 8) : Encoding.Statement (.rint d a) := Encoding.ofWord rfl rfl (by rw [opcodeOf_wordA]; decide)
theorem Sys2Proof.Laws.Encoding.frac (d : BitVec 8) (a : BitVec 8) : Encoding.Statement (.frac d a) := Encoding.ofWord rfl rfl (by rw [opcodeOf_wordA]; decide)
theorem Sys2Proof.Laws.Encoding.tli (d : BitVec 8) (a : BitVec 8) (b : BitVec 8) : Encoding.Statement (.tli d a b) := Encoding.ofWord rfl rfl (by rw [opcodeOf_wordA]; decide)
theorem Sys2Proof.Laws.Encoding.dot (d : BitVec 8) (a : BitVec 8) (b : BitVec 8) : Encoding.Statement (.dot d a b) := Encoding.ofWord rfl rfl (by rw [opcodeOf_wordA]; decide)
theorem Sys2Proof.Laws.Encoding.scale (d : BitVec 8) (a : BitVec 8) (b : BitVec 8) : Encoding.Statement (.scale d a b) := Encoding.ofWord rfl rfl (by rw [opcodeOf_wordA]; decide)
theorem Sys2Proof.Laws.Encoding.cpsgn (d : BitVec 8) (a : BitVec 8) (b : BitVec 8) : Encoding.Statement (.cpsgn d a b) := Encoding.ofWord rfl rfl (by rw [opcodeOf_wordA]; decide)
theorem Sys2Proof.Laws.Encoding.qdec (d : BitVec 8) (a : BitVec 8) (b : BitVec 8) : Encoding.Statement (.qdec d a b) := Encoding.ofWord rfl rfl (by rw [opcodeOf_wordA]; decide)
theorem Sys2Proof.Laws.Encoding.qenc (d : BitVec 8) (a : BitVec 8) (b : BitVec 8) : Encoding.Statement (.qenc d a b) := Encoding.ofWord rfl rfl (by rw [opcodeOf_wordA]; decide)
theorem Sys2Proof.Laws.Encoding.f4dec (d : BitVec 8) (a : BitVec 8) (b : BitVec 8) : Encoding.Statement (.f4dec d a b) := Encoding.ofWord rfl rfl (by rw [opcodeOf_wordA]; decide)
theorem Sys2Proof.Laws.Encoding.f4enc (d : BitVec 8) (a : BitVec 8) (b : BitVec 8) : Encoding.Statement (.f4enc d a b) := Encoding.ofWord rfl rfl (by rw [opcodeOf_wordA]; decide)
theorem Sys2Proof.Laws.Encoding.mxfb (d : BitVec 8) (a : BitVec 8) : Encoding.Statement (.mxfb d a) := Encoding.ofWord rfl rfl (by rw [opcodeOf_wordA]; decide)
theorem Sys2Proof.Laws.Encoding.mxwl (d : BitVec 8) (a : BitVec 8) (b : BitVec 8) : Encoding.Statement (.mxwl d a b) := Encoding.ofWord rfl rfl (by rw [opcodeOf_wordA]; decide)
theorem Sys2Proof.Laws.Encoding.mxsw : Encoding.Statement (.mxsw) := Encoding.ofWord rfl rfl (by rw [opcodeOf_wordA]; decide)
theorem Sys2Proof.Laws.Encoding.mxst (d : BitVec 8) (a : BitVec 8) (b : BitVec 8) : Encoding.Statement (.mxst d a b) := Encoding.ofWord rfl rfl (by rw [opcodeOf_wordA]; decide)
theorem Sys2Proof.Laws.Encoding.mxrd (d : BitVec 8) (a : BitVec 8) (b : BitVec 8) : Encoding.Statement (.mxrd d a b) := Encoding.ofWord rfl rfl (by rw [opcodeOf_wordA]; decide)
theorem Sys2Proof.Laws.Encoding.mxrel (d : BitVec 8) : Encoding.Statement (.mxrel d) := Encoding.ofWord rfl rfl (by rw [opcodeOf_wordA]; decide)
theorem Sys2Proof.Laws.Encoding.mxz (d : BitVec 8) (a : BitVec 8) : Encoding.Statement (.mxz d a) := Encoding.ofWord rfl rfl (by rw [opcodeOf_wordA]; decide)
theorem Sys2Proof.Laws.Encoding.mxq (d : BitVec 8) (a : BitVec 8) : Encoding.Statement (.mxq d a) := Encoding.ofWord rfl rfl (by rw [opcodeOf_wordA]; decide)
theorem Sys2Proof.Laws.Encoding.shfl (d : BitVec 8) (a : BitVec 8) (b : BitVec 8) : Encoding.Statement (.shfl d a b) := Encoding.ofWord rfl rfl (by rw [opcodeOf_wordA]; decide)
theorem Sys2Proof.Laws.Encoding.shflx (d : BitVec 8) (a : BitVec 8) (b : BitVec 8) : Encoding.Statement (.shflx d a b) := Encoding.ofWord rfl rfl (by rw [opcodeOf_wordA]; decide)
theorem Sys2Proof.Laws.Encoding.shflu (d : BitVec 8) (a : BitVec 8) (i : BitVec 8) : Encoding.Statement (.shflu d a i) := Encoding.ofWord rfl rfl (by rw [opcodeOf_wordA]; decide)
theorem Sys2Proof.Laws.Encoding.shfld (d : BitVec 8) (a : BitVec 8) (i : BitVec 8) : Encoding.Statement (.shfld d a i) := Encoding.ofWord rfl rfl (by rw [opcodeOf_wordA]; decide)
theorem Sys2Proof.Laws.Encoding.vote (d : BitVec 8) (a : BitVec 8) : Encoding.Statement (.vote d a) := Encoding.ofWord rfl rfl (by rw [opcodeOf_wordA]; decide)
theorem Sys2Proof.Laws.Encoding.vany (d : BitVec 8) (a : BitVec 8) : Encoding.Statement (.vany d a) := Encoding.ofWord rfl rfl (by rw [opcodeOf_wordA]; decide)
theorem Sys2Proof.Laws.Encoding.vall (d : BitVec 8) (a : BitVec 8) : Encoding.Statement (.vall d a) := Encoding.ofWord rfl rfl (by rw [opcodeOf_wordA]; decide)
theorem Sys2Proof.Laws.Encoding.rdx (d : BitVec 8) (a : BitVec 8) (b : BitVec 8) : Encoding.Statement (.rdx d a b) := Encoding.ofWord rfl rfl (by rw [opcodeOf_wordA]; decide)
theorem Sys2Proof.Laws.Encoding.scan (d : BitVec 8) (a : BitVec 8) (b : BitVec 8) : Encoding.Statement (.scan d a b) := Encoding.ofWord rfl rfl (by rw [opcodeOf_wordA]; decide)
theorem Sys2Proof.Laws.Encoding.topk (d : BitVec 8) (a : BitVec 8) (b : BitVec 8) : Encoding.Statement (.topk d a b) := Encoding.ofWord rfl rfl (by rw [opcodeOf_wordA]; decide)
theorem Sys2Proof.Laws.Encoding.matchLanes (d : BitVec 8) (a : BitVec 8) (b : BitVec 8) : Encoding.Statement (.matchLanes d a b) := Encoding.ofWord rfl rfl (by rw [opcodeOf_wordA]; decide)
theorem Sys2Proof.Laws.Encoding.elect (d : BitVec 8) (a : BitVec 8) : Encoding.Statement (.elect d a) := Encoding.ofWord rfl rfl (by rw [opcodeOf_wordA]; decide)
theorem Sys2Proof.Laws.Encoding.ldb (d : BitVec 8) (a : BitVec 8) (b : BitVec 8) : Encoding.Statement (.ldb d a b) := Encoding.ofWord rfl rfl (by rw [opcodeOf_wordA]; decide)
theorem Sys2Proof.Laws.Encoding.ldh (d : BitVec 8) (a : BitVec 8) (b : BitVec 8) : Encoding.Statement (.ldh d a b) := Encoding.ofWord rfl rfl (by rw [opcodeOf_wordA]; decide)
theorem Sys2Proof.Laws.Encoding.ldw (d : BitVec 8) (a : BitVec 8) (b : BitVec 8) : Encoding.Statement (.ldw d a b) := Encoding.ofWord rfl rfl (by rw [opcodeOf_wordA]; decide)
theorem Sys2Proof.Laws.Encoding.ldd (d : BitVec 8) (a : BitVec 8) (b : BitVec 8) : Encoding.Statement (.ldd d a b) := Encoding.ofWord rfl rfl (by rw [opcodeOf_wordA]; decide)
theorem Sys2Proof.Laws.Encoding.ldq (d : BitVec 8) (a : BitVec 8) (b : BitVec 8) : Encoding.Statement (.ldq d a b) := Encoding.ofWord rfl rfl (by rw [opcodeOf_wordA]; decide)
theorem Sys2Proof.Laws.Encoding.ldo (d : BitVec 8) (a : BitVec 8) (b : BitVec 8) : Encoding.Statement (.ldo d a b) := Encoding.ofWord rfl rfl (by rw [opcodeOf_wordA]; decide)
theorem Sys2Proof.Laws.Encoding.stb (d : BitVec 8) (a : BitVec 8) (b : BitVec 8) : Encoding.Statement (.stb d a b) := Encoding.ofWord rfl rfl (by rw [opcodeOf_wordA]; decide)
theorem Sys2Proof.Laws.Encoding.sth (d : BitVec 8) (a : BitVec 8) (b : BitVec 8) : Encoding.Statement (.sth d a b) := Encoding.ofWord rfl rfl (by rw [opcodeOf_wordA]; decide)
theorem Sys2Proof.Laws.Encoding.stw (d : BitVec 8) (a : BitVec 8) (b : BitVec 8) : Encoding.Statement (.stw d a b) := Encoding.ofWord rfl rfl (by rw [opcodeOf_wordA]; decide)
theorem Sys2Proof.Laws.Encoding.std (d : BitVec 8) (a : BitVec 8) (b : BitVec 8) : Encoding.Statement (.std d a b) := Encoding.ofWord rfl rfl (by rw [opcodeOf_wordA]; decide)
theorem Sys2Proof.Laws.Encoding.stq (d : BitVec 8) (a : BitVec 8) (b : BitVec 8) : Encoding.Statement (.stq d a b) := Encoding.ofWord rfl rfl (by rw [opcodeOf_wordA]; decide)
theorem Sys2Proof.Laws.Encoding.sto (d : BitVec 8) (a : BitVec 8) (b : BitVec 8) : Encoding.Statement (.sto d a b) := Encoding.ofWord rfl rfl (by rw [opcodeOf_wordA]; decide)
theorem Sys2Proof.Laws.Encoding.lda (d : BitVec 8) (a : BitVec 8) (b : BitVec 8) : Encoding.Statement (.lda d a b) := Encoding.ofWord rfl rfl (by rw [opcodeOf_wordA]; decide)
theorem Sys2Proof.Laws.Encoding.stl (d : BitVec 8) (a : BitVec 8) (b : BitVec 8) : Encoding.Statement (.stl d a b) := Encoding.ofWord rfl rfl (by rw [opcodeOf_wordA]; decide)
theorem Sys2Proof.Laws.Encoding.stmc (d : BitVec 8) (a : BitVec 8) (b : BitVec 8) : Encoding.Statement (.stmc d a b) := Encoding.ofWord rfl rfl (by rw [opcodeOf_wordA]; decide)
theorem Sys2Proof.Laws.Encoding.pref (a : BitVec 8) (b : BitVec 8) : Encoding.Statement (.pref a b) := Encoding.ofWord rfl rfl (by rw [opcodeOf_wordA]; decide)
theorem Sys2Proof.Laws.Encoding.ldwi (d : BitVec 8) (a : BitVec 8) (i : BitVec 8) : Encoding.Statement (.ldwi d a i) := Encoding.ofWord rfl rfl (by rw [opcodeOf_wordA]; decide)
theorem Sys2Proof.Laws.Encoding.lddi (d : BitVec 8) (a : BitVec 8) (i : BitVec 8) : Encoding.Statement (.lddi d a i) := Encoding.ofWord rfl rfl (by rw [opcodeOf_wordA]; decide)
theorem Sys2Proof.Laws.Encoding.ldqi (d : BitVec 8) (a : BitVec 8) (i : BitVec 8) : Encoding.Statement (.ldqi d a i) := Encoding.ofWord rfl rfl (by rw [opcodeOf_wordA]; decide)
theorem Sys2Proof.Laws.Encoding.stwi (d : BitVec 8) (a : BitVec 8) (i : BitVec 8) : Encoding.Statement (.stwi d a i) := Encoding.ofWord rfl rfl (by rw [opcodeOf_wordA]; decide)
theorem Sys2Proof.Laws.Encoding.stdi (d : BitVec 8) (a : BitVec 8) (i : BitVec 8) : Encoding.Statement (.stdi d a i) := Encoding.ofWord rfl rfl (by rw [opcodeOf_wordA]; decide)
theorem Sys2Proof.Laws.Encoding.stqi (d : BitVec 8) (a : BitVec 8) (i : BitVec 8) : Encoding.Statement (.stqi d a i) := Encoding.ofWord rfl rfl (by rw [opcodeOf_wordA]; decide)
theorem Sys2Proof.Laws.Encoding.ldbi (d : BitVec 8) (a : BitVec 8) (i : BitVec 8) : Encoding.Statement (.ldbi d a i) := Encoding.ofWord rfl rfl (by rw [opcodeOf_wordA]; decide)
theorem Sys2Proof.Laws.Encoding.stbi (d : BitVec 8) (a : BitVec 8) (i : BitVec 8) : Encoding.Statement (.stbi d a i) := Encoding.ofWord rfl rfl (by rw [opcodeOf_wordA]; decide)
theorem Sys2Proof.Laws.Encoding.aadd (o : BitVec 2) (d : BitVec 8) (a : BitVec 8) (b : BitVec 8) : Encoding.Statement (.aadd o d a b) := Encoding.ofWord rfl rfl (by rw [opcodeOf_wordA]; decide +revert)
theorem Sys2Proof.Laws.Encoding.amin (o : BitVec 2) (d : BitVec 8) (a : BitVec 8) (b : BitVec 8) : Encoding.Statement (.amin o d a b) := Encoding.ofWord rfl rfl (by rw [opcodeOf_wordA]; decide +revert)
theorem Sys2Proof.Laws.Encoding.amax (o : BitVec 2) (d : BitVec 8) (a : BitVec 8) (b : BitVec 8) : Encoding.Statement (.amax o d a b) := Encoding.ofWord rfl rfl (by rw [opcodeOf_wordA]; decide +revert)
theorem Sys2Proof.Laws.Encoding.aand (o : BitVec 2) (d : BitVec 8) (a : BitVec 8) (b : BitVec 8) : Encoding.Statement (.aand o d a b) := Encoding.ofWord rfl rfl (by rw [opcodeOf_wordA]; decide +revert)
theorem Sys2Proof.Laws.Encoding.aor (o : BitVec 2) (d : BitVec 8) (a : BitVec 8) (b : BitVec 8) : Encoding.Statement (.aor o d a b) := Encoding.ofWord rfl rfl (by rw [opcodeOf_wordA]; decide +revert)
theorem Sys2Proof.Laws.Encoding.axor (o : BitVec 2) (d : BitVec 8) (a : BitVec 8) (b : BitVec 8) : Encoding.Statement (.axor o d a b) := Encoding.ofWord rfl rfl (by rw [opcodeOf_wordA]; decide +revert)
theorem Sys2Proof.Laws.Encoding.axch (o : BitVec 2) (d : BitVec 8) (a : BitVec 8) (b : BitVec 8) : Encoding.Statement (.axch o d a b) := Encoding.ofWord rfl rfl (by rw [opcodeOf_wordA]; decide +revert)
theorem Sys2Proof.Laws.Encoding.acas (o : BitVec 2) (d : BitVec 8) (a : BitVec 8) (b : BitVec 8) : Encoding.Statement (.acas o d a b) := Encoding.ofWord rfl rfl (by rw [opcodeOf_wordA]; decide +revert)
theorem Sys2Proof.Laws.Encoding.wait (d : BitVec 8) (a : BitVec 8) (b : BitVec 8) : Encoding.Statement (.wait d a b) := Encoding.ofWord rfl rfl (by rw [opcodeOf_wordA]; decide)
theorem Sys2Proof.Laws.Encoding.wake (d : BitVec 8) (a : BitVec 8) (b : BitVec 8) : Encoding.Statement (.wake d a b) := Encoding.ofWord rfl rfl (by rw [opcodeOf_wordA]; decide)
theorem Sys2Proof.Laws.Encoding.binit (a : BitVec 8) (b : BitVec 8) : Encoding.Statement (.binit a b) := Encoding.ofWord rfl rfl (by rw [opcodeOf_wordA]; decide)
theorem Sys2Proof.Laws.Encoding.barv (d : BitVec 8) (a : BitVec 8) (b : BitVec 8) : Encoding.Statement (.barv d a b) := Encoding.ofWord rfl rfl (by rw [opcodeOf_wordA]; decide)
theorem Sys2Proof.Laws.Encoding.bwait (d : BitVec 8) (a : BitVec 8) (b : BitVec 8) : Encoding.Statement (.bwait d a b) := Encoding.ofWord rfl rfl (by rw [opcodeOf_wordA]; decide)
theorem Sys2Proof.Laws.Encoding.binv (a : BitVec 8) : Encoding.Statement (.binv a) := Encoding.ofWord rfl rfl (by rw [opcodeOf_wordA]; decide)
theorem Sys2Proof.Laws.Encoding.txb (i : BitVec 16) : Encoding.Statement (.txb i) := Encoding.ofWord rfl rfl (by rw [opcodeOf_wordW]; decide)
theorem Sys2Proof.Laws.Encoding.txe (d : BitVec 8) (a : BitVec 8) : Encoding.Statement (.txe d a) := Encoding.ofWord rfl rfl (by rw [opcodeOf_wordA]; decide)
theorem Sys2Proof.Laws.Encoding.txa (i : BitVec 8) : Encoding.Statement (.txa i) := Encoding.ofWord rfl rfl (by rw [opcodeOf_wordA]; decide)
theorem Sys2Proof.Laws.Encoding.txq (d : BitVec 8) : Encoding.Statement (.txq d) := Encoding.ofWord rfl rfl (by rw [opcodeOf_wordA]; decide)
theorem Sys2Proof.Laws.Encoding.ldn (d : BitVec 8) (a : BitVec 8) : Encoding.Statement (.ldn d a) := Encoding.ofWord rfl rfl (by rw [opcodeOf_wordA]; decide)
theorem Sys2Proof.Laws.Encoding.stn (d : BitVec 8) (a : BitVec 8) : Encoding.Statement (.stn d a) := Encoding.ofWord rfl rfl (by rw [opcodeOf_wordA]; decide)
theorem Sys2Proof.Laws.Encoding.acpy (d : BitVec 8) (a : BitVec 8) : Encoding.Statement (.acpy d a) := Encoding.ofWord rfl rfl (by rw [opcodeOf_wordA]; decide)
theorem Sys2Proof.Laws.Encoding.aten (d : BitVec 8) (a : BitVec 8) : Encoding.Statement (.aten d a) := Encoding.ofWord rfl rfl (by rw [opcodeOf_wordA]; decide)
theorem Sys2Proof.Laws.Encoding.agth (d : BitVec 8) (a : BitVec 8) : Encoding.Statement (.agth d a) := Encoding.ofWord rfl rfl (by rw [opcodeOf_wordA]; decide)
theorem Sys2Proof.Laws.Encoding.agtp (d : BitVec 8) (a : BitVec 8) : Encoding.Statement (.agtp d a) := Encoding.ofWord rfl rfl (by rw [opcodeOf_wordA]; decide)
theorem Sys2Proof.Laws.Encoding.asct (d : BitVec 8) (a : BitVec 8) : Encoding.Statement (.asct d a) := Encoding.ofWord rfl rfl (by rw [opcodeOf_wordA]; decide)
theorem Sys2Proof.Laws.Encoding.acol (d : BitVec 8) (a : BitVec 8) : Encoding.Statement (.acol d a) := Encoding.ofWord rfl rfl (by rw [opcodeOf_wordA]; decide)
theorem Sys2Proof.Laws.Encoding.pub (d : BitVec 8) (a : BitVec 8) : Encoding.Statement (.pub d a) := Encoding.ofWord rfl rfl (by rw [opcodeOf_wordA]; decide)
theorem Sys2Proof.Laws.Encoding.hget (d : BitVec 8) (a : BitVec 8) : Encoding.Statement (.hget d a) := Encoding.ofWord rfl rfl (by rw [opcodeOf_wordA]; decide)
theorem Sys2Proof.Laws.Encoding.trace (d : BitVec 8) (a : BitVec 8) : Encoding.Statement (.trace d a) := Encoding.ofWord rfl rfl (by rw [opcodeOf_wordA]; decide)
theorem Sys2Proof.Laws.Encoding.rast (d : BitVec 8) (a : BitVec 8) : Encoding.Statement (.rast d a) := Encoding.ofWord rfl rfl (by rw [opcodeOf_wordA]; decide)
theorem Sys2Proof.Laws.Encoding.trsm (d : BitVec 8) (a : BitVec 8) : Encoding.Statement (.trsm d a) := Encoding.ofWord rfl rfl (by rw [opcodeOf_wordA]; decide)
theorem Sys2Proof.Laws.Encoding.acan (d : BitVec 8) : Encoding.Statement (.acan d) := Encoding.ofWord rfl rfl (by rw [opcodeOf_wordA]; decide)
theorem Sys2Proof.Laws.Encoding.blnd (d : BitVec 8) (a : BitVec 8) (b : BitVec 8) : Encoding.Statement (.blnd d a b) := Encoding.ofWord rfl rfl (by rw [opcodeOf_wordA]; decide)
theorem Sys2Proof.Laws.Encoding.qbind (d : BitVec 8) (a : BitVec 8) : Encoding.Statement (.qbind d a) := Encoding.ofWord rfl rfl (by rw [opcodeOf_wordA]; decide)
theorem Sys2Proof.Laws.Encoding.qtry (d : BitVec 8) (a : BitVec 8) (b : BitVec 8) : Encoding.Statement (.qtry d a b) := Encoding.ofWord rfl rfl (by rw [opcodeOf_wordA]; decide)
theorem Sys2Proof.Laws.Encoding.qcnt (d : BitVec 8) (a : BitVec 8) : Encoding.Statement (.qcnt d a) := Encoding.ofWord rfl rfl (by rw [opcodeOf_wordA]; decide)
theorem Sys2Proof.Laws.Encoding.send (d : BitVec 8) (a : BitVec 8) (b : BitVec 8) : Encoding.Statement (.send d a b) := Encoding.ofWord rfl rfl (by rw [opcodeOf_wordA]; decide)
theorem Sys2Proof.Laws.Encoding.qput (d : BitVec 8) (a : BitVec 8) (b : BitVec 8) : Encoding.Statement (.qput d a b) := Encoding.ofWord rfl rfl (by rw [opcodeOf_wordA]; decide)
theorem Sys2Proof.Laws.Encoding.rqp (d : BitVec 8) (i : BitVec 4) : Encoding.Statement (.rqp d i) := Encoding.ofWord rfl rfl (by rw [opcodeOf_wordA]; decide)
theorem Sys2Proof.Laws.Encoding.rqg (d : BitVec 8) (i : BitVec 4) : Encoding.Statement (.rqg d i) := Encoding.ofWord rfl rfl (by rw [opcodeOf_wordA]; decide)
theorem Sys2Proof.Laws.Encoding.rsvp (d : BitVec 8) (a : BitVec 8) (b : BitVec 8) : Encoding.Statement (.rsvp d a b) := Encoding.ofWord rfl rfl (by rw [opcodeOf_wordA]; decide)
theorem Sys2Proof.Laws.Encoding.rsvg (d : BitVec 8) : Encoding.Statement (.rsvg d) := Encoding.ofWord rfl rfl (by rw [opcodeOf_wordA]; decide)
theorem Sys2Proof.Laws.Encoding.rsvd (d : BitVec 8) (a : BitVec 8) : Encoding.Statement (.rsvd d a) := Encoding.ofWord rfl rfl (by rw [opcodeOf_wordA]; decide)
theorem Sys2Proof.Laws.Encoding.shoot (d : BitVec 8) (a : BitVec 8) (b : BitVec 8) : Encoding.Statement (.shoot d a b) := Encoding.ofWord rfl rfl (by rw [opcodeOf_wordA]; decide)
theorem Sys2Proof.Laws.Encoding.bias (d : BitVec 8) (a : BitVec 8) (b : BitVec 8) : Encoding.Statement (.bias d a b) := Encoding.ofWord rfl rfl (by rw [opcodeOf_wordA]; decide)
theorem Sys2Proof.Laws.Encoding.flush (d : BitVec 8) (a : BitVec 8) : Encoding.Statement (.flush d a) := Encoding.ofWord rfl rfl (by rw [opcodeOf_wordA]; decide)
theorem Sys2Proof.Laws.Encoding.mgrt (d : BitVec 8) (a : BitVec 8) (b : BitVec 8) : Encoding.Statement (.mgrt d a b) := Encoding.ofWord rfl rfl (by rw [opcodeOf_wordA]; decide)
theorem Sys2Proof.Laws.Encoding.uNfet : Encoding.Statement (.uNfet) := Encoding.ofMicro rfl rfl rfl
theorem Sys2Proof.Laws.Encoding.uBoxt : Encoding.Statement (.uBoxt) := Encoding.ofMicro rfl rfl rfl
theorem Sys2Proof.Laws.Encoding.uTrit : Encoding.Statement (.uTrit) := Encoding.ofMicro rfl rfl rfl
theorem Sys2Proof.Laws.Encoding.uEdgt : Encoding.Statement (.uEdgt) := Encoding.ofMicro rfl rfl rfl
theorem Sys2Proof.Laws.Encoding.uSplt : Encoding.Statement (.uSplt) := Encoding.ofMicro rfl rfl rfl
theorem Sys2Proof.Laws.Encoding.uDepz : Encoding.Statement (.uDepz) := Encoding.ofMicro rfl rfl rfl
theorem Sys2Proof.Laws.Encoding.uOrdr : Encoding.Statement (.uOrdr) := Encoding.ofMicro rfl rfl rfl
theorem Sys2Proof.Laws.Encoding.uPush : Encoding.Statement (.uPush) := Encoding.ofMicro rfl rfl rfl
theorem Sys2Proof.Laws.Encoding.uPop : Encoding.Statement (.uPop) := Encoding.ofMicro rfl rfl rfl
theorem Sys2Proof.Laws.Encoding.uNext : Encoding.Statement (.uNext) := Encoding.ofMicro rfl rfl rfl
theorem Sys2Proof.Laws.Encoding.uLeaf (a : BitVec 6) : Encoding.Statement (.uLeaf a) := Encoding.ofMicro rfl rfl rfl
theorem Sys2Proof.Laws.Encoding.uInst : Encoding.Statement (.uInst) := Encoding.ofMicro rfl rfl rfl
theorem Sys2Proof.Laws.Encoding.uIpop : Encoding.Statement (.uIpop) := Encoding.ofMicro rfl rfl rfl
theorem Sys2Proof.Laws.Encoding.uHit : Encoding.Statement (.uHit) := Encoding.ofMicro rfl rfl rfl
theorem Sys2Proof.Laws.Encoding.uTmax : Encoding.Statement (.uTmax) := Encoding.ofMicro rfl rfl rfl
theorem Sys2Proof.Laws.Encoding.uAnyh : Encoding.Statement (.uAnyh) := Encoding.ofMicro rfl rfl rfl
theorem Sys2Proof.Laws.Encoding.uEmit : Encoding.Statement (.uEmit) := Encoding.ofMicro rfl rfl rfl
theorem Sys2Proof.Laws.Encoding.uLdr (a : BitVec 6) (b : BitVec 6) (i : BitVec 14) : Encoding.Statement (.uLdr a b i) := Encoding.ofMicro rfl rfl rfl
theorem Sys2Proof.Laws.Encoding.uFlg (i : BitVec 4) : Encoding.Statement (.uFlg i) := Encoding.ofMicro rfl rfl rfl
theorem Sys2Proof.Laws.Encoding.uBrc (n : BitVec 1) (flag : BitVec 3) (t : BitVec 14) : Encoding.Statement (.uBrc n flag t) := Encoding.ofMicro rfl rfl rfl
theorem Sys2Proof.Laws.Encoding.uJmp (t : BitVec 14) : Encoding.Statement (.uJmp t) := Encoding.ofMicro rfl rfl rfl
theorem Sys2Proof.Laws.Encoding.uYld : Encoding.Statement (.uYld) := Encoding.ofMicro rfl rfl rfl
theorem Sys2Proof.Laws.Encoding.uStat (a : BitVec 6) (i : BitVec 14) : Encoding.Statement (.uStat a i) := Encoding.ofMicro rfl rfl rfl
theorem Sys2Proof.Laws.Encoding.uDone : Encoding.Statement (.uDone) := Encoding.ofMicro rfl rfl rfl
theorem Sys2Proof.Laws.Encoding.evPowerOn (b : BringUp) : Encoding.Statement (.evPowerOn b) := Encoding.ofEvent rfl rfl
theorem Sys2Proof.Laws.Encoding.evReportQuery : Encoding.Statement (.evReportQuery) := Encoding.ofEvent rfl rfl
theorem Sys2Proof.Laws.Encoding.evAttestationRequest (nonce : BitVec 256) : Encoding.Statement (.evAttestationRequest nonce) := Encoding.ofEvent rfl rfl
theorem Sys2Proof.Laws.Encoding.evHostRequest (r : MemReq) : Encoding.Statement (.evHostRequest r) := Encoding.ofEvent rfl rfl
theorem Sys2Proof.Laws.Encoding.evOlunRequest (port : Nat) (r : MemReq) : Encoding.Statement (.evOlunRequest port r) := Encoding.ofEvent rfl rfl
theorem Sys2Proof.Laws.Encoding.evFlitFailure (port : Nat) : Encoding.Statement (.evFlitFailure port) := Encoding.ofEvent rfl rfl
theorem Sys2Proof.Laws.Encoding.evBirspArrival (line : Nat) (wb : Option (BitVec 512)) : Encoding.Statement (.evBirspArrival line wb) := Encoding.ofEvent rfl rfl
theorem Sys2Proof.Laws.Encoding.evCxlLinkDown : Encoding.Statement (.evCxlLinkDown) := Encoding.ofEvent rfl rfl
theorem Sys2Proof.Laws.Encoding.evTimeCorrection (die : Nat) (ns : Int) : Encoding.Statement (.evTimeCorrection die ns) := Encoding.ofEvent rfl rfl
theorem Sys2Proof.Laws.Encoding.evPowerMeasurement (draw : BitVec 12) : Encoding.Statement (.evPowerMeasurement draw) := Encoding.ofEvent rfl rfl
theorem Sys2Proof.Laws.Encoding.evCoreGating (die core : Nat) : Encoding.Statement (.evCoreGating die core) := Encoding.ofEvent rfl rfl
theorem Sys2Proof.Laws.Encoding.evCoreWake (die core : Nat) : Encoding.Statement (.evCoreWake die core) := Encoding.ofEvent rfl rfl
theorem Sys2Proof.Laws.Encoding.evSoftError (e : ErrInfo) : Encoding.Statement (.evSoftError e) := Encoding.ofEvent rfl rfl
theorem Sys2Proof.Laws.Encoding.evMboxPush (die quad n : Nat) (w : Word) : Encoding.Statement (.evMboxPush die quad n w) := Encoding.ofEvent rfl rfl
theorem Sys2Proof.Laws.Encoding.evLqBell (die : Nat) (w : Word) : Encoding.Statement (.evLqBell die w) := Encoding.ofEvent rfl rfl
theorem Sys2Proof.Laws.Encoding.evLqErrRead (die : Nat) : Encoding.Statement (.evLqErrRead die) := Encoding.ofEvent rfl rfl
theorem Sys2Proof.Laws.Encoding.evCtxPre (die : Nat) (w : Word) : Encoding.Statement (.evCtxPre die w) := Encoding.ofEvent rfl rfl
theorem Sys2Proof.Laws.Encoding.evReplay (die core : Nat) (unit : BitVec 8) : Encoding.Statement (.evReplay die core unit) := Encoding.ofEvent rfl rfl
theorem Sys2Proof.Laws.Encoding.evResume (die core : Nat) (unit : BitVec 8) : Encoding.Statement (.evResume die core unit) := Encoding.ofEvent rfl rfl
theorem Sys2Proof.Laws.Encoding.evRedirect (die core : Nat) (unit : BitVec 8) : Encoding.Statement (.evRedirect die core unit) := Encoding.ofEvent rfl rfl
theorem Sys2Proof.Laws.Encoding.evReturn (die core : Nat) (unit : BitVec 8) : Encoding.Statement (.evReturn die core unit) := Encoding.ofEvent rfl rfl
theorem Sys2Proof.Laws.Encoding.evReleaseWaiter (die core : Nat) (unit : BitVec 8) : Encoding.Statement (.evReleaseWaiter die core unit) := Encoding.ofEvent rfl rfl
theorem Sys2Proof.Laws.Encoding.evKill (die core : Nat) (unit : BitVec 8) : Encoding.Statement (.evKill die core unit) := Encoding.ofEvent rfl rfl
theorem Sys2Proof.Laws.Encoding.evDiscardTask (die core : Nat) (unit : BitVec 8) : Encoding.Statement (.evDiscardTask die core unit) := Encoding.ofEvent rfl rfl
theorem Sys2Proof.Laws.Encoding.evReplayCommand (die core : Nat) (unit : BitVec 8) : Encoding.Statement (.evReplayCommand die core unit) := Encoding.ofEvent rfl rfl
theorem Sys2Proof.Laws.Encoding.evCancelCommand (die core : Nat) (unit : BitVec 8) : Encoding.Statement (.evCancelCommand die core unit) := Encoding.ofEvent rfl rfl
theorem Sys2Proof.Laws.Encoding.evChanOwner (die quad : Nat) (w : Word) : Encoding.Statement (.evChanOwner die quad w) := Encoding.ofEvent rfl rfl
theorem Sys2Proof.Laws.Encoding.evLdrCfg (die quad n : Nat) (w : Word) : Encoding.Statement (.evLdrCfg die quad n w) := Encoding.ofEvent rfl rfl
theorem Sys2Proof.Laws.Encoding.evRdcCfg (die : Nat) (w : Word) : Encoding.Statement (.evRdcCfg die w) := Encoding.ofEvent rfl rfl
theorem Sys2Proof.Laws.Encoding.evWaiterCfg (die : Nat) (w : Word) : Encoding.Statement (.evWaiterCfg die w) := Encoding.ofEvent rfl rfl
theorem Sys2Proof.Laws.Encoding.evCtrDataRead (die core : Nat) : Encoding.Statement (.evCtrDataRead die core) := Encoding.ofEvent rfl rfl
theorem Sys2Proof.Laws.Encoding.evCtrDataWrite (die core : Nat) (w : Word) : Encoding.Statement (.evCtrDataWrite die core w) := Encoding.ofEvent rfl rfl
theorem Sys2Proof.Laws.Encoding.evDlyDataWrite (die core : Nat) (w : Word) : Encoding.Statement (.evDlyDataWrite die core w) := Encoding.ofEvent rfl rfl
theorem Sys2Proof.Laws.Encoding.evMonCfgWrite (die : Nat) (w : Word) : Encoding.Statement (.evMonCfgWrite die w) := Encoding.ofEvent rfl rfl
theorem Sys2Proof.Laws.Encoding.evPortFrz (die : Nat) (w : Word) : Encoding.Statement (.evPortFrz die w) := Encoding.ofEvent rfl rfl
theorem Sys2Proof.Laws.Encoding.evNgateWrite (die : Nat) (w : Word) : Encoding.Statement (.evNgateWrite die w) := Encoding.ofEvent rfl rfl
theorem Sys2Proof.Laws.Encoding.evStopRequest (die core : Nat) : Encoding.Statement (.evStopRequest die core) := Encoding.ofEvent rfl rfl
theorem Sys2Proof.Laws.Encoding.evStopRelease (die core : Nat) : Encoding.Statement (.evStopRelease die core) := Encoding.ofEvent rfl rfl
theorem Sys2Proof.Laws.Encoding.evSfstatClr (d : Fld) : Encoding.Statement (.evSfstatClr d) := Encoding.ofEvent rfl rfl
theorem Sys2Proof.Laws.Encoding.evStimeLo (d : Fld) : Encoding.Statement (.evStimeLo d) := Encoding.ofEvent rfl rfl
theorem Sys2Proof.Laws.Encoding.evSretLo (d : Fld) : Encoding.Statement (.evSretLo d) := Encoding.ofEvent rfl rfl
theorem Sys2Proof.Laws.Encoding.evCycLo (die core : Nat) : Encoding.Statement (.evCycLo die core) := Encoding.ofEvent rfl rfl
theorem Sys2Proof.Laws.Encoding.evMsgDrop (die : Nat) : Encoding.Statement (.evMsgDrop die) := Encoding.ofEvent rfl rfl
theorem Sys2Proof.Laws.Encoding.evSeCorr (die : Nat) : Encoding.Statement (.evSeCorr die) := Encoding.ofEvent rfl rfl
theorem Sys2Proof.Laws.Encoding.evSeUnc (die : Nat) : Encoding.Statement (.evSeUnc die) := Encoding.ofEvent rfl rfl
theorem Sys2Proof.Laws.Encoding.evTrcLost (die : Nat) : Encoding.Statement (.evTrcLost die) := Encoding.ofEvent rfl rfl
theorem Sys2Proof.Laws.Encoding.evTrcHead (die : Nat) : Encoding.Statement (.evTrcHead die) := Encoding.ofEvent rfl rfl
theorem Sys2Proof.Laws.Encoding.evDwDataRead (die core : Nat) : Encoding.Statement (.evDwDataRead die core) := Encoding.ofEvent rfl rfl
theorem Sys2Proof.Laws.Encoding.evDwDataWrite (die core : Nat) (w : DWord) : Encoding.Statement (.evDwDataWrite die core w) := Encoding.ofEvent rfl rfl
theorem Sys2Proof.Laws.Encoding.evSystemRegisterWrite (die core n : Nat) (w : Word) : Encoding.Statement (.evSystemRegisterWrite die core n w) := Encoding.ofEvent rfl rfl
theorem Sys2Proof.Laws.Encoding.evLaunchQueueTake (die slot prio : Nat) : Encoding.Statement (.evLaunchQueueTake die slot prio) := Encoding.ofEvent rfl rfl
theorem Sys2Proof.Laws.Encoding.evDependenceNotification (die asid : Nat) (va : DWord) : Encoding.Statement (.evDependenceNotification die asid va) := Encoding.ofEvent rfl rfl
theorem Sys2Proof.Laws.Encoding.evConditionRead (die slot prio : Nat) : Encoding.Statement (.evConditionRead die slot prio) := Encoding.ofEvent rfl rfl
theorem Sys2Proof.Laws.Encoding.evPlacement (die : Nat) : Encoding.Statement (.evPlacement die) := Encoding.ofEvent rfl rfl
theorem Sys2Proof.Laws.Encoding.evGridCompletion (grid : Nat) : Encoding.Statement (.evGridCompletion grid) := Encoding.ofEvent rfl rfl
theorem Sys2Proof.Laws.Encoding.evSliceExpiry (die slot : Nat) : Encoding.Statement (.evSliceExpiry die slot) := Encoding.ofEvent rfl rfl
theorem Sys2Proof.Laws.Encoding.evPreemptionComplete (die : Nat) : Encoding.Statement (.evPreemptionComplete die) := Encoding.ofEvent rfl rfl
theorem Sys2Proof.Laws.Encoding.evCapture (slot : Nat) : Encoding.Statement (.evCapture slot) := Encoding.ofEvent rfl rfl
theorem Sys2Proof.Laws.Encoding.evBinLaunch (die quad bin : Nat) : Encoding.Statement (.evBinLaunch die quad bin) := Encoding.ofEvent rfl rfl
theorem Sys2Proof.Laws.Encoding.evBinTimerExpiry (die quad bin : Nat) : Encoding.Statement (.evBinTimerExpiry die quad bin) := Encoding.ofEvent rfl rfl
theorem Sys2Proof.Laws.Encoding.evTaskDispatch (die core : Nat) (mcc : Bool) : Encoding.Statement (.evTaskDispatch die core mcc) := Encoding.ofEvent rfl rfl
theorem Sys2Proof.Laws.Encoding.evGangPromotion (p : Place) (gang : Nat) : Encoding.Statement (.evGangPromotion p gang) := Encoding.ofEvent rfl rfl
theorem Sys2Proof.Laws.Encoding.evRegangRejoin (p : Place) : Encoding.Statement (.evRegangRejoin p) := Encoding.ofEvent rfl rfl
theorem Sys2Proof.Laws.Encoding.evHaltTakesEffect (p : Place) : Encoding.Statement (.evHaltTakesEffect p) := Encoding.ofEvent rfl rfl
theorem Sys2Proof.Laws.Encoding.evFillArrival (die : Nat) : Encoding.Statement (.evFillArrival die) := Encoding.ofEvent rfl rfl
theorem Sys2Proof.Laws.Encoding.evWriteThroughArrival (die : Nat) : Encoding.Statement (.evWriteThroughArrival die) := Encoding.ofEvent rfl rfl
theorem Sys2Proof.Laws.Encoding.evMessageDelivery (die core : Nat) : Encoding.Statement (.evMessageDelivery die core) := Encoding.ofEvent rfl rfl
theorem Sys2Proof.Laws.Encoding.evInputBufferDelivery (die core : Nat) : Encoding.Statement (.evInputBufferDelivery die core) := Encoding.ofEvent rfl rfl
theorem Sys2Proof.Laws.Encoding.evFaultPacketDelivery (die : Nat) : Encoding.Statement (.evFaultPacketDelivery die) := Encoding.ofEvent rfl rfl
theorem Sys2Proof.Laws.Encoding.evSleepTimeout (p : Place) (gang : Nat) : Encoding.Statement (.evSleepTimeout p gang) := Encoding.ofEvent rfl rfl
theorem Sys2Proof.Laws.Encoding.evRiserGrant (die : Nat) : Encoding.Statement (.evRiserGrant die) := Encoding.ofEvent rfl rfl
theorem Sys2Proof.Laws.Encoding.evCommandBlock (cmd : Nat) : Encoding.Statement (.evCommandBlock cmd) := Encoding.ofEvent rfl rfl
theorem Sys2Proof.Laws.Encoding.evTokenWrite (cmd : Nat) : Encoding.Statement (.evTokenWrite cmd) := Encoding.ofEvent rfl rfl
theorem Sys2Proof.Laws.Encoding.evMxwlCompletion (die quad : Nat) : Encoding.Statement (.evMxwlCompletion die quad) := Encoding.ofEvent rfl rfl
theorem Sys2Proof.Laws.Encoding.evMxstRow (p : Place) : Encoding.Statement (.evMxstRow p) := Encoding.ofEvent rfl rfl
theorem Sys2Proof.Laws.Encoding.evMxrdRow (p : Place) : Encoding.Statement (.evMxrdRow p) := Encoding.ofEvent rfl rfl
theorem Sys2Proof.Laws.Encoding.evStackSpill (batch : Nat) : Encoding.Statement (.evStackSpill batch) := Encoding.ofEvent rfl rfl
theorem Sys2Proof.Laws.Encoding.evBatchCompletion (batch : Nat) : Encoding.Statement (.evBatchCompletion batch) := Encoding.ofEvent rfl rfl
theorem Sys2Proof.Laws.Encoding.evComparatorFire (p : Place) (gang n : Nat) : Encoding.Statement (.evComparatorFire p gang n) := Encoding.ofEvent rfl rfl
theorem Sys2Proof.Laws.Encoding.evSampleRecord (die core : Nat) : Encoding.Statement (.evSampleRecord die core) := Encoding.ofEvent rfl rfl
theorem Sys2Proof.Laws.Encoding.evPreciseStopReached (die core : Nat) : Encoding.Statement (.evPreciseStopReached die core) := Encoding.ofEvent rfl rfl
theorem Sys2Proof.Laws.Encoding.evMonitorLevelSample (die mon : Nat) : Encoding.Statement (.evMonitorLevelSample die mon) := Encoding.ofEvent rfl rfl
theorem Sys2Proof.Laws.Encoding.evUnassignedOpcode (w : Word) : Encoding.Statement (.evUnassignedOpcode w) := Encoding.ofEvent rfl rfl
theorem Sys2Proof.Laws.Encoding.evReservedMicroOperation (w : Word) : Encoding.Statement (.evReservedMicroOperation w) := Encoding.ofEvent rfl rfl
theorem Sys2Proof.Laws.Encoding.evSilentPackage (pkg : Nat) : Encoding.Statement (.evSilentPackage pkg) := Encoding.ofEvent rfl rfl
theorem Sys2Proof.Laws.Encoding.evWriteThroughAcknowledgement (die : Nat) : Encoding.Statement (.evWriteThroughAcknowledgement die) := Encoding.ofEvent rfl rfl
end

