-- ==== Sys2Proof/Machine/Nelo.lean ====
section
/-! DEFINITION. The Nelo object format and what the loader makes of an object (R72 to R74): a function from a file to the bytes it places, or to the
failures it reports. No step calls it: the loader is part of the supervisor runtime (R74; log entry 97). -/

namespace Sys2Proof.Machine

/-- A row of the section table (R72). -/
structure NeloSect where
  name : Nat
  kind : Nat
  align : Nat
  size : Nat
  dataOff : Nat
  deriving DecidableEq, Repr

/-- A row of the symbol table (R72). -/
structure NeloSym where
  name : Nat
  sect : Nat
  global : Bool
  kind : Nat
  value : Nat
  aux : Nat
  deriving DecidableEq, Repr

/-- A row of the relocation table (R72). -/
structure NeloRel where
  sect : Nat
  sym : Nat
  offset : Nat
  kind : Nat
  high : Nat
  reserved : Nat
  addend : Int
  deriving DecidableEq, Repr

/-- An object whose layout R72 accepts, with the contents of its sections. -/
structure Nelo where
  sects : List NeloSect
  syms : List NeloSym
  rels : List NeloRel
  strs : List Byte
  contents : List (List Byte)
  deriving DecidableEq, Repr

/-- What the loader reports of a relocation that fails (R74); value is none where its symbol stays undefined. -/
structure NeloFailure where
  name : List Byte
  sect : Nat
  offset : Nat
  kind : Nat
  value : Option Int
  deriving DecidableEq, Repr

/-- Why a module is refused (R72, R74). -/
inductive NeloRefusal where
  | badObject
  /-- the failures in relocation-table order, the names that stay undefined, and the global names already defined -/
  | failed (failures : List NeloFailure) (undefined defined : List (List Byte))
  deriving DecidableEq, Repr

/-- What a module that passes places: each section's address and bytes, and the global names it defines. -/
structure NeloPlaced where
  bytes : List (Nat × List Byte)
  globals : List (List Byte × Nat)
  deriving DecidableEq, Repr

def fileLe (file : List Byte) (off n : Nat) : Nat := ofBytes ((file.drop off).take n)

def tableRows {α : Type} (n off size : Nat) (row : Nat → α) : List α := (List.range n).map (fun i => row (off + size * i))

/-- The name that starts at an offset of the string table; none where no zero byte ends it. -/
def neloName (strs : List Byte) (off : Nat) : Option (List Byte) :=
  let rest := strs.drop off
  if rest.contains 0 then some (rest.takeWhile (fun b => decide (b ≠ 0))) else none

def neloSect (file : List Byte) (o : Nat) : NeloSect :=
  { name := fileLe file o 4, kind := fileLe file (o + 4) 1, align := fileLe file (o + 5) 1, size := fileLe file (o + 8) 8, dataOff := fileLe file (o + 16) 8 }

def neloSym (file : List Byte) (o : Nat) : NeloSym :=
  { name := fileLe file o 4, sect := fileLe file (o + 4) 2, global := decide (fileLe file (o + 6) 1 = 1), kind := fileLe file (o + 7) 1,
    value := fileLe file (o + 8) 8, aux := fileLe file (o + 24) 8 }

def neloRel (file : List Byte) (o : Nat) : NeloRel :=
  { sect := fileLe file o 4, sym := fileLe file (o + 4) 4, offset := fileLe file (o + 8) 8, kind := fileLe file (o + 16) 1, high := fileLe file (o + 17) 1,
    reserved := fileLe file (o + 18) 2, addend := sint 32 (fileLe file (o + 20) 4) }

/-- The object in a file; none where the loader refuses its layout (R72). A reserved field of a relocation is R73's. -/
def parseNelo (file : List Byte) : Option Nelo :=
  let len := file.length
  let nsect := fileLe file 8 4
  let nsym := fileLe file 12 4
  let nrel := fileLe file 16 4
  let nstr := fileLe file 20 4
  let oSect := fileLe file 24 8
  let oSym := fileLe file 32 8
  let oRel := fileLe file 40 8
  let oStr := fileLe file 48 8
  if !(decide (64 ≤ len ∧ file.take 4 = [0x4E, 0x45, 0x4C, 0x4F] ∧ fileLe file 4 2 = 1 ∧ fileLe file 6 2 = 0 ∧ fileLe file 56 8 = 0) &&
       decide (oSect + 32 * nsect ≤ len ∧ oSym + 32 * nsym ≤ len ∧ oRel + 24 * nrel ≤ len ∧ oStr + nstr ≤ len)) then none
  else
    let strs := (file.drop oStr).take nstr
    let sects := tableRows nsect oSect 32 (neloSect file)
    let syms := tableRows nsym oSym 32 (neloSym file)
    let reserved := tableRows nsect oSect 32 (fun o => fileLe file (o + 6) 2 + fileLe file (o + 24) 8)
    let sectOk (x : NeloSect) : Bool :=
      decide (1 ≤ x.kind ∧ x.kind ≤ 5 ∧ x.align ≤ 12) && (neloName strs x.name).isSome &&
      (if x.kind = 4 then decide (x.dataOff = 0) else decide (x.dataOff + x.size ≤ len))
    let symOk (y : NeloSym) : Bool := (neloName strs y.name).isSome && decide (y.sect ≤ nsect ∨ y.sect = 0xFFFF)
    if sects.all sectOk && syms.all symOk && reserved.all (fun x => decide (x = 0)) then
      some { sects := sects, syms := syms, rels := tableRows nrel oRel 24 (neloRel file), strs := strs,
             contents := sects.map (fun x => if x.kind = 4 then [] else (file.drop x.dataOff).take x.size) }
    else none

/-- The opcodes of form W, those of them with a signed word offset, and those of form J (R59, R62). -/
def formW : List Nat := [0x04, 0x05, 0x09, 0x0B, 0x10, 0x51, 0x52, 0x53, 0xD6]
def offsetW : List Nat := [0x04, 0x05, 0x09, 0xD6]
def formJ : List Nat := [0x02, 0x03, 0x18]

/-- The access size of an opcode from 0xA0 to 0xA7 (R62). -/
def immSize (op : Nat) : Option Nat := if op < 0xA0 then none else [4, 8, 16, 4, 8, 16, 1, 1][op - 0xA0]?

/-- The value of a relocation of a word, as the word's field takes it, and the width of that field; none where the kind does not fit the opcode
or the value fails its check (R73). w is the word, t = S + A, p the word's placed address. -/
def wordReloc (kind high w : Nat) (t : Int) (p : Nat) : Int × Option (Nat × Nat) :=
  let op := w / 2 ^ 24
  let d := t - (p + 4)
  let wrapped := (BitVec.ofInt 64 t).toNat
  let field (ok : Bool) (n : Nat) (v : Int) : Int × Option (Nat × Nat) := (v, if ok then some (n, (BitVec.ofInt n v).toNat) else none)
  let half (sh : Nat) := field (decide (high ≤ 1) && formW.contains op) 16 (Int.ofNat (wrapped / 2 ^ (sh + 32 * high) % 2 ^ 16))
  match kind with
  | 1 =>
    if formJ.contains op then field (decide (d % 4 = 0 ∧ -2 ^ 23 ≤ d / 4 ∧ d / 4 < 2 ^ 23)) 24 (d / 4)
    else if offsetW.contains op then field (decide (d % 4 = 0 ∧ -2 ^ 15 ≤ d / 4 ∧ d / 4 < 2 ^ 15)) 16 (d / 4)
    else field (decide (op = 0x0B ∧ d % 4 = 0 ∧ 0 ≤ d / 4 ∧ d / 4 < 2 ^ 16)) 16 (d / 4)
  | 2 => half 0
  | 3 => half 16
  | _ =>
    match immSize op with
    | none => (t, none)
    | some n => field (decide (t % n = 0 ∧ -128 ≤ t / n ∧ t / n ≤ 127)) 8 (t / n)

/-- Replace the n bytes at an offset. -/
def patch (bs : List Byte) (off n v : Nat) : List Byte := bs.take off ++ bytesOf n v ++ bs.drop (off + n)

/-- One relocation of a section's contents, S + A in 64-bit two's complement (R69; log entry 97): its computed value, and the contents after it, none for an overflow (R73). -/
def applyReloc (r : NeloRel) (y : NeloSym) (s p asid : Nat) (bs : List Byte) : Int × Option (List Byte) :=
  let t : Int := (BitVec.ofNat 64 s + BitVec.ofInt 64 r.addend).toInt
  let fits (n : Nat) : Bool := decide (r.reserved = 0 ∧ r.offset + n ≤ bs.length)
  let put (ok : Bool) (n : Nat) (v : Int) : Int × Option (List Byte) :=
    (v, if ok && fits n then some (patch bs r.offset n (BitVec.ofInt (8 * n) v).toNat) else none)
  match r.kind with
  | 5 => put (decide (0 ≤ t ∧ t < 2 ^ 32)) 4 t
  | 6 => put true 8 t
  | 7 =>
    (t, if fits 64 && decide (y.kind = 1 ∧ y.aux % 2 ^ 8 = fileLe bs (r.offset + 0x3A) 1 ∧ y.aux % 2 ^ 32 / 2 ^ 8 = 65536 * fileLe bs (r.offset + 0x3B) 1 ∧
          s % 4 = 0 ∧ s < 2 ^ 57)
      then some (patch (patch bs r.offset 8 s) (r.offset + 0x38) 2 asid) else none)
  | k =>
    let w := fileLe bs r.offset 4
    let x := wordReloc k r.high w t p
    (x.1, match x.2 with
      | some (n, v) => if decide (1 ≤ k ∧ k ≤ 4) && fits 4 then some (patch bs r.offset 4 (w / 2 ^ n * 2 ^ n + v)) else none
      | none => none)

/-- Where a symbol lies: in a section as placed, absolute, or in a module that the context already holds. -/
def symAddr (m : Nelo) (bases : List Nat) (globals : List (List Byte × Nat)) (y : NeloSym) : Option Nat :=
  if y.sect = 0xFFFF then some y.value
  else if y.sect = 0 then (globals.find? (fun g => some g.1 == neloName m.strs y.name)).map (·.2)
  else some ((bases.getD (y.sect - 1) 0 + y.value) % 2 ^ 64)

/-- Every relocation in table order: the contents of the sections after those that hold, and the failures of the others. -/
def relocate (m : Nelo) (bases : List Nat) (globals : List (List Byte × Nat)) (asid : Nat) :
    List NeloRel → List (List Byte) → List (List Byte) × List NeloFailure
  | [], cs => (cs, [])
  | r :: rs, cs =>
    let y := m.syms[r.sym]?
    let fail (v : Option Int) : List (List Byte) × List NeloFailure :=
      let x := relocate m bases globals asid rs cs
      (x.1, { name := (y.bind (fun y => neloName m.strs y.name)).getD [], sect := r.sect, offset := r.offset, kind := r.kind, value := v } :: x.2)
    match y with
    | none => fail none
    | some y => match symAddr m bases globals y with
      | none => fail none
      | some s =>
        let x := applyReloc r y s (bases.getD (r.sect - 1) 0 + r.offset) asid (if r.sect = 0 then [] else cs.getD (r.sect - 1) [])
        match x.2 with
        | none => fail (some x.1)
        | some bs => relocate m bases globals asid rs (setAt cs (r.sect - 1) bs)

/-- The loader (R74): bases are the addresses that it has chosen for the sections, globals the names that the context already defines. It resolves every
relocation before it places a byte, and refuses the whole module for any failure. -/
def loadNelo (file : List Byte) (bases : List Nat) (globals : List (List Byte × Nat)) (asid : Nat) : Except NeloRefusal NeloPlaced :=
  match parseNelo file with
  | none => .error .badObject
  | some m =>
    let x := relocate m bases globals asid m.rels m.contents
    let names (p : NeloSym → Bool) : List (List Byte) := (m.syms.filter p).filterMap (fun y => neloName m.strs y.name)
    let undef := names (fun y => decide (symAddr m bases globals y = none))
    let defs := names (fun y => y.global && decide (y.sect ≠ 0))
    let dup := defs.filter (fun n => globals.any (fun g => decide (g.1 = n)))
    if x.2.isEmpty && undef.isEmpty && dup.isEmpty then
      .ok { bytes := (m.sects.zip (bases.zip x.1)).map (fun z => (z.2.1, if z.1.kind = 4 then List.replicate z.1.size 0 else z.2.2)),
            globals := (m.syms.filter (fun y => y.global && decide (y.sect ≠ 0))).filterMap (fun y =>
              match neloName m.strs y.name, symAddr m bases globals y with
              | some n, some a => some (n, a)
              | _, _ => none) }
    else .error (.failed x.2 undef dup)

/-- The bytes of a module that passes, written for the context by whoever loads it. -/
def placeNelo (s : State) (w : Who) (m : NeloPlaced) : State :=
  m.bytes.foldl (fun s x => sysPut s w x.1 x.2.length (ofBytes x.2)) s

end Sys2Proof.Machine
end

