-- ==== Sys2Proof/Safety.lean ====
section
/-! DEFINITION. What counts as a safe run. -/

namespace Sys2Proof.Safety

open Sys2Proof.Machine

/-- A step that answers a next state: the machine has not stopped. -/
def goesOn (s : State) : Prop := ∃ s', step s = .next s'

/-- Runs of any number of steps (for an invariant's reachability). -/
inductive Reaches : State → State → Prop where
  | refl (s : State) : Reaches s s
  | tail {s t u : State} (h : Reaches s t) (k : step t = .next u) : Reaches s u

/-- A property holds of every state that a run from a state meets. -/
def Always (P : State → Prop) (s : State) : Prop := ∀ t, Reaches s t → P t

end Sys2Proof.Safety
end

