-- ==== Sys2Proof/Tests/Slice0.lean ====
section
/-! SUPPORT. Tests: terms that are not well-formed, words of the spec's encodings, worked examples of the spec, and for every statement a state and
operands that meet its hypotheses. -/

namespace Sys2Proof.Tests

open Sys2Proof Sys2Proof.Machine Sys2Proof.Spec

set_option Elab.async false

/-! ## Small states -/

def waveAt : Place := { die := 0, core := 0, unit := 0 }
def threadAt : Place := { die := 0, core := 0, unit := 0x40 }
def mccAt : Place := { die := 0, core := 0, unit := 0xC0 }
def supAt : Place := { die := 0, core := 240, unit := 0 }

/-- Registers with a mode, lane values v0 = lane number + 5 and v4 = 3 in lanes 0 to 3, and k0 = 7. -/
def someRegs (mode : BitVec 16) : Regs :=
  { blankRegs with mode := mode, v := [(0, 5), (4, 3), (128, 6), (132, 3), (256, 7), (260, 3), (384, 8), (388, 3)], k := [(0, 7)] }

/-- A unit whose first slice has four live lanes (a thread: lane 0 alone), of which lanes 0 and 2 are active, at 0x100000. -/
def unitOf (p : Place) (e : Engine) (mode : BitVec 16) : Machine.Unit :=
  { blankUnit p e 0 1 with
    regs := someRegs mode,
    slices := { blankSlice with pc := 0x100000, live := if e = .wave then 15 else 1, active := if e = .wave then 5 else 1 } :: List.replicate (if e = .wave then 23 else 0) blankSlice }

/-- One unit, whose gang 0 is current. -/
def one (u : Machine.Unit) : State := { State.reset with units := [u], cur := .unit u.place 0 }
def wave (mode : BitVec 16) : State := one (unitOf waveAt .wave mode)
def thread (mode : BitVec 16) : State := one (unitOf threadAt .swarm mode)
def mcc (mode : BitVec 16) : State := one (unitOf mccAt .mcc mode)
def sup (mode : BitVec 16) : State := one (unitOf supAt .sup mode)

/-- The issue of the current gang. -/
def iss (s : State) (guarded : Bool) : Issue := (issueOf s guarded).getD { u := unitOf waveAt .wave 0, gang := 0, slices := [], pc := 0, lanes := [] }

/-! ## Meeting the hypotheses -/

def mayRunB (s : State) (d : Desc) : Bool :=
  (issueOf s d.guarded).isSome && decide (checks (iss s d.guarded).u d = none) && !waitsToken s (iss s d.guarded) d && (!d.unlogged || (iss s d.guarded).u.txLanes.isEmpty) &&
    uniformFree s (iss s d.guarded) d

theorem mayRun_of {s : State} {d : Desc} (h : mayRunB s d = true) : MayRun s d (iss s d.guarded) := by
  simp only [mayRunB, Bool.and_eq_true, decide_eq_true_eq, Bool.or_eq_true, Bool.not_eq_true'] at h
  obtain ⟨⟨⟨⟨h1, h2⟩, h3⟩, h4⟩, h5⟩ := h
  refine ⟨?_, h2, h3, fun hu => ?_, h5⟩
  · obtain ⟨i, hi⟩ := Option.isSome_iff_exists.mp h1
    simp [iss, hi]
  · simpa [hu] using h4

def runsB (s : State) (d : Desc) : Bool := mayRunB s d && decide (dueTokens (iss s d.guarded) d = [])

theorem runs_of {s : State} {d : Desc} (h : runsB s d = true) : Runs s d (iss s d.guarded) := by
  simp only [runsB, Bool.and_eq_true, decide_eq_true_eq] at h
  exact { toMayRun := mayRun_of h.1, fresh := h.2 }

def noQueuesB (d : Desc) : Bool := d.opds.all (fun o => !isQ o.f || (!o.rd && !o.wr))

theorem noQueues_of {d : Desc} (h : noQueuesB d = true) : NoQueues d := by
  intro o ho hq
  have := List.all_eq_true.mp h o ho
  simpa [hq] using this

def plainB (s : State) (d : Desc) : Bool :=
  runsB s d && noQueuesB d && (!allUniform (iss s d.guarded).u d.opds || d.perGang) && (!(iss s d.guarded).lanes.isEmpty || d.always)

theorem plain_of {s : State} {d : Desc} (h : plainB s d = true) : RunsPlain s d (iss s d.guarded) := by
  simp only [plainB, Bool.and_eq_true, Bool.or_eq_true, Bool.not_eq_true'] at h
  obtain ⟨⟨⟨h1, h2⟩, h3⟩, h4⟩ := h
  refine { toRuns := runs_of h1, noQueue := noQueues_of h2, perLane := h3, active := ?_ }
  rcases h4 with h | h
  · left; simpa using h
  · exact .inr h

def queuedB (s : State) (d : Desc) : Bool :=
  runsB s d && (!allUniform (iss s d.guarded).u d.opds || d.perGang) && !(iss s d.guarded).lanes.isEmpty &&
    decide (queueFault s (iss s d.guarded).u d.opds (iss s d.guarded).lanes.length = none) &&
    queueReady s (iss s d.guarded).u (iss s d.guarded).gang (queueUses (iss s d.guarded).u d.opds (iss s d.guarded).lanes.length)

theorem queued_of {s : State} {d : Desc} (h : queuedB s d = true) : RunsQueued s d (iss s d.guarded) := by
  simp only [queuedB, Bool.and_eq_true, Bool.or_eq_true, Bool.not_eq_true', decide_eq_true_eq] at h
  obtain ⟨⟨⟨⟨h1, h3⟩, h4⟩, h5⟩, h6⟩ := h
  exact { toRuns := runs_of h1, perLane := h3, active := by simpa using h4, admitted := h5, ready := h6 }

def uniformB (s : State) (d : Desc) : Bool := runsB s d && allUniform (iss s d.guarded).u d.opds && !d.perGang

theorem uniform_of {s : State} {d : Desc} (h : uniformB s d = true) : RunsUniform s d (iss s d.guarded) := by
  simp only [uniformB, Bool.and_eq_true, Bool.not_eq_true'] at h
  exact { toRuns := runs_of h.1.1, uniform := h.1.2, once := h.2 }

theorem acts_of {s : State} {d : Desc} (h : plainB s d = true) : Acts s d (iss s d.guarded) s (iss s d.guarded) (ends (iss s d.guarded) d) := .lanes (plain_of h)

theorem acts_queued {s : State} {d : Desc} (h : queuedB s d = true) (hu : queueUses (iss s d.guarded).u d.opds (iss s d.guarded).lanes.length ≠ []) :
    Acts s d (iss s d.guarded) (queueUnblock s (iss s d.guarded).u (iss s d.guarded).gang (queueUses (iss s d.guarded).u d.opds (iss s d.guarded).lanes.length))
      (iss s d.guarded) (ends (iss s d.guarded) d) := .queued (queued_of h) hu

/-! ## Well-formedness: an ill-formed term for each check, beside a well-formed one -/

def req (pa n : Nat) (wr : Option (List Byte)) : MemReq := { pa := pa, n := n, wr := wr }
def bringUp (step : Option Nat) (pkg : BitVec 9) : BringUp :=
  { failStep := step, failDie := 0, failCode := 0, failUnit := 0, failDetail := 0, pkgNo := pkg, image := none }
def err (die : Nat) (met : ErrAt) : ErrInfo := { die := die, kind := 0, corrected := true, counted := true, addr := 0, met := met }

theorem test_wellFormed_dies : WellFormed (.evPlacement 3) = true ∧ WellFormed (.evPlacement 4) = false ∧ WellFormed (.evLqBell 4 0) = false := by decide
theorem test_wellFormed_cores : WellFormed (.evCycLo 0 239) = true ∧ WellFormed (.evCycLo 0 240) = false ∧ WellFormed (.evCycLo 4 0) = false ∧
    WellFormed (.evTaskDispatch 0 243 false) = true ∧ WellFormed (.evTaskDispatch 0 244 false) = false := by decide
theorem test_wellFormed_quads : WellFormed (.evMxwlCompletion 0 59) = true ∧ WellFormed (.evMxwlCompletion 0 60) = false := by decide
theorem test_wellFormed_places : WellFormed (.evMxstRow ⟨0, 4, 0xC3⟩) = true ∧ WellFormed (.evMxstRow ⟨0, 5, 0xC0⟩) = false ∧ WellFormed (.evMxstRow ⟨0, 4, 0xC4⟩) = false ∧
    WellFormed (.evRegangRejoin ⟨4, 0, 0⟩) = false ∧ WellFormed (.evRegangRejoin ⟨0, 243, 3⟩) = true ∧ WellFormed (.evRegangRejoin ⟨0, 243, 4⟩) = false ∧
    WellFormed (.evRegangRejoin ⟨0, 244, 0⟩) = false := by decide
theorem test_wellFormed_requests : WellFormed (.evHostRequest (req (2 ^ 53 - 4) 4 none)) = true ∧ WellFormed (.evHostRequest (req (2 ^ 53 - 4) 5 none)) = false ∧
    WellFormed (.evHostRequest (req 0 2 (some [1]))) = false ∧ WellFormed (.evOlunRequest 15 (req 0 4 none)) = true ∧ WellFormed (.evOlunRequest 16 (req 0 4 none)) = false ∧
    WellFormed (.evOlunRequest 0 (req 0 2 (some [1]))) = false := by decide
theorem test_wellFormed_package : WellFormed (.evPowerOn (bringUp (some 7) 510)) = true ∧ WellFormed (.evPowerOn (bringUp (some 8) 0)) = false ∧
    WellFormed (.evPowerOn (bringUp none 511)) = false ∧ WellFormed (.evFlitFailure 16) = false ∧ WellFormed (.evBirspArrival (2 ^ 46) none) = false ∧
    WellFormed (.evSilentPackage 511) = false ∧ WellFormed (.evSoftError (err 3 .memory)) = true ∧ WellFormed (.evSoftError (err 4 .memory)) = false ∧
    WellFormed (.evSoftError (err 0 (.unit ⟨0, 240, 4⟩ 0))) = false := by decide
theorem test_wellFormed_numbers : WellFormed (.evMboxPush 0 0 7 0) = true ∧ WellFormed (.evMboxPush 0 0 8 0) = false ∧ WellFormed (.evLdrCfg 0 0 16 0) = false ∧
    WellFormed (.evBinLaunch 0 0 31) = true ∧ WellFormed (.evBinLaunch 0 0 32) = false ∧ WellFormed (.evBinTimerExpiry 0 0 32) = false ∧
    WellFormed (.evGangPromotion waveAt 24) = false ∧ WellFormed (.evSleepTimeout waveAt 24) = false ∧ WellFormed (.evComparatorFire waveAt 24 0) = false ∧
    WellFormed (.evComparatorFire waveAt 0 8) = false ∧ WellFormed (.evMonitorLevelSample 0 64) = false ∧ WellFormed (.evSystemRegisterWrite 0 0 0x3F 0) = false ∧
    WellFormed (.evSystemRegisterWrite 0 0 0x100 0) = false := by decide
theorem test_wellFormed_slots : WellFormed (.evCapture 65535) = true ∧ WellFormed (.evCapture 65536) = false ∧ WellFormed (.evSliceExpiry 0 65536) = false ∧
    WellFormed (.evLaunchQueueTake 0 0 7) = true ∧ WellFormed (.evLaunchQueueTake 0 0 8) = false ∧ WellFormed (.evConditionRead 0 65536 0) = false := by decide
/-! ## Decoding: a word of every instruction, its opcode from the map of R59 and its fields by the forms of R56; of every micro-instruction, from R351 -/

theorem test_decode_control :
    decode 0x01000000 = some .nop ∧ decode 0x02FFFFFD = some (.bra 0xFFFFFD) ∧ decode 0x03FFFFFD = some (.call 0xFFFFFD) ∧
    decode 0x0412ABCD = some (.brt 0x12 0xABCD) ∧ decode 0x0512ABCD = some (.brf 0x12 0xABCD) ∧ decode 0x06003400 = some (.bri 0x34) ∧
    decode 0x07123400 = some (.calli 0x12 0x34) ∧ decode 0x08003400 = some (.ret 0x34) ∧ decode 0x0900ABCD = some (.joinat 0xABCD) ∧
    decode 0x0A000000 = some .regang ∧ decode 0x0B12ABCD = some (.loop 0x12 0xABCD) ∧ decode 0x0C000000 = some .lbrk ∧ decode 0x0D000000 = some .exit ∧
    decode 0x0E000000 = some .land ∧ decode 0x0F000000 = some .yield ∧ decode 0x1000ABCD = some (.mode 0xABCD) ∧ decode 0x11000009 = some (.modet 9) ∧
    decode 0x1200001B = some (.modeg 1 1 3) ∧ decode 0x13000005 = some (.modes 5) ∧ decode 0x14000002 = some (.moder 2) ∧
    decode 0x15003400 = some (.modew 0x34) ∧ decode 0x16000003 = some (.trap 3) ∧ decode 0x17000003 = some (.bkpt 3) ∧
    decode 0x18FFFFFD = some (.migr 0xFFFFFD) ∧ decode 0x19123400 = some (.spawn 0x12 0x34) ∧ decode 0x1A003400 = some (.fork 0x34) ∧
    decode 0x1B123456 = some (.callat 0x12 0x34 0x56) ∧ decode 0x1C120003 = some (.mfs 0x12 3) ∧ decode 0x1D003403 = some (.mts 0x34 3) ∧
    decode 0x1E003400 = some (.sleep 0x34) ∧ decode 0x1F003456 = some (.halt 0x34 0x56) := by decide

theorem test_decode_integer :
    decode 0x20123456 = some (.add 0x12 0x34 0x56) ∧ decode 0x21123456 = some (.sub 0x12 0x34 0x56) ∧ decode 0x22123456 = some (.mul 0x12 0x34 0x56) ∧
    decode 0x23123456 = some (.mad 0x12 0x34 0x56) ∧ decode 0x24123456 = some (.min 0x12 0x34 0x56) ∧ decode 0x25123456 = some (.max 0x12 0x34 0x56) ∧
    decode 0x26123400 = some (.neg 0x12 0x34) ∧ decode 0x27123400 = some (.abs 0x12 0x34) ∧ decode 0x28123403 = some (.addi 0x12 0x34 3) ∧
    decode 0x29123403 = some (.muli 0x12 0x34 3) ∧ decode 0x2A123456 = some (.clamp 0x12 0x34 0x56) ∧ decode 0x2B123456 = some (.mulh 0x12 0x34 0x56) ∧
    decode 0x2C123456 = some (.div 0x12 0x34 0x56) ∧ decode 0x2D123456 = some (.rem 0x12 0x34 0x56) ∧ decode 0x2E123456 = some (.sad 0x12 0x34 0x56) ∧
    decode 0x2F123456 = some (.addc 0x12 0x34 0x56) := by decide

theorem test_decode_predicate :
    decode 0x30123456 = some (.ceq 0x12 0x34 0x56) ∧ decode 0x31123456 = some (.cne 0x12 0x34 0x56) ∧ decode 0x32123456 = some (.clt 0x12 0x34 0x56) ∧
    decode 0x33123456 = some (.cle 0x12 0x34 0x56) ∧ decode 0x34123456 = some (.cgt 0x12 0x34 0x56) ∧ decode 0x35123456 = some (.cge 0x12 0x34 0x56) ∧
    decode 0x36123456 = some (.cun 0x12 0x34 0x56) ∧ decode 0x37123403 = some (.ceqi 0x12 0x34 3) ∧ decode 0x38123403 = some (.clti 0x12 0x34 3) ∧
    decode 0x39123456 = some (.pand 0x12 0x34 0x56) ∧ decode 0x3A123456 = some (.por 0x12 0x34 0x56) ∧ decode 0x3B123456 = some (.pxor 0x12 0x34 0x56) ∧
    decode 0x3C123400 = some (.pnot 0x12 0x34) ∧ decode 0x3D123456 = some (.class 0x12 0x34 0x56) ∧ decode 0x3E123403 = some (.tstb 0x12 0x34 3) ∧
    decode 0x3F123456 = some (.pmov 0x12 0x34 0x56) := by decide

theorem test_decode_logic :
    decode 0x40123456 = some (.and 0x12 0x34 0x56) ∧ decode 0x41123456 = some (.or 0x12 0x34 0x56) ∧ decode 0x42123456 = some (.xor 0x12 0x34 0x56) ∧
    decode 0x43123400 = some (.not 0x12 0x34) ∧ decode 0x44123456 = some (.andn 0x12 0x34 0x56) ∧ decode 0x45123456 = some (.shl 0x12 0x34 0x56) ∧
    decode 0x46123456 = some (.shr 0x12 0x34 0x56) ∧ decode 0x47123456 = some (.sar 0x12 0x34 0x56) ∧ decode 0x48123456 = some (.rol 0x12 0x34 0x56) ∧
    decode 0x49123403 = some (.shli 0x12 0x34 3) ∧ decode 0x4A123403 = some (.shri 0x12 0x34 3) ∧ decode 0x4B123403 = some (.sari 0x12 0x34 3) ∧
    decode 0x4C123400 = some (.popc 0x12 0x34) ∧ decode 0x4D123400 = some (.clz 0x12 0x34) ∧ decode 0x4E123400 = some (.brev 0x12 0x34) ∧
    decode 0x4F123456 = some (.bfe 0x12 0x34 0x56) := by decide

theorem test_decode_move :
    decode 0x50123400 = some (.mov 0x12 0x34) ∧ decode 0x5112ABCD = some (.movl 0x12 0xABCD) ∧ decode 0x5212ABCD = some (.movh 0x12 0xABCD) ∧
    decode 0x5312ABCD = some (.movs 0x12 0xABCD) ∧ decode 0x54123456 = some (.bfi 0x12 0x34 0x56) ∧ decode 0x55123456 = some (.prmt 0x12 0x34 0x56) ∧
    decode 0x56123456 = some (.pack 0x12 0x34 0x56) ∧ decode 0x57123456 = some (.adda 0x12 0x34 0x56) ∧ decode 0x58123403 = some (.addai 0x12 0x34 3) ∧
    decode 0x59123456 = some (.lane 0x12 0x34 0x56) ∧ decode 0x5A123400 = some (.bcast 0x12 0x34) ∧ decode 0x5B123456 = some (.suba 0x12 0x34 0x56) ∧
    decode 0x5C123456 = some (.clta 0x12 0x34 0x56) ∧ decode 0x5D123456 = some (.ceqa 0x12 0x34 0x56) := by decide

theorem test_decode_float :
    decode 0x60123456 = some (.cvt 0x12 0x34 0x56) ∧ decode 0x61123456 = some (.cvtr 0x12 0x34 0x56) ∧ decode 0x62123400 = some (.rcp 0x12 0x34) ∧
    decode 0x63123400 = some (.rsq 0x12 0x34) ∧ decode 0x64123400 = some (.sqrt 0x12 0x34) ∧ decode 0x65123400 = some (.exp2 0x12 0x34) ∧
    decode 0x66123400 = some (.log2 0x12 0x34) ∧ decode 0x67123400 = some (.sinp 0x12 0x34) ∧ decode 0x68123400 = some (.cosp 0x12 0x34) ∧
    decode 0x69123400 = some (.tanh 0x12 0x34) ∧ decode 0x6A123400 = some (.flr 0x12 0x34) ∧ decode 0x6B123400 = some (.ceil 0x12 0x34) ∧
    decode 0x6C123400 = some (.trnc 0x12 0x34) ∧ decode 0x6D123400 = some (.rint 0x12 0x34) ∧ decode 0x6E123400 = some (.frac 0x12 0x34) ∧
    decode 0x6F123456 = some (.tli 0x12 0x34 0x56) ∧ decode 0x70123456 = some (.dot 0x12 0x34 0x56) ∧ decode 0x71123456 = some (.scale 0x12 0x34 0x56) ∧
    decode 0x72123456 = some (.cpsgn 0x12 0x34 0x56) ∧ decode 0x73123456 = some (.qdec 0x12 0x34 0x56) ∧
    decode 0x74123456 = some (.qenc 0x12 0x34 0x56) ∧ decode 0x75123456 = some (.f4dec 0x12 0x34 0x56) ∧
    decode 0x76123456 = some (.f4enc 0x12 0x34 0x56) := by decide

theorem test_decode_matrix :
    decode 0x78123400 = some (.mxfb 0x12 0x34) ∧ decode 0x79123456 = some (.mxwl 0x12 0x34 0x56) ∧ decode 0x7A000000 = some .mxsw ∧
    decode 0x7B123456 = some (.mxst 0x12 0x34 0x56) ∧ decode 0x7C123456 = some (.mxrd 0x12 0x34 0x56) ∧ decode 0x7D120000 = some (.mxrel 0x12) ∧
    decode 0x7E123400 = some (.mxz 0x12 0x34) ∧ decode 0x7F123400 = some (.mxq 0x12 0x34) := by decide

theorem test_decode_strand :
    decode 0x80123456 = some (.shfl 0x12 0x34 0x56) ∧ decode 0x81123456 = some (.shflx 0x12 0x34 0x56) ∧ decode 0x82123403 = some (.shflu 0x12 0x34 3) ∧
    decode 0x83123403 = some (.shfld 0x12 0x34 3) ∧ decode 0x84123400 = some (.vote 0x12 0x34) ∧ decode 0x85123400 = some (.vany 0x12 0x34) ∧
    decode 0x86123400 = some (.vall 0x12 0x34) ∧ decode 0x87123456 = some (.rdx 0x12 0x34 0x56) ∧ decode 0x88123456 = some (.scan 0x12 0x34 0x56) ∧
    decode 0x89123456 = some (.topk 0x12 0x34 0x56) ∧ decode 0x8A123456 = some (.matchLanes 0x12 0x34 0x56) ∧
    decode 0x8B123400 = some (.elect 0x12 0x34) := by decide

theorem test_decode_loadstore :
    decode 0x90123456 = some (.ldb 0x12 0x34 0x56) ∧ decode 0x91123456 = some (.ldh 0x12 0x34 0x56) ∧ decode 0x92123456 = some (.ldw 0x12 0x34 0x56) ∧
    decode 0x93123456 = some (.ldd 0x12 0x34 0x56) ∧ decode 0x94123456 = some (.ldq 0x12 0x34 0x56) ∧ decode 0x95123456 = some (.ldo 0x12 0x34 0x56) ∧
    decode 0x96123456 = some (.stb 0x12 0x34 0x56) ∧ decode 0x97123456 = some (.sth 0x12 0x34 0x56) ∧ decode 0x98123456 = some (.stw 0x12 0x34 0x56) ∧
    decode 0x99123456 = some (.std 0x12 0x34 0x56) ∧ decode 0x9A123456 = some (.stq 0x12 0x34 0x56) ∧ decode 0x9B123456 = some (.sto 0x12 0x34 0x56) ∧
    decode 0x9C123456 = some (.lda 0x12 0x34 0x56) ∧ decode 0x9D123456 = some (.stl 0x12 0x34 0x56) ∧ decode 0x9E123456 = some (.stmc 0x12 0x34 0x56) ∧
    decode 0x9F003456 = some (.pref 0x34 0x56) ∧ decode 0xA0123403 = some (.ldwi 0x12 0x34 3) ∧ decode 0xA1123403 = some (.lddi 0x12 0x34 3) ∧
    decode 0xA2123403 = some (.ldqi 0x12 0x34 3) ∧ decode 0xA3123403 = some (.stwi 0x12 0x34 3) ∧ decode 0xA4123403 = some (.stdi 0x12 0x34 3) ∧
    decode 0xA5123403 = some (.stqi 0x12 0x34 3) ∧ decode 0xA6123403 = some (.ldbi 0x12 0x34 3) ∧
    decode 0xA7123403 = some (.stbi 0x12 0x34 3) := by decide

theorem test_decode_atomic :
    decode 0xB2123456 = some (.aadd 2 0x12 0x34 0x56) ∧ decode 0xB6123456 = some (.amin 2 0x12 0x34 0x56) ∧
    decode 0xBA123456 = some (.amax 2 0x12 0x34 0x56) ∧ decode 0xBE123456 = some (.aand 2 0x12 0x34 0x56) ∧
    decode 0xC2123456 = some (.aor 2 0x12 0x34 0x56) ∧ decode 0xC6123456 = some (.axor 2 0x12 0x34 0x56) ∧
    decode 0xCA123456 = some (.axch 2 0x12 0x34 0x56) ∧ decode 0xCE123456 = some (.acas 2 0x12 0x34 0x56) := by decide

theorem test_decode_waittx :
    decode 0xD0123456 = some (.wait 0x12 0x34 0x56) ∧ decode 0xD1123456 = some (.wake 0x12 0x34 0x56) ∧ decode 0xD2003456 = some (.binit 0x34 0x56) ∧
    decode 0xD3123456 = some (.barv 0x12 0x34 0x56) ∧ decode 0xD4123456 = some (.bwait 0x12 0x34 0x56) ∧ decode 0xD5003400 = some (.binv 0x34) ∧
    decode 0xD600ABCD = some (.txb 0xABCD) ∧ decode 0xD7123400 = some (.txe 0x12 0x34) ∧ decode 0xD8000003 = some (.txa 3) ∧
    decode 0xD9120000 = some (.txq 0x12) ∧ decode 0xDA123400 = some (.ldn 0x12 0x34) ∧ decode 0xDB123400 = some (.stn 0x12 0x34) := by decide

theorem test_decode_async :
    decode 0xE0123400 = some (.acpy 0x12 0x34) ∧ decode 0xE1123400 = some (.aten 0x12 0x34) ∧ decode 0xE2123400 = some (.agth 0x12 0x34) ∧
    decode 0xE3123400 = some (.agtp 0x12 0x34) ∧ decode 0xE4123400 = some (.asct 0x12 0x34) ∧ decode 0xE5123400 = some (.acol 0x12 0x34) ∧
    decode 0xE6123400 = some (.pub 0x12 0x34) ∧ decode 0xE7123400 = some (.hget 0x12 0x34) ∧ decode 0xE8123400 = some (.trace 0x12 0x34) ∧
    decode 0xE9123400 = some (.rast 0x12 0x34) ∧ decode 0xEA123400 = some (.trsm 0x12 0x34) ∧ decode 0xEB120000 = some (.acan 0x12) ∧
    decode 0xEC123456 = some (.blnd 0x12 0x34 0x56) := by decide

theorem test_decode_queue :
    decode 0xF0123400 = some (.qbind 0x12 0x34) ∧ decode 0xF1123456 = some (.qtry 0x12 0x34 0x56) ∧ decode 0xF2123400 = some (.qcnt 0x12 0x34) ∧
    decode 0xF3123456 = some (.send 0x12 0x34 0x56) ∧ decode 0xF4123456 = some (.qput 0x12 0x34 0x56) ∧ decode 0xF5120003 = some (.rqp 0x12 3) ∧
    decode 0xF6120003 = some (.rqg 0x12 3) ∧ decode 0xF7123456 = some (.rsvp 0x12 0x34 0x56) ∧ decode 0xF8120000 = some (.rsvg 0x12) ∧
    decode 0xF9123400 = some (.rsvd 0x12 0x34) ∧ decode 0xFA123456 = some (.shoot 0x12 0x34 0x56) ∧ decode 0xFB123456 = some (.bias 0x12 0x34 0x56) ∧
    decode 0xFC123400 = some (.flush 0x12 0x34) ∧ decode 0xFD123456 = some (.mgrt 0x12 0x34 0x56) := by decide

theorem test_decode_micro :
    decodeMicro 0x04000000 = some .uNfet ∧ decodeMicro 0x08000000 = some .uBoxt ∧ decodeMicro 0x0C000000 = some .uTrit ∧
    decodeMicro 0x10000000 = some .uEdgt ∧ decodeMicro 0x14000000 = some .uSplt ∧ decodeMicro 0x18000000 = some .uDepz ∧
    decodeMicro 0x1C000000 = some .uOrdr ∧ decodeMicro 0x20000000 = some .uPush ∧ decodeMicro 0x24000000 = some .uPop ∧
    decodeMicro 0x28000000 = some .uNext ∧ decodeMicro 0x2C300000 = some (.uLeaf 3) ∧ decodeMicro 0x30000000 = some .uInst ∧
    decodeMicro 0x34000000 = some .uIpop ∧ decodeMicro 0x38000000 = some .uHit ∧ decodeMicro 0x3C000000 = some .uTmax ∧
    decodeMicro 0x40000000 = some .uAnyh ∧ decodeMicro 0x44000000 = some .uEmit ∧ decodeMicro 0x4830BFFF = some (.uLdr 3 2 0x3FFF) ∧
    decodeMicro 0x4C00000F = some (.uFlg 15) ∧ decodeMicro 0x52200007 = some (.uBrc 1 2 7) ∧ decodeMicro 0x54000007 = some (.uJmp 7) ∧
    decodeMicro 0x58000000 = some .uYld ∧ decodeMicro 0x5C300009 = some (.uStat 3 9) ∧ decodeMicro 0x60000000 = some .uDone := by decide

/-- R57: an operand field that the instruction leaves unused must be 0, and reserved immediates refuse. -/
theorem test_decode_reserved : decode 0x01000001 = none ∧ decode 0x43123456 = none ∧ decode 0x11000010 = none ∧ decode 0xF5080010 = none ∧ decode 0x0A010000 = none ∧
    decodeMicro 0x04000001 = none ∧ decodeMicro 0x4C000010 = none ∧ decodeMicro 0x64000000 = none := by decide

/-- The words that the spec writes out beside its examples. -/
theorem test_decode_examples :
    decode 0x20040506 = some (.add 4 5 6) ∧ decode 0x37D10300 = some (.ceqi 0xD1 3 0) ∧ decode 0x55080482 = some (.prmt 8 4 0x82) ∧ decode 0x82050401 = some (.shflu 5 4 1) ∧
    decode 0x8488D100 = some (.vote 0x88 0xD1) ∧ decode 0x878406E0 = some (.rdx 0x84 6 0xE0) ∧ decode 0x8A880382 = some (.matchLanes 0x88 3 0x82) ∧
    decode 0x8B85D100 = some (.elect 0x85 0xD1) ∧ decode 0x6F030288 = some (.tli 3 2 0x88) ∧ decode 0xF103C1D2 = some (.qtry 3 0xC1 0xD2) ∧
    decode 0xF5080003 = some (.rqp 8 3) ∧ decode 0xFA848086 = some (.shoot 0x84 0x80 0x86) ∧ decode 0x7B868287 = some (.mxst 0x86 0x82 0x87) ∧
    decode 0xEC088203 = some (.blnd 8 0x82 3) ∧ decode 0xE8080A00 = some (.trace 8 10) := by decide
/-! ## What the statements assume is met -/

def fetchOk (s : State) (u : Machine.Unit) (pc : DWord) (w : Word) : Bool :=
  match fetchWord s u pc with
  | .ok (_, x) => decide (x = w)
  | .error _ => false

def isOk {ε α : Type} (x : Except ε α) : Bool := x.toOption.isSome

def isNext (r : Res) : Bool :=
  match r with
  | .next _ => true
  | _ => false

def withSlice (s : State) (f : Slice → Slice) : State := s.modUnit waveAt (fun u => { u with slices := modAt u.slices 0 f })
def withV (s : State) (p : Place) (l i : Nat) (x : Word) : State := s.modUnit p (fun u => u.modRegs (fun r => r.setV l i x))

theorem witness_EncodedInstructionsDecode : isEvent (.add 1 2 3) = false ∧ WellFormed (.add 1 2 3) = true ∧ isEvent (.uJmp 9) = false ∧ WellFormed (.uJmp 9) = true := by decide +kernel

theorem witness_DecodedWordsAreEncodings : (decode 0x20010203).isSome = true ∧ (decodeMicro 0x54000007).isSome = true := by decide +kernel

theorem witness_UnassignedOpcodesRaiseIllegal : (issueOf (wave 0) true).isSome = true ∧ (issueOf (thread 0) true).isSome = true ∧ (issueOf (mcc 0) true).isSome = true ∧
    (issueOf (sup 0) true).isSome = true := by decide +kernel

theorem witness_MemoryStaysCanonical : Memory.wf (State.reset.withFetchWord 32 0x01000000).mem = true ∧ isNext (step (State.reset.withFetchWord 32 0x01000000)) = true := by decide +kernel

theorem witness_StepRunsTheDecodedInstruction :
    (let s := State.reset.withFetchWord 32 0x01000000
     let t := pageLeave (atGang s waveAt 0) (.dev waveAt 0)
     turnBefore s = none ∧ s.agenda = [.lane32 0 0 0] ∧ coreIssued s 0 0 0 = false ∧ (lanePicks (nextAction s).2 0 0 0).head? = some (waveAt, 0) ∧ pageBehind s (.dev waveAt 0) = false ∧
       (issueAt t waveAt 0 true).isSome = true ∧ comparatorAt t (iss t true) = none ∧ fetchOk t (iss t true).u (iss t true).pc 0x01000000 = true ∧
       isNext (runGang (nextAction s).2 waveAt 0) = true ∧ stillBlocked (nextAction s).2 waveAt 0 = false) ∧
    (let s := { one (unitOf threadAt .swarm 0) with agenda := [.swarmCore 0 0 0] }
     coreIssued s 0 0 4 = false ∧ (swarmPicks (nextAction s).2 0 0 0).head? = some (threadAt, 0) ∧ isNext (runGang (nextAction s).2 threadAt 0) = true) ∧
    (let s := State.reset.withFetchWord 32 0x7A000000
     s.agenda = [.gang mccAt 0] ∧ (s.unit? mccAt).isSome = true ∧ mayIssue (nextAction s).2 ((s.unit? mccAt).getD (unitOf mccAt .mcc 0)) 0 = true ∧
       isNext (runGang (nextAction s).2 mccAt 0) = true) := by decide +kernel

theorem witness_StepRunsEventsAndMicroInstructions :
    (let s := placeMicro State.reset 0x54000000
     rayNext (nextAction s).2 0 0 = .word 0x54000000 ∧ (decodeMicro 0x54000000).isSome = true ∧ s.agenda = [.ray 0 0]) ∧
    (nextAction { State.reset with agenda := [.sample 0 3] }).1 = .sample 0 3 ∧ (nextAction { State.reset with agenda := [.level 0 3] }).1 = .level 0 3 ∧
    (nextAction { State.reset with agenda := [] }).1 = .tick ∧ State.reset.pkg.heldReqs = [] := by decide +kernel

theorem witness_FailedChecksFault : (descOf (wave 0x000F) (.add 8 0 4)).isSome = true ∧ checks (unitOf waveAt .wave 0x000F) ((descOf (wave 0x000F) (.add 8 0 4)).getD {}) ≠ none ∧
    checks (unitOf waveAt .wave 0) { opds := [dst 0x7F .pair] } ≠ none ∧ mxHeld (wave 0) = none := by decide +kernel

theorem witness_TakingAFault : (wave 0).unit? (iss (wave 0) true).p = some (iss (wave 0) true).u ∧ (iss (wave 0) true).u.tx = [] ∧
    (∀ u ∈ (wave 0).units, 240 ≤ u.place.core → u.book.sleeps = []) := by decide +kernel

theorem witness_TrapsAndPrivilegeFaults : (iss (wave 0) true).lanes = [0, 2] ∧ (issueOf (wave 0x1000) true).isSome = true ∧ (iss (wave 0x1000) true).lanes = [] ∧
    (iss (wave 0) true).u.isSup = false := by decide +kernel

theorem witness_CompletingAnInstruction : (wave 0).unit? (iss (wave 0) true).p = some (iss (wave 0) true).u ∧ (iss (wave 0) true).slices = [0] ∧
    ((iss (wave 0) true).u.slice 0).live ≠ 0 ∧ ((iss (wave 0) true).u.slice 0).active ≠ 0 ∧ ((iss (wave 0) true).u.slice 0).rstack = [] := by decide +kernel

theorem witness_GangsWithoutActiveLanesPass : runsB (wave 0x1000) ((descOf (wave 0x1000) (.add 8 0 4)).getD {}) = true ∧ (iss (wave 0x1000) true).lanes = [] ∧
    isStrand (.add 8 0 4) = false ∧ ((descOf (wave 0x1000) (.add 8 0 4)).getD {}).always = false := by decide +kernel

def withK (s : State) (i : Nat) (x : Word) : State := { s with units := s.units.map (fun u => u.modRegs (fun r => r.setK i x)) }

/-- Words in channel 0 of the core, to which q0 is bound. -/
def queues (s : State) : State :=
  let s := s.modCore 0 0 (fun c => { c with owner := some 0, chans := setAt c.chans 0 { words := [11, 12, 13], waiters := [] } })
  { s with units := s.units.map (fun u => u.modRegs (fun r => { r with q := setAt r.q 0 0x80000000 })) }

/-- The strand's first gang has made this instance of a uniform instruction, with the value v. -/
def shared (s : State) (v : DWord) : State := s.modUnit waveAt (fun u => u.modBook (fun b => { b with udone := [{ strand := 0, pc := 0x100000, n := 0, val := v }] }))

def onceOk (x : Except Stop (State × Nat)) (v : Nat) : Bool :=
  match x with
  | .ok (_, n) => decide (n = v)
  | .error _ => false

def formOf (s : State) (i : Instr) : LaneForm := (laneForm s i).getD { types := none, srcs := [], out := dst 0 .one }

theorem witness_LaneInstructionsComplete :
    (laneForm (wave 0) (.add 8 0 4)).isSome = true ∧ plainB (wave 0) (formOf (wave 0) (.add 8 0 4)).desc = true ∧
    queuedB (queues (wave 0)) (formOf (wave 0) (.add 8 0xC0 4)).desc = true ∧ (queues (wave 0)).unit? waveAt = some (iss (queues (wave 0)) true).u ∧
    uniformB (wave 0) (formOf (wave 0) (.add 0x84 0x80 0xE1)).desc = true ∧ (iss (wave 0) true).shared = none ∧ (iss (wave 0) true).lanes ≠ [] ∧
    uniformB (wave 0x1000) (formOf (wave 0x1000) (.add 0x84 0x80 0xE1)).desc = true ∧ (iss (wave 0x1000) true).lanes = [] ∧
    (let s := (wave 0).modUnit waveAt (fun u => u.modBook (fun b => { b with tokens := [{ f := 4, lanes := 4, scope := 1 }] }))
     let d := (formOf s (.add 8 0 4)).desc
     mayRunB s d = true ∧ (dueTokens (iss s true) d).length = 1 ∧ noQueuesB d = true ∧ allUniform (iss s true).u d.opds = false ∧ (iss s true).lanes = [0, 2]) := by decide +kernel

theorem witness_ScalarIntegerResults : plainB (wave 0) (formOf (wave 0) (.add 8 0 4)).desc = true ∧ modeType (iss (wave 0) true).u.regs.mode < 4 ∧
    modeSat (iss (wave 0) true).u.regs.mode = false ∧ (intOp 32 true (.add 8 0 4)).isSome = true ∧
    plainB (wave 3) (formOf (wave 3) (.mulh 8 0 4)).desc = true ∧ modeType (iss (wave 3) true).u.regs.mode = 3 ∧ (intOp 64 false (.mulh 8 0 4)).isSome = true := by decide +kernel

theorem witness_AddressResults : plainB (wave 0) (formOf (wave 0) (.adda 8 0 4)).desc = true ∧ (addrResult (.adda 8 0 4)).isSome = true ∧
    uniformB (wave 15) (formOf (wave 15) (.clta 0x88 0x80 0x82)).desc = true ∧ (addrResult (.clta 0x88 0x80 0x82)).isSome = true := by decide +kernel

theorem witness_NumberFormats : 0x7F7FFFFF < 2 ^ fp32.w ∧ 0x7F7FFFFF % 2 ^ (fp32.w - 1) ≤ fp32.maxCode ∧ (fp32.decodeFtz true 0x7FC00000).isNan = true ∧
    (bf16.decodeFtz false 0x7F81).isNan = true := by decide +kernel

theorem witness_WritingAnOperand : (dst 8 .pair).kindOk (unitOf waveAt .wave 0) = true ∧ (dst 0x84 .quad).kindOk (unitOf waveAt .wave 0) = true ∧
    (dst 0xD7 .one).kindOk (unitOf waveAt .wave 0) = true ∧ (dst 0xE0 .one).kindOk (unitOf waveAt .wave 0) = true ∧ isV 8 = true ∧ isK 0x84 = true ∧ isP 0xD7 = true ∧
    isConst 0xE0 = true ∧ (unitOf waveAt .wave 0).regs.p.length = 8 := by decide +kernel

theorem witness_QueueRegisterPopsInLaneOrder :
    (let s := queues (wave 1)
     curType s = 1 ∧ (iss s true).u.chanOf 0xC0 = some (.core 0) ∧ queuedB s (typedForm s allTypes 8 [tsrc s 0xC0]).desc = true ∧
       s.unit? waveAt = some (iss s true).u ∧ 0 < (s.core 0 0).chans.length) := by decide +kernel

theorem witness_WholeGangInstructions : (issueOf (wave 0) false).isSome = true ∧ (newMode (.modet 4) 0).isSome = true ∧
    (let d : Desc := { guarded := false, always := true, opds := [(src 0x80 .one).must .uniform] }
     uniformB (wave 0) d = true ∧ (iss (wave 0) false).shared = none ∧ (iss (wave 0) false).lanes ≠ [] ∧ uniformB (shared (wave 0) 7) d = true ∧
       (iss (shared (wave 0) 7) false).shared = some 7 ∧ isUniform 8 = false ∧ (iss (thread 0) false).u.isWave = false ∧
       runsB (thread 0) { d with opds := [(src 8 .one).must .uniform] } = true ∧
       onceOk (readOnce (queues (thread 0)) (iss (queues (thread 0)) false) (src 0xC0 .one)) 11 = true) := by decide +kernel

theorem witness_DirectBranches :
    plainB (wave 0) { moves := true } = true ∧ plainB (wave 0) { moves := true, opds := [dst 0 .pair] } = true ∧
    (((iss (wave 0) true).pc + 4 + 4 * (0xFFFFFD : BitVec 24).signExtend 64).toNat = 0xFFFF8) ∧
    ((iss (wave 0) true).slices.any (fun k => decide (16 < (((iss (wave 0) true).u.slice k).divide (iss (wave 0) true).pc (targetGroups k (allTo [0, 2] 0xFFFF8))).rstack.length)) = false) ∧
    (let s := withSlice (wave 0x1000) (fun sl => { sl with active := 15, rstack := List.replicate 16 { pc := 0, mask := 0 } })
     let s := s.modUnit waveAt (fun u => u.modRegs (fun r => { r with p := setAt r.p 0 1 }))
     plainB s { moves := true } = true ∧ (iss s true).lanes = [0] ∧
       16 < (((iss s true).u.slice 0).divide (iss s true).pc (targetGroups 0 (allTo [0] 0x100004))).rstack.length) ∧
    (let s := withSlice (wave 0) (fun sl => { sl with pc := 2 ^ 57 - 4 })
     plainB s { moves := true } = true ∧ 2 ^ 57 ≤ ((iss s true).pc + 4 + 4 * (0 : BitVec 24).signExtend 64).toNat) ∧
    (issueOf (wave 0x1000) true).isSome = true ∧ (iss (wave 0x1000) true).lanes = [] := by decide +kernel
def setMode (s : State) (m : BitVec 16) : State := { s with units := s.units.map (fun u => u.modRegs (fun r => { r with mode := m })) }

theorem witness_ConditionalBranches :
    plainB (wave 0) { moves := true, opds := [(src 8 .one).must .noQueue], perGang := true } = true ∧ (curIsWave (wave 0) && isUniform 8) = false ∧
    (((iss (wave 0) true).pc + 4 + 4 * (3 : BitVec 16).signExtend 64).toNat < 2 ^ 57) ∧
    (let s := withSlice (wave 0) (fun sl => { sl with pc := 2 ^ 57 - 4 })
     plainB s { moves := true, opds := [(src 0 .one).must .noQueue], perGang := true } = true ∧ 2 ^ 57 ≤ ((iss s true).pc + 4 + 4 * (0 : BitVec 16).signExtend 64).toNat ∧
       (iss s true).lanes.filter (fun l => decide (readOpd s (iss s true).u (src 0 .one) false l ≠ 0) == true) ≠ []) ∧
    runsB (wave 0) { moves := true, opds := [(src 0x80 .one).must .noQueue] } = true ∧ isUniform 0x80 = true ∧ (iss (wave 0) true).u.isWave = true ∧
    (iss (wave 0) true).shared = none ∧
    (let s := shared (wave 0) 1
     (iss s true).shared = some 1 ∧ runsB s { moves := true, opds := [(src 0x80 .one).must .noQueue] } = true) := by decide +kernel

/-- The wave with a value in the pairs v8:v9 of its active lanes. -/
def targets (lo hi lo2 hi2 : Word) : State := withV (withV (withV (withV (wave 0) waveAt 0 8 lo) waveAt 0 9 hi) waveAt 2 8 lo2) waveAt 2 9 hi2

theorem witness_IndirectBranches :
    plainB (targets 0x1000 0 0x2000 0) { moves := true, opds := [src 8 .pair], perGang := true } = true ∧
    plainB (targets 0x1000 0 0x2000 0) { moves := true, opds := [src 8 .pair, dst 10 .pair], perGang := true } = true ∧
    (∀ l ∈ (iss (targets 0x1000 0 0x2000 0) true).lanes, readOpd (targets 0x1000 0 0x2000 0) (iss (targets 0x1000 0 0x2000 0) true).u (src 8 .pair) false l % 4 = 0 ∧
      readOpd (targets 0x1000 0 0x2000 0) (iss (targets 0x1000 0 0x2000 0) true).u (src 8 .pair) false l < 2 ^ 57) ∧
    readOpd (targets 0x1002 0 0x2000 0) (iss (targets 0x1002 0 0x2000 0) true).u (src 8 .pair) false 0 % 4 ≠ 0 ∧
    2 ^ 57 ≤ readOpd (targets 0x1000 0 0 0x2000000) (iss (targets 0x1000 0 0 0x2000000) true).u (src 8 .pair) false 2 ∧
    (let s := withK (wave 0) 0 0x1000
     let d (os : List Opd) : Desc := { moves := true, opds := src 0x80 .pair :: os, perGang := true, always := true }
     runsB s (d []) = true ∧ runsB s (d [dst 0x82 .pair]) = true ∧ (iss s true).shared = none ∧ (iss (shared s 0x1000) true).shared = some 0x1000 ∧
       runsB (shared s 0x1000) (d []) = true ∧ (iss s true).lanes = [0, 2] ∧ readOpd s (iss s true).u (src 0x80 .pair) false 0 = 0x1000) := by decide +kernel

theorem witness_DivergenceKeepsTheLanes : (∀ x ∈ [(0, (8 : DWord)), (2, 16)], ((iss (wave 0) true).u.slice 0).active.getLsbD (x.1 % 4) = true) ∧
    ((iss (wave 0) true).u.slice 0).active &&& ((iss (wave 0) true).u.slice 0).waiting = 0 ∧ ((iss (wave 0) true).u.slice 0).active &&& ~~~((iss (wave 0) true).u.slice 0).live = 0 := by
  decide +kernel

def loopOf (n : Nat) (c : Word) : State := withSlice (wave 0) (fun sl => { sl with lstack := List.replicate n { count := c, start := 0x100000, last := 0x100000 } })

theorem witness_LoopsOpenAndEnd :
    runsB (loopOf 3 2) { guarded := false, opds := [src 4 .one] } = true ∧ isUniform 4 = false ∧ isUniform 0xE3 = true ∧
    runsB (loopOf 3 2) { guarded := false, opds := [src 0xE3 .one] } = true ∧ (iss (loopOf 3 2) false).shared = none ∧
    (iss (shared (loopOf 3 2) 5) false).shared = some 5 ∧ runsB (shared (loopOf 3 2) 5) { guarded := false, opds := [src 0xE3 .one] } = true ∧
    onceOk (readOnce (queues (loopOf 3 2)) (iss (queues (loopOf 3 2)) false) (src 0xC0 .one)) 11 = true ∧
    (∀ k ∈ (iss (loopOf 3 2) false).slices, ((iss (loopOf 3 2) false).u.slice k).lstack.length < 4) ∧
    (iss (loopOf 4 2) false).slices = [0] ∧ BitVec.ofNat 32 (readOpd (loopOf 4 2) (iss (loopOf 4 2) false).u (src 4 .one) false (lowestActive (iss (loopOf 4 2) false).u 0)) ≠ (0 : Word) ∧
    4 ≤ ((iss (loopOf 4 2) false).u.slice 0).lstack.length ∧
    (let sl : Slice := { blankSlice with pc := 0x100004, lstack := [{ count := 2, start := 0x100000, last := 0x100000 }, { count := 1, start := 0, last := 8 }] }
     sl.pc = 0x100000 + 4 ∧ sl.lstack ≠ []) := by decide +kernel

theorem witness_LbrkLeavesTheLoop : (issueOf (loopOf 1 2) false).isSome = true ∧ (∀ k ∈ (iss (loopOf 1 2) false).slices, ((iss (loopOf 1 2) false).u.slice k).lstack ≠ []) ∧
    (issueOf (wave 0) false).isSome = true ∧ ((iss (wave 0) false).u.slice 0).lstack = [] := by decide +kernel

def deep (n : Nat) : State := withSlice (wave 0) (fun sl => { sl with rstack := List.replicate n { pc := 0, mask := 0 } })

theorem witness_JoinatPushesAJoinEntry : (iss (deep 15) false).u.isWave = true ∧ (∀ k ∈ (iss (deep 15) false).slices, ((iss (deep 15) false).u.slice k).rstack.length < 16) ∧
    16 ≤ ((iss (deep 16) false).u.slice 0).rstack.length ∧ (issueOf (thread 0) false).isSome = true ∧ (iss (thread 0) false).u.isWave = false := by decide +kernel

/-- A context whose memory maps VAs below 2^30 to HBM at 1 GiB: a LAND at 0x100004 with its template, the launch record of a wave at 0x80000. -/
def ctx0 : CtxHdr :=
  { slot := 0, asid := 0, state := 1, slice := 0, flask := 0, bintab := 0x200000, nbin := 1, nmig := 4, mig := 0x300000, ucap := 8, ccap := 8,
    units := 0x1000000, cmds := 0x400000, quads := 0x800000, slots := 0x500000, cores := 0x600000, dies := 1, valid := true, fresh := false }

def env (s : State) : State :=
  let tlb : TlbEntry := { va := 0, size := 30, asid := none, pa := paOf s 0 0x40000000, r := true, w := true, x := true, user := true, cclass := 0 }
  let s := (s.modRegs 0 (fun r => { r with ctxCount := 2 })).modDie 0 (fun d => { d with tlbs := List.replicate 16 [tlb], disp := { d.disp with hdrs := [ctx0] } })
  let put (s : State) (va n v : Nat) : State := s.wr (paOf s 0 (0x40000000 + va)) n v
  put (put (put (put (put (put s 0x100004 4 0x0E000000) 0x200000 8 0x100004) 0x200008 8 (64 + 80 * 2 ^ 32)) 0x80000 8 0x100000) 0x80030 4 1) 0x8003A 1 1

/-- The page of the context's first unit record flips. -/
def flips (s : State) : State := setBias s (paOf s 0 0x41000000) 2

def called (s : State) : State := s.modUnit threadAt (fun u => { u with ident := { u.ident with caller := some { place := 0, serial := 0, tag := 0 } } })

theorem witness_ExitRetiresTheActiveLanes :
    plainB (wave 0) { scope := false } = true ∧ (wave 0).unit? waveAt = some (iss (wave 0) true).u ∧ (iss (wave 0) true).u.ident.caller = none ∧
    plainB (called (thread 0)) { scope := true } = true ∧ outbufFull (called (thread 0)) 0 0 = false ∧ (iss (called (thread 0)) true).lanes = [0] ∧
    (let s := (called (thread 0)).modCore 0 0 (fun c => { c with outbuf := List.replicate 64 { die := 0, pkg := 0, core := 0, unit := 0, serial := 0, asid := 0, words := List.replicate 8 0 } })
     outbufFull s 0 0 = true ∧ plainB s { scope := true } = true) ∧
    (let s := (env (wave 0)).modUnit waveAt (fun u => { u with ident := { u.ident with recIdx := some 0 } })
     plainB s { scope := false } = true ∧ s.unit? waveAt = some (iss s true).u ∧ outbufFull s 0 0 = false ∧ recWaits s (iss s true).u = false ∧
       plainB (flips s) { scope := false } = true ∧ recWaits (flips s) (iss (flips s) true).u = true) := by decide +kernel

theorem witness_MigrationMovesLanesAndThreads :
    (let s := env (wave 0)
     plainB s { engines := .notSupMcc, unlogged := true } = true ∧ (∀ l ∈ (iss s true).lanes, ((iss s true).u.slice (l / 4)).lstack = []) ∧
       
       (match landCheck s (iss s true).u ((iss s true).pc + 4 + 4 * (0 : BitVec 24).signExtend 64) with
        | .ok s1 => isOk (migrateLanes s1 (iss s true).u 0x100004 (iss s true).lanes)
        | .error _ => false) = true) ∧
    (let s := env (thread 0)
     plainB s { engines := .notSupMcc, unlogged := true } = true ∧
       (match landCheck s (iss s true).u 0x100004 with
        | .ok s1 => (match needTemplate s1 (iss s true).u 0x100004 80 with
          | .ok (s2, x) => isOk (migrateThread s2 (iss s true) x)
          | .error _ => false)
        | .error _ => false) = true) ∧
    plainB (loopOf 1 2) { engines := .notSupMcc, unlogged := true } = true ∧ (iss (loopOf 1 2) true).lanes = [0, 2] ∧ ((iss (loopOf 1 2) true).u.slice 0).lstack ≠ [] := by
  decide +kernel

def entryAt (s : State) (va : Word) : State := withV (withV s waveAt 0 8 va) waveAt 2 8 va

theorem witness_SpawnPlacesRecords :
    (let s := entryAt (env (wave 0)) 0x100004
     let u := (iss s true).u
     plainB s { engines := .notSup, unlogged := true, opds := [src 12 .quad, src 8 .pair] } = true ∧ readOpd s u (src 8 .pair) false 0 = 0x100004 ∧
       readOpd s u (src 8 .pair) false 2 = 0x100004 ∧ (spawnChecks s u [0x100004]).isOk = true ∧
       (spawnLanes (release s (whoOf s u 0) 1) u [(0, 0x100004, 1), (2, 0x100004, 2)]).2 = []) ∧
    (let s := entryAt (wave 0) 0x100002
     plainB s { engines := .notSup, unlogged := true, opds := [src 12 .quad, src 8 .pair] } = true ∧ readOpd s (iss s true).u (src 8 .pair) false 0 % 2 ^ 64 % 4 ≠ 0) := by
  decide +kernel

theorem witness_ForkSuspendsTheUnit :
    (let s := withK (env (wave 0)) 0 0x80000
     let d : Desc := { engines := .notSup, unlogged := true, opds := [(src 0x80 .pair).must .uniform], perGang := true, always := true }
     plainB s d = true ∧ (iss s true).shared = none ∧ (iss s true).lanes ≠ [] ∧ readOpd s (iss s true).u (src 0x80 .pair) false 0 = 0x80000 ∧
       (forkUnit s (iss s true) 0x80000).isOk = true) ∧
    (let s := withK (wave 0) 0 0x80020
     plainB s { engines := .notSup, unlogged := true, opds := [(src 0x80 .pair).must .uniform], perGang := true, always := true } = true ∧
       readOpd s (iss s true).u (src 0x80 .pair) false 0 % 64 ≠ 0) := by decide +kernel

theorem witness_CallatSendsTasks :
    (let s := entryAt (env (wave 0)) 0x100008
     let os : List Opd := [{ f := 12, sh := .quad, rd := true, wr := true, rule := .any }, src 8 .pair, src 16 .one]
     plainB s { unlogged := true, scope := true, opds := os } = true ∧
       (match callChecks s (iss s true).u [(0, 0x100008, 0), (2, 0x100008, 0)] with
        | .ok s1 => decide ((callLanes (release s1 (whoOf s1 (iss s true).u 0) 0) waveAt 12 [(0, 0x100008, 0, 0), (2, 0x100008, 0, 0)]).2 = [])
        | .error _ => false) = true ∧ readOpd s (iss s true).u (src 16 .one) false 0 = 0 ∧ s.unit? waveAt = some (iss s true).u) := by decide +kernel

theorem witness_SystemRegisters : plainB (wave 0) { opds := [dst 8 .one] } = true ∧ plainB (wave 0) { perGang := true, opds := [(dst 8 .one).must .lane] } = true ∧ uniformB (wave 0) { opds := [dst 0x88 .one] } = true ∧
    plainB (sup 0) { priv := true, opds := [dst 8 .one] } = true ∧ plainB (sup 0) { priv := true, opds := [(src 8 .one).must .uniform] } = true ∧ 0 < (sup 0).dies.length := by
  decide +kernel

theorem witness_SleepWaitsForAMessage :
    (let d : Desc := { perGang := true, opds := [(src 0x80 .one).must .uniform] }
     let s := wave 0
     runsB s d = true ∧ (iss s true).lanes ≠ [] ∧ sleepOf (iss s true).u (iss s true).gang (iss s true).pc = none ∧ (inboxOf s (iss s true).u).words = [] ∧ s.unit? waveAt = some (iss s true).u ∧
     onceOk (readOnce s (iss s true) ((src 0x80 .one).must .uniform)) 7 = true ∧
     (let s := s.modUnit waveAt (fun u => u.modBook (fun b => { b with inbox := { b.inbox with words := [1] } }))
      runsB s d = true ∧ (inboxOf s (iss s true).u).words ≠ [] ∧ sleepOf (iss s true).u (iss s true).gang (iss s true).pc = none) ∧
     (∀ w : Bool, let s := s.modUnit waveAt (fun u => u.modBook (fun b => { b with sleeps := [{ gang := 0, pc := 0x100000, limit := false, until_ := 0, woken := w }] }))
      runsB s d = true ∧ (sleepOf (iss s true).u (iss s true).gang (iss s true).pc).map (·.woken) = some w)) ∧
    (let s := queues (thread 0)
     runsB s { perGang := true, opds := [] } = true ∧ onceOk (readOnce s (iss s true) ((src 0xC0 .one).must .uniform)) 11 = true ∧ (inboxOf s (iss s true).u).words = []) ∧
    (iss (wave 0) true).u.isWave = true ∧ isQ 0xC0 = true := by decide +kernel

/-- A supervisor thread and a wave; v8 selects the wave's place, v9 is the operation. -/
def halter (sel op : Word) (f : Machine.Unit → Machine.Unit) : State :=
  let s := withV (withV (sup 0) supAt 0 8 sel) supAt 0 9 op
  { s with units := s.units ++ [f (unitOf waveAt .wave 0)] }

def haltDesc : Desc := { priv := true, opds := [src 8 .one, src 9 .one] }

theorem witness_HaltSetsTheFlag :
    plainB (halter 0 0 id) haltDesc = true ∧ (halter 0 0 id).unit? waveAt = some (unitOf waveAt .wave 0) ∧ (unitOf waveAt .wave 0).ctl.run = .ready ∧
    (unitOf waveAt .wave 0).ctl.halted = false ∧ plainB (halter 0 1 id) haltDesc = true ∧
    ((halter 0 0 (fun u => u.modCtl (fun c => { c with run := .parked }))).unit? waveAt).map (·.ctl.run) = some .parked ∧
    plainB (halter 1 0 id) haltDesc = true ∧ (halter 1 0 id).unit? { die := 0, core := 0, unit := 1 } = none ∧
    plainB (halter 0x100 0 id) haltDesc = true ∧ (0x100 : Word) &&& 0xFC00FF00 ≠ 0 ∧ plainB (halter 0 2 id) haltDesc = true ∧
    plainB (halter 0xF00000 0 id) haltDesc = true := by decide +kernel
def strandRunsB (s : State) (d : Desc) : Bool :=
  (issueOf s true).isSome && decide (checks (iss s true).u d = none) && !namesPending s (iss s true).u d && decide (dueTokens (iss s true).strandWide d = []) &&
    (iss s true).gathered && !(iss s true).strandWide.lanes.isEmpty

theorem strandRuns_of {s : State} {d : Desc} (h : strandRunsB s d = true) : StrandRuns s d (iss s true) := by
  simp only [strandRunsB, Bool.and_eq_true, Bool.not_eq_true', decide_eq_true_eq] at h
  obtain ⟨⟨⟨⟨⟨h1, h2⟩, h3⟩, h4⟩, h5⟩, h6⟩ := h
  obtain ⟨i, hi⟩ := Option.isSome_iff_exists.mp h1
  exact { issue := by simp [iss, hi], checked := h2, settled := h3, fresh := h4, gathered := h5, active := by simpa using h6 }

def strandB (s : State) (d : Desc) : Bool := strandRunsB s d && noQueuesB d
def otherOf (s : State) (i : Instr) : Desc := (otherDesc s i).getD {}

theorem strand_of {s : State} {d : Desc} (h : strandB s d = true) : StrandActs s d (iss s true) s := by
  simp only [strandB, Bool.and_eq_true] at h
  exact .plain (strandRuns_of h.1) (noQueues_of h.2)

theorem witness_StrandInstructionsActOnce : strandB (wave 0) (otherOf (wave 0) (.vote 0x88 8)) = true ∧ (strandOut (wave 0) (.vote 0x88 8)).isSome = true ∧
    (strandVal (wave 0) (iss (wave 0) true).strandWide (.vote 0x88 8) 0).isSome = true ∧ strandB (wave 0) (otherOf (wave 0) (.bcast 8 4)) = true ∧
    strandB (wave 0) { opds := [(src 8 .one).must .noQueue, (src 0xE2 .one).must .uniform, dst 9 .one], freeClass := true } = true := by decide +kernel

theorem witness_ReductionsAndScans : strandB (wave 0) (otherOf (wave 0) (.rdx 8 4 0xE1)) = true ∧ foldCodeOk 0 1 = true ∧ strandB (wave 0) (otherOf (wave 0) (.scan 8 4 0xE1)) = true ∧
    strandB (wave 0) (otherOf (wave 0) (.rdx 8 4 0xE6)) = true ∧ foldCodeOk 0 16 = false ∧ readOpd (wave 0) (iss (wave 0) true).u (src 0xE6 .one) false 0 = 16 ∧
    readOpd (wave 0) (iss (wave 0) true).u (src 0xE1 .one) false 0 = 1 ∧ 3 ∈ scalarInt ∧ 7 < 2 ^ elemBits 3 := by decide +kernel

/-- The core's local store is 64 KiB; the active lanes' pairs v8:v9 hold the addresses at offsets x and y in it. -/
def inLs (s : State) (x y : Word) : State :=
  let s := s.modCore 0 0 (fun c => { c with split := 1 })
  withV (withV (withV (withV s waveAt 0 8 x) waveAt 0 9 0x00F00000) waveAt 2 8 y) waveAt 2 9 0x00F00000

/-- The offsets of lanes 0 and 2, and what the lanes' conditions ask of n bytes there. -/
def lsOk (s : State) (f : LoadForm) : Bool :=
  (iss s true).lanes.all (fun l => let va := f.ea (argsOf s (iss s true) f.desc l)
    decide (0x00F0000000000000 ≤ va) && decide (va + f.size ≤ 0x00F0000000000000 + (s.core 0 0).split * 65536)) && !(iss s true).u.isSup

def loadOf (s : State) (i : Instr) : LoadForm := (loadForm s i).getD { desc := {}, out := dst 0 .one, size := 0, ea := fun _ => 0, short := false }
def storeOf (s : State) (i : Instr) : StoreForm := (storeForm s i).getD { desc := {}, size := 0, ea := fun _ => 0 }

/-- The last bytes of the local store, and an unaligned place. -/
theorem witness_LoadsComplete :
    (let s := inLs (wave 0) 0xFFFC 0x101
     (loadForm s (.ldw 12 8 0xE0)).isSome = true ∧ plainB s (loadOf s (.ldw 12 8 0xE0)).desc = true ∧ lsOk s (loadOf s (.ldw 12 8 0xE0)) = true ∧
       (s.units.all (fun u => u.tx.isEmpty)) = true ∧ (s.die 0).mons = [] ∧ (iss s true).lanes.Nodup ∧
       (eachLane (loadLane (iss s true) (dst 12 .one) 4 id) s [(0, 0x00F000000000FFFC), (2, 0x00F0000000000101)]).toOption.isSome = true) := by decide +kernel

theorem witness_StoresComplete :
    (let s := inLs (wave 0) 0xFFFC 0x101
     let f := storeOf s (.stw 12 8 0xE0)
     (storeForm s (.stw 12 8 0xE0)).isSome = true ∧ plainB s f.desc = true ∧ (s.units.all (fun u => u.tx.isEmpty)) = true ∧
       ((iss s true).lanes.all (fun l => let va := f.ea (argsOf s (iss s true) f.desc l)
         decide (0x00F0000000000000 ≤ va) && decide (va + 4 ≤ 0x00F0000000010000))) = true ∧ (s.core 0 0).split = 1 ∧
       (eachLane (storeLane (iss s true) 4) s [(0, 0x00F000000000FFFC, 1), (2, 0x00F0000000000101, 2)]).toOption.isSome = true) := by decide +kernel

/-- Lane 0 is misaligned by one byte, lane 2 is not, in each of the forms. -/
theorem witness_MisalignedAccessesFault :
    (let s := inLs (wave 0) 0x101 0x100
     ([Instr.lda 12 8 0xE0, .stl 12 8 0xE0, .ldn 12 8, .stn 12 8, .wake 12 8 4, .binit 8 4, .barv 12 8 4, .binv 8, .aadd 0 12 8 4].all
        (fun i => (otherDesc s i).isSome && plainB s (otherOf s i))) = true ∧
     formA (argsOf s (iss s true) (otherOf s (.lda 12 8 0xE0)) 0) % 4 = 1 ∧ formA (argsOf s (iss s true) (otherOf s (.lda 12 8 0xE0)) 2) % 4 = 0 ∧
     (argsOf s (iss s true) (otherOf s (.barv 12 8 4)) 0).getD 0 0 % 16 = 1 ∧ (argsOf s (iss s true) (otherOf s (.barv 12 8 4)) 2).getD 0 0 % 16 = 0) := by decide +kernel

theorem witness_OrderedAccessesAndAtomicsComplete :
    (let s := inLs (wave 0) 0x100 0x110
     let j := iss s true
     let xs : List (Nat × Nat) := [(0, 0x00F0000000000100), (2, 0x00F0000000000110)]
     let ys : List (Nat × Nat × Nat) := [(0, 0x00F0000000000100, 5), (2, 0x00F0000000000110, 6)]
     ([Instr.lda 12 8 0xE0, .stl 12 8 0xE0, .ldn 12 8, .stn 12 8, .stmc 12 8 0xE0, .pref 8 0xE0, .acas 3 12 8 16].all (fun i => plainB s (otherOf s i))) = true ∧
     isOk (eachLane (loadLane j (dst 12 .one) 4 id) s xs) = true ∧ isOk (eachLane (stlLane j 4) (releaseAt s j (some 0)) ys) = true ∧
     isOk (eachLane (fun s l va => (bareLoad s j l va 4).map (fun q => writeDst q.1 j.u (dst 12 .one) [l] [q.2])) s xs) = true ∧
     isOk (eachLane (fun s l (x : Nat × Nat) => bareStore s j l x.1 4 (x.2 % 256 ^ 4)) s ys) = true ∧ isOk (eachLane (stmcLane j 4) s [(0, 0, 0, 5), (2, 0, 0, 5)]) = true ∧
     (atomicNew (.acas 3 12 8 16) 0 0 0).isSome = true ∧ isOk (byLanes false (atomicLane j (dst 12 .one) 3 4 (fun old b => old + b)) (releaseAt s j (some 0)) ys) = true) := by
  decide +kernel

/-- One active lane. -/
def single (s : State) : State := withSlice s (fun sl => { sl with active := 1 })

theorem witness_OrderedAccessesOnTheLocalStore :
    (let s := single (inLs (wave 0) 0xFFF0 0)
     ([Instr.lda 12 8 0xE0, .stl 12 8 0xE0, .ldn 12 8, .stn 12 8, .wake 12 8 4, .binit 8 4, .barv 12 8 4, .binv 8, .stmc 12 8 0xE0, .aadd 0 12 8 4].all
        (fun i => (otherDesc s i).isSome && plainB s (otherOf s i))) = true ∧ (iss s true).lanes = [0] ∧ linked s 0 = [] ∧ (s.die 0).mons = [] ∧
     modeScope (iss s true).u.regs.mode ≤ 1 ∧ (argsOf s (iss s true) (otherOf s (.barv 12 8 4)) 0) = [0x00F000000000FFF0, 3] ∧ (s.core 0 0).split = 1 ∧
     asidField s 0 0 0x10 = 0 ∧ (atomicNew (.aadd 0 12 8 4) 0 0 0).isSome = true ∧ atomicOrder (.aadd 0 12 8 4) = 0) := by decide +kernel

theorem witness_WaitsComplete :
    (let s := single (inLs (wave 0) 0x100 0)
     plainB s (otherOf s (.wait 12 8 4)) = true ∧ queueFault s (iss s true).u (otherOf s (.wait 12 8 4)).opds 1 = none ∧ waitOf s waveAt 0 = none ∧ readOpd s (iss s true).u (src 4 .one) false 0 = 3 ∧ s.rd (locLs 0 0 0x100) 4 = 0 ∧
       (pollLanes (iss s true) (waitKind 0 4) (dst 12 .one) { s := s, pending := [], back := none, err := none } [(0, 0x00F0000000000100, 3)]).back = some 0 ∧
       (pollLanes (iss s true) (waitKind 0 4) (dst 12 .one) { s := s, pending := [], back := none, err := none } [(0, 0x00F0000000000100, 3)]).pending = []) ∧
    (let s := single (inLs (wave 0) 0x100 0)
     plainB s (otherOf s (.bwait 12 8 4)) = true ∧
       (pollLanes (iss s true) (bwaitKind 0) (dst 12 .one) { s := s, pending := [], back := none, err := none } [(0, 0x00F0000000000100, 3)]).back = some 0) ∧
    (let s := withK (withK (inLs (wave 0) 0 0) 0 0x100) 1 0x00F00000
     let d := otherOf s (.wait 12 0x80 0xE1)
     let j := iss s true
     let r := readAllOpds (useUniform s j d) j.u true [0] (d.opds.take 2)
     uniformB s (otherOf s (.wait 0x84 0x80 0xE1)) = true ∧ allUniform j.u d.opds = false ∧ j.shared = none ∧ j.lanes = [0, 2] ∧ sharedWait j = none ∧
       j.uniLane { unlogged := true } = [0] ∧ (col r.2 0).headD 0 = 0x00F0000000000100 ∧ (col r.2 1).headD 0 = 1 ∧
       (match pollLane r.1 j (waitKind 0 4) true 0 0x00F0000000000100 1 with
        | .ok (_, some v) => decide (v = 0)
        | _ => false) = true) := by decide +kernel

theorem witness_WakesAndBarriersComplete :
    (let s := inLs (wave 0) 0x100 0x110
     ([Instr.wake 12 8 4, .binit 8 4, .barv 12 8 4, .binv 8].all (fun i => plainB s (otherOf s i))) = true ∧
       isOk (byLanes false (wakeLane (iss s true) (dst 12 .one)) s [(0, 0x00F0000000000100, 1), (2, 0x00F0000000000110, 1)]) = true ∧
       isOk (plainAcc s (barRmw s (whoOf s (iss s true).u 0) 0 0x00F0000000000100 (fun y => barArrive y 1))) = true) ∧
    (let x := 2 ^ 127 + 5 * 2 ^ 64 + 1 * 2 ^ 32 + 3
     x < 2 ^ 128 ∧ (barOf x).valid = true ∧ (barOf x).arrived + 1 < (barOf x).expected ∧ (barOf x).expected ≤ (barOf x).arrived + 2 ∧ (barOf 3).valid = false) := by decide +kernel

theorem witness_TransactionsOpenAbortAndEnd :
    (let s := placeIsa State.reset 0xD6000000
     let s := { s.wr (paOf s 0 probeOff + 4) 4 0xD7000000 with cur := .unit waveAt 0, agenda := [] }
     plainB s {} = true ∧ fetchOk s (iss s true).u 0x100004 0xD7000000 = true ∧ isOk (eachLane (txbLane (iss s true) 0x100004) s [(0, 0)]) = true ∧
       (laneTx s waveAt 0).inTx = false ∧ (laneTx s waveAt 0).txb ≠ (iss s true).pc ∧ s.unit? waveAt = some (iss s true).u) ∧
    (let s := placeIsa State.reset 0xD6000000
     let s := { s.wr (paOf s 0 probeOff + 4) 4 0x01000000 with cur := .unit waveAt 0, agenda := [] }
     plainB s {} = true ∧ fetchOk s (iss s true).u 0x100004 0x01000000 = true) ∧
    plainB (wave 0) { opds := [dst 8 .one] } = true ∧ plainB (wave 0) { opds := [(dst 8 .one).must .lane, dst 0x88 .mask], perGang := true, always := true } = true ∧ (∀ k < 24, (iss (wave 0) true).u.doomedIn k = 0) ∧ (iss (wave 0) true).lanes = [0, 2] ∧
    (laneTx (wave 0) waveAt 2).inTx = false ∧ sortBy (fun x y => decide (x < y)) (iss (wave 0) true).lanes = (iss (wave 0) true).lanes ∧
    isOk (txeBody ((dst 8 .one).must .lane) (dst 0x88 .mask) { iss (wave 0) true with lanes := [0, 2] } (wave 0)) = true := by decide +kernel
def asyncDesc (d a : Fld) : Desc := { scope := true, unlogged := true, always := true, perGang := true, tokens := true, opds := [src a .pair, (dst d .one).must .vk] }
def rayDesc (d a : Fld) : Desc := { engines := .notSup, scope := true, unlogged := true, perGang := true, opds := [(src a .pair).must .laneClass, (dst d .one).must .vOnly] }

theorem witness_AsyncCommandsAndHandles :
    (let s := entryAt (env (wave 0)) 0x80040
     plainB s (asyncDesc 12 8) = true ∧ uniformOpd (iss s true).u 8 = false ∧ recordVas s (iss s true) [0, 2] (src 8 .pair) = [0x80040, 0x80040] ∧
       (issueLanes s (iss s true).u 12 1 [(0, 0x80040), (2, 0x80040)]).2 = []) ∧
    (let s := withK (env (wave 0)) 0 0x80040
     plainB s (asyncDesc 12 0x80) = true ∧ uniformOpd (iss s true).u 0x80 = true ∧ (iss s true).shared = none ∧
       (iss s true).uniLane { unlogged := true } = [0] ∧
       recordVas s (iss s true) [0] (src 0x80 .pair) = [0x80040] ∧ (issueCmd (released s (iss s true) [0] (src 0x80 .pair)) (iss s true).u 12 1 0x80040 5).isSome = true ∧
       plainB (shared s 3) (asyncDesc 12 0x80) = true ∧ (iss (shared s 3) true).shared = some 3) ∧
    (let s := entryAt (wave 0) 0x80020
     plainB s (asyncDesc 12 8) = true ∧ readOpd s (iss s true).u (src 8 .pair) false 0 % 2 ^ 64 % 64 ≠ 0) ∧
    (let s := wave 0
     let d : Desc := { scope := true, unlogged := true, opds := [src 4 .one, dst 8 .pair] }
     plainB s d = true ∧ readOpd s (iss s true).u (src 4 .one) false 0 < 4096 ∧ asidField s 0 0 8 = 0 ∧
       isOk (handleLanes s (iss s true).u true (dst 8 .pair) [([0], 3), ([2], 3)]) = true) ∧
    (let s := withV (wave 0) waveAt 0 4 4096
     plainB s { scope := true, unlogged := true, opds := [src 4 .one, dst 8 .pair] } = true ∧ 4096 ≤ readOpd s (iss s true).u (src 4 .one) false 0) := by decide +kernel

def ticketed (s : State) : State := s.modUnit waveAt (fun u => { u with tickets := [(0, 0x10), (2, 0x11)] })
def blndDesc : Desc := { engines := .waveOnly, perGang := true, opds := [src 8 .oct, src 4 .one, src 16 .one] }

theorem witness_RaysAndBlendsComplete :
    (let s := entryAt (env (wave 0)) 0x80040
     plainB s (rayDesc 12 8) = true ∧ curIsWave s = true ∧ recordVas s (iss s true) [0, 2] ((src 8 .pair).must .laneClass) = [0x80040, 0x80040] ∧ batchesOn s 0 0 < 4 ∧
       (takeCmdEntry (released s (iss s true) [0, 2] ((src 8 .pair).must .laneClass)) 0 0 2).isSome = true) ∧
    (let s := entryAt (wave 0) 0x80020
     plainB s (rayDesc 12 8) = true ∧ readOpd s (iss s true).u ((src 8 .pair).must .laneClass) false 0 % 2 ^ 64 % 64 ≠ 0) ∧
    plainB (wave 0) { opds := [{ f := 12, sh := .one, rd := false, wr := false, rule := .vk }] } = true ∧
    plainB (ticketed (wave 0)) blndDesc = true ∧ blendModeBad (readOpd (ticketed (wave 0)) (iss (ticketed (wave 0)) true).u (src 16 .one) false 0) = false ∧
    isOk (blndLane (iss (ticketed (wave 0)) true) (ticketed (wave 0)) 0 (0, 15, 0)) = true ∧ plainB (wave 0) blndDesc = true ∧ (iss (wave 0) true).u.tickets = [] := by decide +kernel

theorem witness_QueueInstructionsComplete :
    (let s := withK (wave 0) 0 0x80000001
     let d : Desc := { unlogged := true, opds := [probe 0xC0, (src 0x80 .one).must .uniform] }
     queuedB s d = true ∧ readOpd s (iss s true).u (src 0x80 .one) false 0 = 0x80000001) ∧
    (let s := queues (wave 0)
     queuedB s { opds := [probe 0xC0, (dst 8 .one).must .lane, { f := 8, sh := .one, rd := false, wr := false, rule := .noQueue }, (dst 0xD1 .one).must .pred] } = true ∧
     probeFault s (iss s true).u 0xC0 false 2 = none ∧ 2 ≤ (chanGet s (iss s true).u (probeChan (iss s true).u 0xC0)).words.length ∧
     queuedB s { opds := [probe 0xC0, (src 4 .one).must .noQueue, (dst 0xD1 .one).must .pred] } = true ∧ probeFault s (iss s true).u 0xC0 true 2 = none ∧
     (chanGet s (iss s true).u (probeChan (iss s true).u 0xC0)).words.length + 2 ≤ chanDepth (iss s true).u (probeChan (iss s true).u 0xC0) ∧
     queuedB s { opds := [probe 0xC0, (dst 8 .one).must .lane] } = true ∧ probeFault s (iss s true).u 0xC0 false 0 = none ∧
     bindFault s (iss s true).u 0x80000001 = none) := by decide +kernel
/-- The quad's shared queues and its matrix engine belong to ASID 0. -/
def owned (s : State) : State := s.modQuad 0 0 (fun q => { q with chanOwner := 0x10000 })

/-- Launder 0 of the quad: enabled, four entries of four words at most, n in it. -/
def launder (n : Nat) : State :=
  (owned (wave 0)).modQuad 0 0 (fun q => { q with launders := setAt q.launders 0 { cfg := 0x80004000, entries := List.replicate n [1, 2, 3, 4], waiters := [] } })

def posted (prio order : Nat) : Resv := { asid := 0, place := 0, serial := 0, prio := prio, payload := [1, 2, 3, 4], order := order, tag := 0 }

theorem witness_MessagesAndLaundersComplete :
    (let m : Outgoing := { place := 0, serial := 0, kind := 0, tag := 3, payload := [0, 0, 0, 0] }
     plainB (wave 0) { unlogged := true, opds := [src 12 .quad, src 8 .pair, src 4 .one] } = true ∧ readOpd (wave 0) (iss (wave 0) true).u (src 8 .pair) false 0 = 0 ∧
       targetFault (iss (wave 0) true).u m.place = none ∧ isOk (eachLane (sendLane (iss (wave 0) true)) (wave 0) [(0, m), (2, m)]) = true) ∧
    plainB (mcc 0) { engines := .mccOnly, scope := true, opds := [src 12 .quad, src 8 .quad] } = true ∧
    (let m : Outgoing := { place := 0, serial := 0, kind := 3, tag := 0, payload := [0, 0, 0, 0] }
     isOk (eachLane (sendLane (iss (mcc 0) true)) (release (mcc 0) (whoOf (mcc 0) (iss (mcc 0) true).u 0) 0) [(0, m)]) = true) ∧
    (let x : Nat × List Word := (0, [0, 0, 0, 0])
     plainB (wave 0) { engines := .notSup, unlogged := true, opds := [src 12 .quad, src 8 .one, dst 16 .one] } = true ∧ requestBad 0 = false ∧
       isOk (eachLane (rsvpLane (iss (wave 0) true) (dst 16 .one)) (wave 0) [(0, x), (2, x)]) = true) ∧
    (let s := (mcc 0).modQuad 0 0 (fun q => { q with resv := setAt (setAt q.resv 2 (some (posted 1 5))) 4 (some (posted 1 4)) })
     let s1 := loadResv s 0 0 (iss s true).u.ident.asid
     plainB s { engines := .mccOnly, opds := [dst 8 .oct] } = true ∧ resvBehind s1 (s1.quad 0 0) (iss s true).u = false ∧ firstResv (s1.quad 0 0) 0 = some (4, posted 1 4)) ∧
    (let d : Desc := { engines := .notSup, unlogged := true, opds := [(src 12 .quad).must .vk] }
     entryShape (curLaunder (launder 2) 0).cfg = .quad ∧ plainB (launder 2) d = true ∧ allUniform (iss (launder 2) true).u [src 12 .quad] = false ∧
       launderFault (launder 2) (iss (launder 2) true).u (launderOf (launder 2) (iss (launder 2) true).u 0) 2 = none ∧
       launderReady (launder 2) (iss (launder 2) true) (launderOf (launder 2) (iss (launder 2) true).u 0) false 2 = true ∧
       launderReady (launder 2) (iss (launder 2) true) (launderOf (launder 2) (iss (launder 2) true).u 0) true 2 = true ∧
       plainB (launder 2) { engines := .notSup, unlogged := true, opds := [(dst 12 .quad).must .vk] } = true ∧ plainB (launder 3) d = true ∧
       launderFault (launder 3) (iss (launder 3) true).u (launderOf (launder 3) (iss (launder 3) true).u 0) 2 = none ∧
       launderReady (launder 3) (iss (launder 3) true) (launderOf (launder 3) (iss (launder 3) true).u 0) false 2 = false ∧
       plainB (launder 1) { engines := .notSup, unlogged := true, opds := [(dst 12 .quad).must .vk] } = true ∧
       launderFault (launder 1) (iss (launder 1) true).u (launderOf (launder 1) (iss (launder 1) true).u 0) 2 = none ∧
       launderReady (launder 1) (iss (launder 1) true) (launderOf (launder 1) (iss (launder 1) true).u 0) true 2 = false) := by decide +kernel

/-- A supervisor thread with some vector registers set. -/
def supV (s : State) : List (Nat × Word) → State
  | [] => s
  | (i, x) :: xs => supV (withV s supAt 0 i x) xs

def supRuns (s : State) (opds : List Opd) : Bool := plainB s (supDesc opds)

/-- Page 0x40000 of the device memory. -/
def page0 : Nat := paOf State.reset 0 0x40000000

theorem witness_ShootdownsBiasAndPagesComplete :
    (let s := supV (sup 0) [(8, 0x10000), (12, 1), (16, 0x3000)]
     supRuns s [src 8 .one, src 16 .pair, src 12 .one] = true ∧ asidWord 0x10000 = some none ∧ asidWord 7 = some (some 7) ∧
       readOpd s (iss s true).u (src 16 .pair) false 0 = 0x3000 ∧ readOpd s (iss s true).u (src 12 .one) false 0 ≠ 0 ∧ supRuns s [src 8 .one, src 12 .one] = true) ∧
    (let s := supV (sup 0) [(8, loWord (BitVec.ofNat 64 page0)), (9, hiWord (BitVec.ofNat 64 page0)), (12, 1)]
     let t := setBias s page0 1
     let d := { t with pkg := { t.pkg with cxlUp := false } }
     supRuns s [src 8 .pair, src 12 .one, dst 16 .one] = true ∧ readOpd s (iss s true).u (src 8 .pair) false 0 = page0 ∧ page0 % 4096 = 0 ∧ pageUsable s page0 = true ∧
       flipOf s (page0 / 4096) = none ∧ biasOf (systemRelease s (iss s true)) page0 = 0 ∧ biasOf (systemRelease t (iss t true)) page0 = 1 ∧
       supRuns t [src 8 .pair, src 12 .one, dst 16 .one] = true ∧
       supRuns d [src 8 .pair, src 16 .one, dst 16 .one] = true ∧ readOpd d (iss d true).u (src 16 .one) false 0 = 0 ∧ biasOf (systemRelease d (iss d true)) page0 = 1 ∧
       (let e := { s with flips := [{ page := page0 / 4096, left := [], place := supAt, linkFail := true }] }
        supRuns e [src 8 .pair, src 12 .one, dst 16 .one] = true ∧ (flipOf e (page0 / 4096)).map (fun f => (f.place, f.left)) = some ((iss e true).p, []))) := by
  decide +kernel
/-- VA 0x3000 of ASID 0 is the device page at 1 GiB, through tables above 17 MiB; the ASID table lies at 16 MiB. -/
def mapped (s : State) : State :=
  let s := s.modRegs 0 (fun r => { r with asidTab := 8 })
  let t (k : Nat) : Nat := paOf s 0 (0x1100000 + 0x1000 * k)
  let put (s : State) (a v : Nat) : State := s.wr a 8 v
  put (put (put (put (put (put s (paOf s 0 0x1000000) (t 0 + 1)) (t 0) (t 1 + 1)) (t 1) (t 2 + 1)) (t 2) (t 3 + 1)) (t 3) (t 4 + 1)) (t 4 + 24) (page0 + 0x3D)

/-- Moving that page 64 KiB further. -/
def mover (off : Nat) : State :=
  let to_ := page0 + 0x10000 + off
  supV (mapped (sup 0)) [(8, loWord (BitVec.ofNat 64 to_)), (9, hiWord (BitVec.ofNat 64 to_)), (12, 0x3000), (16, 0)]

set_option maxRecDepth 65536 in
theorem witness_MovingAPage :
    (let s := mover 0
     let s1 := systemRelease s (iss s true)
     supRuns s [src 8 .pair, src 12 .pair, src 16 .one] = true ∧ readOpd s (iss s true).u (src 8 .pair) false 0 = page0 + 0x10000 ∧
       readOpd s (iss s true).u (src 12 .pair) false 0 = 0x3000 ∧ pageUsable s (page0 + 0x10000) = true ∧ asidWord 0 = some (some 0) ∧ translatedVa 0x3000 = true ∧
       (walk s1 0 0 0x3000).toOption.map (fun l => (l.pa, l.size)) = some (page0, 12) ∧ ownDevice s1 page0 = true ∧ biasOf s1 page0 = 0 ∧
       biasOf s1 (page0 + 0x10000) = 0 ∧ isOk (movePage s1 0 0 0x3000 page0 (page0 + 0x10000)) = true) ∧
    (let s := mover 8
     supRuns s [src 8 .pair, src 12 .pair, src 16 .one] = true ∧ (iss s true).lanes = [0] ∧ readOpd s (iss s true).u (src 8 .pair) false 0 % 4096 ≠ 0) := by
  decide +kernel

def tliDesc : Desc := { types := some [4, 6], opds := [src 8 .one, (src 0x80 .quad).must .kOnly, dst 12 .one] }

/-- A table of two entries at the end of a local store of 64 KiB. -/
def tabled (m : BitVec 16) (k0 k1 : Word) : State := withK (withK (inLs (wave m) 0 0) 0 k0) 1 k1

theorem witness_TableInterpolationCompletes :
    plainB (tabled 4 0xFFF8 1) tliDesc = true ∧ readOpd (tabled 4 0xFFF8 1) (iss (tabled 4 0xFFF8 1) true).u ((src 0x80 .quad).must .kOnly) false 0 = 0x10000FFF8 ∧
    lsBytes (tabled 4 0xFFF8 1) (iss (tabled 4 0xFFF8 1) true).u = 65536 ∧ plainB (tabled 6 0 10) tliDesc = true ∧ plainB (tabled 4 0xFFFC 1) tliDesc = true := by
  decide +kernel

/-- An MCC thread whose quad belongs to its ASID. -/
def mxs : State := owned (mcc 0)
def mccV (s : State) : List (Nat × Word) → State
  | [] => s
  | (i, x) :: xs => mccV (withV s mccAt 0 i x) xs

/-- A format block: BF16 tiles and activations, with no scales. -/
def bf16Block : BitVec 256 := 0x0101
def withFb (s : State) : State := s.modUnit mccAt (fun u => u.modRegs (fun r => { r with fb := setAt r.fb 0 bf16Block }))

/-- The MCC thread with its context's memory, in which 0x80000 holds the format block. -/
def mxEnv : State :=
  let s := withFb (owned (env (mcc 0)))
  s.wr (paOf s 0 0x40080000) 32 0x0101

def jobOn (s : State) (k : MxKind) (ctl : Word) : State :=
  let j : MxJob := { place := mccAt, kind := k, acc := 0, va := 0x80000, queue := false, ctl := ctl, fb := bf16Block, back := [] }
  s.modQuad 0 0 (fun q => { q with jobs := [j] })

def mxRuns (s : State) (opds : List Opd) : Bool := plainB s (mxDesc opds)

theorem witness_MatrixInstructionsComplete :
    (let s := mccV mxEnv [(8, 0x80000)]
     mxRuns s [fbOpd 0xE0, src 8 .pair] = true ∧ blockOk 0 bf16Block = true ∧
       (match load s (whoOf s (iss s true).u 0) 0x80000 32 with
        | .ok (_, x) => decide (x = 0x101)
        | .error _ => false) = true) ∧
    mxRuns mxs [] = true ∧ quadAdmits mxs (iss mxs true).u = true ∧ (mxs.quad 0 0).jobs = [] ∧ (mxs.quad 0 0).swapReq = none ∧
    mxRuns mxs [src 8 .one] = true ∧ accBad 0 0 = false ∧ slotStreams mxs 0 0 0 0 = false ∧ mxRuns mxs [src 8 .one, src 4 .one] = true ∧
    isOk (mapSlot mxs 0 0 0 0) = true ∧ mxRuns mxs [src 4 .one, dst 8 .one] = true ∧ mxLoading mxs 0 0 = false ∧ mxStreaming mxs 0 0 = false ∧
    readOpd (withV mxs mccAt 0 4 0) (iss (withV mxs mccAt 0 4 0) true).u (src 4 .one) false 0 = 0 ∧
    readOpd (withV mxs mccAt 0 4 1) (iss (withV mxs mccAt 0 4 1) true).u (src 4 .one) false 0 = 1 ∧
    readOpd (withV mxs mccAt 0 4 2) (iss (withV mxs mccAt 0 4 2) true).u (src 4 .one) false 0 = 2 ∧
    readOpd (withV mxs mccAt 0 4 3) (iss (withV mxs mccAt 0 4 3) true).u (src 4 .one) false 0 = 3 ∧
    (let s := withV mxs mccAt 0 8 0x40
     mxRuns s [src 8 .one] = true ∧ accBad 0 (readOpd s (iss s true).u (src 8 .one) false 0) = true ∧ (iss s true).lanes = [0]) := by decide +kernel

def rows (s : State) (opds : List Opd) : Bool := plainB s { mxDesc opds with holds := true }

def planed (s : State) : State := s.modQuad 0 0 (fun q => { q with active := { Plane.invalid with valid := true, ctl := 0x0101 } })

/-- The MCC thread's q0 and q1 bound to channels 14 and 15 of its quad; channel 14 holds a row. -/
def mxQueues (s : State) : State :=
  let s := s.modUnit mccAt (fun u => u.modRegs (fun r => { r with q := setAt (setAt r.q 0 0x9000000E) 1 0x9000000F }))
  s.modQuad 0 0 (fun q => { q with chans := setAt q.chans 14 { words := List.replicate 128 0, waiters := [] } })

def afterExec (i : Instr) (s : State) : State :=
  match exec i s with
  | .next t => t
  | _ => s

def rowOk (x : Except RowStop State) : Bool :=
  match x with
  | .ok _ => true
  | .error _ => false

/-- What the completion events ask of a state with a job. -/
def jobOk (s : State) : Bool :=
  match mxIssue s mccAt, s.jobOf mccAt with
  | some i, some j => match j.kind with
    | .load => isOk (loadTile s i.u j)
    | .stream => rowOk (streamRow s i.u j) && decide (ctlRows j.ctl.toNat ≤ (i.u.regs.mxpi + 1).toNat)
    | .drain => rowOk (drainRow s i.u j) && decide (ctlRows j.ctl.toNat ≤ (i.u.regs.mxpi + 1).toNat)
  | _, _ => false

theorem witness_MatrixStreamsComplete_load :
    (let s := mccV mxEnv [(8, 0x80000), (12, 0)]
     rows s [fbOpd 0xE0, src 8 .pair, src 12 .one] = true ∧ mxHeld s = none ∧ quadAdmits s (iss s true).u = true ∧ blockOk 0 (fbOf (iss s true).u (fbIndex 0xE0)) = true ∧
       readOpd s (iss s true).u (src 8 .pair) false 0 = 0x80000 ∧ mxLoading s 0 0 = false ∧ jobOk (afterExec (.mxwl 0xE0 8 12) s) = true) := by decide +kernel

theorem witness_MatrixStreamsComplete_stream :
    (let s := planed (mccV mxEnv [(8, 0x80000), (12, 0), (16, 0x100)])
     rows s [src 12 .one, rowOpd 8, src 16 .one] = true ∧ mxHeld s = none ∧ quadAdmits s (iss s true).u = true ∧ ctlBad 0 0 0x100 false = false ∧ blockOk 0 (fbOf (iss s true).u 0) = true ∧
       readOpd s (iss s true).u (src 8 .pair) false 0 = 0x80000 ∧ mxStreaming s 0 0 = false ∧ slotStreams s 0 0 0 0 = false ∧ planePairs s 0 0 (fbOf (iss s true).u 0) = true ∧
       mxLeft (iss s true) 0x100 = true ∧ jobOk (afterExec (.mxst 12 8 16) s) = true ∧ ctlRows 0 = 0 ∧
       (let d := (s.modUnit mccAt (fun u => u.modRegs (fun r => { r with mxpi := 1 }))).modUnit mccAt (fun u => u.modCtl (fun c => { c with mxBusy := true, mxPc := 0x100000 }))
        rows d [src 12 .one, rowOpd 8, src 16 .one] = true ∧ mxLeft (iss d true) 0x100 = false ∧ ctlRows 0x100 = 1)) := by decide +kernel

theorem witness_MatrixStreamsComplete_queues :
    (let s := mxQueues (planed (mccV mxEnv [(12, 0), (16, 0x100)]))
     let ds : Desc := { mxDesc [src 12 .one, rowOpd 0xC0, src 16 .one] with holds := true }
     rows s ds.opds = true ∧ boundTo (iss s true).u 0xC0 14 = true ∧ ctlBad 0 0 0x100 true = false ∧ jobOk (afterExec (.mxst 12 0xC0 16) s) = true ∧
       rows s [rowOpd 0xC1, src 12 .one, src 16 .one] = true ∧ boundTo (iss s true).u 0xC1 15 = true ∧ jobOk (afterExec (.mxrd 0xC1 12 16) s) = true) := by decide +kernel

theorem witness_MatrixStreamsComplete_drain :
    (let s := mccV mxEnv [(8, 0x80000), (12, 0), (16, 0x100)]
     rows s [rowOpd 8, src 12 .one, src 16 .one] = true ∧ mxHeld s = none ∧ quadAdmits s (iss s true).u = true ∧ mxLeft (iss s true) 0 = false ∧
       mxLeft (iss s true) 0x100 = true ∧ jobOk (afterExec (.mxrd 8 12 16) s) = true) := by decide +kernel

/-- A layout of 96 bytes with two children, and a ray that has read it as layout 0 and stands at 0x80000. -/
def layout0 : BitVec 256 := BitVec.ofNat 256 (3 + 2 * 2 ^ 8 + 16 * 2 ^ 40 + 64 * 2 ^ 56 + 66 * 2 ^ 64 + 2 ^ 80)
def rayIn (f : Ray → Ray) : State :=
  let s := env (placeMicro State.reset 0)
  { s with cur := .ray 0 0, batches := s.batches.map (fun b => { b with rays := b.rays.map (fun r => f { r with img := BitVec.ofNat 2048 (0x80000 * 2 ^ 320), layouts := [{ id := 0, entry := layout0 }], nodeLay := layout0 }) }) }
def rayOf (s : State) : Ray := ((rayCur s).map (·.2)).getD (newRay 0 0 false)
def batchIn (s : State) : Batch := (s.batches.head?).getD { id := 0, die := 0, quad := 0, issuer := waveAt, serial := 0, pc := 0, asid := 0, grid := none, token := 0, lanes := 0, scope := 0, raster := false, rays := [], cancelled := false, stopping := false, cclass := 0, entry := none }

def microB (s : State) (boundary : Bool) (ps : Programs) : Bool :=
  match rayCur s with
  | some (b, r) => (boundary || decide (r.sinceBoundary < 256)) && (!boundary || (!b.stopping && !b.cancelled)) && ps.allow r.kind
  | none => false

theorem micro_of {s : State} {x : Bool} {ps : Programs} (h : microB s x ps = true) : ∃ b r, MicroRuns s x ps b r := by
  unfold microB at h
  split at h
  · rename_i b r hr
    simp only [Bool.and_eq_true, Bool.or_eq_true, Bool.not_eq_true', decide_eq_true_eq] at h
    obtain ⟨⟨h1, h2⟩, h3⟩ := h
    refine ⟨b, if x then r.atBoundary else r, ⟨⟨r, hr, rfl, fun hx => ?_⟩, fun hx => ?_, ?_⟩⟩
    · simpa [hx] using h1
    · simpa [hx] using h2
    · cases x <;> simpa [Ray.atBoundary, Ray.setFlag, Ray.put] using h3
  · cases h

def loaded (s : State) (n : Nat) : Bool := isOk (load s (whoBatch (batchIn s)) 0x80000 n)
def cand0 : Cand := { va := 0x80000, leaf := true, inst := false, count := 2, tn := 0 }

theorem witness_TraversalMicroInstructions :
    (let s := rayIn id
     microB s true .ray = true ∧ (rayOf s).nodeAt = 0x80000 ∧ (layoutFor s (batchIn s) (rayOf s) 0).isSome = true ∧ loaded s 96 = true ∧ (rayOf s).ncnt = 0 ∧
       microB s true .both = true ∧ (rayOf s).tdepth = (rayOf s).base ∧ microB s false .ray = true) ∧
    (let s := rayIn (fun r => r.put 0x41 1 1)
     microB s true .ray = true ∧ (rayOf s).ncnt ≠ 0 ∧ loaded s 48 = true) ∧
    (let s := rayIn (fun r => ((r.setFlag 1 true).setFlag 2 true).put 0x28 8 0x90000)
     microB s true .ray = true ∧ (rayOf s).flag 1 = true ∧ (rayOf s).flag 2 = true ∧ (rayOf s).level < 2 ∧ (rayOf s).nodeAt = 0x90000 ∧
       (load s (whoBatch (batchIn s)) 0x90000 64).toOption.map (·.2) = some 0) ∧
    (let s := rayIn (fun r => { r with pool := [0x80000] })
     microB s true .both = true ∧ (rayOf s).tdepth ≠ (rayOf s).base) ∧
    (let s := rayIn (fun r => { r with node := some (List.replicate 96 0), cands := [cand0, cand0] })
     microB s false .ray = true ∧ (rayOf s).lay = some layout0 ∧ isOk (boxChildren (rayOf s) layout0 0 2 0) = true ∧
       (rayOf s).tdepth + 1 ≤ (rayOf s).limit ∧ 1 ≤ poolGet (batchIn s) (rayOf s)) ∧
    (let s := rayIn (fun r => { r.put 0x38 8 0x80000 |>.put 0x44 2 200 with pool := List.replicate 1023 0, cands := [cand0, cand0, cand0] })
     microB s false .ray = true ∧ (rayOf s).tdepth + 2 ≤ (rayOf s).limit ∧ poolGet (batchIn s) (rayOf s) = 1) ∧
    (let s := rayIn (fun r => ((r.put 0x38 8 0x80000).put 0x44 2 2).put 0x42 2 1)
     microB s true .both = true ∧ (rayOf s).tdepth ≠ (rayOf s).base ∧ (rayOf s).pool = [] ∧ (rayOf s).ovfN = 1 ∧ 8 ≤ poolGet (batchIn s) (rayOf s) ∧ loaded s 64 = true) ∧
    (let s := rayIn (fun r => r.setFlag 1 true)
     microB s false .ray = true ∧ (rayOf s).flag 1 = true ∧ (rayOf s).flag 2 = false) ∧
    (let s := rayIn (fun r => r.put 0x27 1 1)
     microB s false .ray = true ∧ (rayOf s).level ≠ 0 ∧ (rayOf s).cands = []) := by decide +kernel

def rasterIn (f : Ray → Ray) : State := rayIn (fun r => f { r with kind := 1, img := 0, code := [0, 0] })

theorem witness_GeneralAndRasterMicroInstructions :
    (let s := rasterIn (fun r => { r with node := some [1, 2, 3, 4] })
     microB s false .both = true ∧ (rayOf s).code.length = 2 ∧ (rayOf s).node = some [1, 2, 3, 4] ∧ microB s false .raster = true ∧ tileLev (rayOf s).nodeAt = 0) ∧
    (let s := rasterIn (fun r => (r.put 0x38 8 0x80000).put 0x44 2 2)
     microB s false .raster = true ∧ (rayOf s).tdepth + 16 ≤ (rayOf s).limit ∧ 16 ≤ poolGet (batchIn s) (rayOf s) ∧ tileLev (rayOf s).nodeAt < 3) ∧
    (let s := rasterIn (fun r => r.put 0x28 8 0x30000)
     microB s true .raster = true ∧ tileLev (rayOf s).nodeAt = 3 ∧ emitTurn s (batchIn s) (rayOf s) 0 0 = true ∧
       ((List.range 4).foldl (fun (a : State × Nat) j => let q := emitPixel a.1 (batchIn s) (rayOf s) 0 0 j; (q.1, a.2 + (if q.2 then 2 ^ j else 0))) (s, 0)).2 = 0) ∧
    (let s := rasterIn id
     microB s true .raster = true ∧ tileLev (rayOf s).nodeAt ≠ 3) := by decide +kernel

/-- A triangle that covers the tile's four pixels in front of what is there. -/
theorem witness_EmittedPixels :
    (let s := rasterIn (fun r => [(0x28, 8, 0x30000), (0x10, 8, 0x100004), (8, 4, 0xBF800000), (0x88, 4, 0x3F800000), (0x94, 4, 0x3F800000), (0xA0, 4, 0x3F800000)].foldl
       (fun (r : Ray) (x : Nat × Nat × Nat) => r.put x.1 x.2.1 x.2.2) r)
     let b := batchIn s
     let r := rayOf s
     let w (v : Nat) : Word := BitVec.ofNat 32 v
     let px := (List.range 4).foldl (fun (a : State × Nat) j => let q := emitPixel a.1 b r 0 0 j; (q.1, a.2 + (if q.2 then 2 ^ j else 0))) (s, 0)
     microB s true .raster = true ∧ tileLev r.nodeAt = 3 ∧ emitTurn s b r 0 0 = true ∧ px.2 = 15 ∧
       (match templateFor s b.die b.asid 0x100004 with
        | .ok (_, some tm) => tm.valid && (let tk := takeTicket (emitDepth px.1 b 0 0) b.die b.quad 0 15
            (binRecord tk.1 b.die b.quad b.asid tm { v := [w (r.get 0x18 2), w (r.get 0x1A 2), w 15, w (r.get 0xC 4)], p := 0, ticket := some tk.2, mig := none }).isSome)
        | _ => false) = true) := by decide +kernel
def withCtl (s : State) (f : Control → Control) : State := s.modUnit waveAt (fun u => u.modCtl f)

def cmd0 : Cmd :=
  { id := 0, die := 0, quad := 0, issuer := waveAt, serial := 1, sup := false, asid := 0, cclass := 0, grid := none, token := 8, lanes := 5, scope := 0, op := 1, recVa := 0x80040,
    state := .parked .page, img := none, tdesc := 0, next := 0, src := 0, dst := 0, srcHalf := none, dstHalf := none, contribs := [], entry := none }

def task0 : Machine.Task :=
  { entry := 0x100008, args := [0, 0, 0, 0], asid := 0, lds := 0, tag := 0, callerPlace := 0, callerSerial := 0, held := some .page, heldVa := 0, frozen := false, fromSup := false, scope := 0, refusal := none }

def waiter0 : Machine.Waiter := { idx := 0, key := 0, va := 0x100, asid := 0, bwait := false, place := waveAt, serial := 1, lane := 0, saved := false, res := none }

/-- A swarm thread that is saved, parked, in the first unit record of its context. -/
def saved0 : Saved :=
  { asid := 0, slot := 0, recIdx := 0, place := threadAt, serial := 1, engine := .swarm, kind := 0, prio := 0, regs := 4, lds := 0, fork := none, stale := 0, forked := false,
    captured := false, grid := none, since := 0, unit := none, cmds := [], batches := [], tokens := [] }
def parkedAway : State :=
  let s := (env State.reset).modDisp 0 (fun d => { d with saved := [saved0] })
  s.wr (paOf s 0 0x41000000) 4 0x04000302

theorem witness_SavedUnits : selUnit parkedAway 0 0 0x40 = none ∧ selSaved parkedAway 0 0 0x40 = some saved0 ∧ (savedAs parkedAway 0 saved0).map (·.ctl.faulted) = some true ∧
    (pairOf (parkedAway.core 0 0).tgtLo (parkedAway.core 0 0).tgtHi).toNat = 0 := by decide +kernel

theorem witness_SupervisorActionEvents :
    (let s := withCtl (wave 0) (fun c => { c with run := .parked })
     (selUnit s 0 0 0).map (·.ctl.faulted) = some true ∧ (pairOf (s.core 0 0).tgtLo (s.core 0 0).tgtHi).toNat = 0) ∧
    (let s := withCtl (wave 0) (fun c => { c with run := .stopped, redirected := true })
     (selUnit s 0 0 0).map (fun u => (u.ctl.run, u.ctl.redirected)) = some (.stopped, true)) ∧
    (let s := (wave 0).modDie 0 (fun d => { d with waiters := [waiter0] })
     (selUnit s 0 0 0).map (isWaiting s) = some true) ∧
    (let s := { (wave 0).modCore 0 0 (fun k => { k with tgtLo := 8 }) with cmds := [cmd0] }
     (selUnit s 0 0 0).map (fun u => cmd0.stuck && namesToken 8 0 cmd0.token cmd0.lanes && issuedBy u cmd0.asid cmd0.serial cmd0.sup cmd0.issuer) = some true) ∧
    (selUnit (wave 0) 0 0 0).map (·.ctl.faulted) = some false ∧
    (let s := (wave 0).modUnit waveAt (fun u => u.modBook (fun b => { b with sleeps := [{ gang := 0, pc := 0x100000, limit := false, until_ := 0, woken := false }] }))
     (selUnit s 0 0 0).map (fun u => u.book.sleeps.any (fun z => !z.woken) && decide (u.ctl.run = .ready)) = some true) ∧
    (let s := State.reset.modCore 0 0 (fun k => { k with tasks := [task0] })
     (tasksOf s (.core 0 0)).length = 1 ∧ task0.held = some .page) ∧
    (unitOf waveAt .wave 0).isWave = true := by decide +kernel

theorem witness_RegisterEvents :
    (let s := (wave 0).modCore 0 0 (fun k => { k with ctrSel := 2 })
     (selUnit s 0 0 ((s.core 0 0).ctrSel.extractLsb' 8 8).toNat).isSome = true ∧ ((s.core 0 0).ctrSel.extractLsb' 0 5).toNat = 2) ∧
    (let s := (wave 0).modCore 0 0 (fun k => { k with ctrSel := 23 })
     (selUnit s 0 0 ((s.core 0 0).ctrSel.extractLsb' 8 8).toNat).isSome = true ∧ ((s.core 0 0).ctrSel.extractLsb' 0 5).toNat = 23) ∧
    (selUnit (wave 0) 0 0 ((((wave 0).core 0 0).dlySel).extractLsb' 16 8).toNat).isSome = true ∧
    plainB (wave 0) { opds := [dst 8 .one] } = true ∧ State.reset.pkg.phase ≠ .hold ∧
    (((State.reset.quad 0 0).mboxes.getD 7 Chan.empty).words.length < 16) ∧
    (let s := State.reset.modQuad 0 0 (fun q => { q with mboxes := setAt q.mboxes 7 { words := List.replicate 16 0, waiters := [] } })
     16 ≤ ((s.quad 0 0).mboxes.getD 7 Chan.empty).words.length) ∧
    (State.reset.quad 0 0).chanOwner.extractLsb' 0 16 = (0 : Word).extractLsb' 0 16 ∧ (0 : Word).getLsbD 16 = false ∧
    3 < (State.reset.quad 0 0).launders.length ∧ (0 : Word).getLsbD 31 = false ∧
    ((State.reset.die 0).regs.monSel.extractLsb' 0 5 = 0) ∧ (State.reset.die 0).disp.pre = none ∧
    (let s := (withCtl (wave 0) (fun c => { c with run := .parked })).modCore 0 0 (fun k => { k with dwSel := 0x400000 })
     (s.core 0 0).gated = false ∧ dwSelOf (s.core 0 0).dwSel = { entry := 0, index := 0, lane := 0, space := 4, unit := 0 } ∧
       (selUnit s 0 0 0).map inspectable = some true) ∧
    ldrRefused (State.reset.quad 0 0) 0 ((0xB0000000 : Word) &&& 0xB3FFFFFF) = true ∧
    ldrRefused (State.reset.quad 0 0) 0 ((0x80004000 : Word) &&& 0xB3FFFFFF) = false := by decide +kernel

def up0 : BringUp := { failStep := none, failDie := 0, failCode := 0, failUnit := 0, failDetail := 0, pkgNo := 0, image := none }
def image0 : Image := { slot := 0, key := List.replicate 48 0, version := 0, place := 0, entry := 0, header := [], body := [], sig := List.replicate 16224 0 }
def running : State := modPkg State.reset (fun p => { p with phase := .running })
def flipping : State := { running with flips := [{ page := 0x40000, left := [0x1000000, 0x1000001], place := supAt, linkFail := false }] }
def idle : State := running.modDie 0 (fun d => { d with time := 200000 })

/-- A part whose slot 0 holds the hash of image0's key: an image that the verifier accepts passes the checks of bring-up. -/
def keyed : State := modPkg State.reset (fun p => { p with keys := [{ hash := sha256 image0.key, enrolled := true, revoked := false }] })

theorem witness_PackageEvents_image (h : Config.slhVerify image0.key (signedPart image0) image0.sig = true) :
    up0.failStep = none ∧ ({ up0 with image := some image0 }).image = some image0 ∧ imageFault (powerCycle keyed).pkg image0 = none := by
  have hk : image0.key.length = 48 := List.length_replicate
  have hs : image0.sig.length = 16224 := List.length_replicate
  have h0 : (powerCycle keyed).pkg.keys[image0.slot]? = some { hash := sha256 image0.key, enrolled := true, revoked := false } := rfl
  have hv : ¬ image0.version < (powerCycle keyed).pkg.minVersion := by show ¬ (0 : Word) < 0; decide
  simp [imageFault, h, hk, hs, h0, hv, up0]

theorem witness_PackageEvents :
    up0.failStep = none ∧ up0.image = none ∧ manageable running = true ∧ running.pkg.phase = .running ∧ running.pkg.cxlUp = true ∧ running.pkg.portsDown = [] ∧
    portFrozen running none = false ∧ portFrozen running (some 15) = false ∧ running.pkg.heldReqs.any (·.leads running) = false ∧
    (serveReq running none { pa := page0, n := 64, wr := none }).isSome = true ∧
    (flipping.flips.find? (fun f => f.left.contains 0x1000001)).map (·.left) = some [0x1000000, 0x1000001] ∧ running.flips = [] ∧ running.pkg.heldReqs = [] ∧
    running.pkg.pwrLim.getLsbD 31 = false ∧ powerLimit running.pkg < (2601 : BitVec 12).toNat ∧ (2600 : BitVec 12).toNat ≤ powerLimit running.pkg ∧
    powerLimit running.pkg ≤ (2550 : BitVec 12).toNat + 50 ∧
    (idle.core 0 239).gated = false ∧ coreIdle idle 0 239 = true ∧ 100000 ≤ (nowOf idle 0 - (idle.core 0 239).emptySince).toNat ∧
    ((idle.modCore 0 0 (fun k => { k with gated := true })).core 0 0).gated = true ∧
    ((running.modDie 0 (fun d => { d with slew := d.slew + 4 })).die 0).slew.natAbs ≤ 4 ∧ 4 < ((running.modDie 0 (fun d => { d with slew := d.slew + -5 })).die 0).slew.natAbs ∧
    (countError (wave 0) { die := 0, kind := 1, corrected := false, counted := true, addr := 0, met := .unit waveAt 0 }).unit? waveAt ≠ none ∧
    ((countError { State.reset with cmds := [cmd0] } { die := 0, kind := 1, corrected := false, counted := true, addr := 0, met := .cmd 0 }).cmds.find? (fun c => decide (c.id = 0))) = some cmd0 ∧
    (batchOf (countError (rayIn id) { die := 0, kind := 1, corrected := false, counted := true, addr := 0, met := .ray 0 0 }) 0).bind (·.ray? 0) ≠ none := by decide +kernel
/-- A dispatcher that holds the context's header; the context table is at 0xA0000, and launch queue 0 holds one record. -/
def queued (f : Dispatcher → Dispatcher) : State :=
  let s := env State.reset
  let s := (s.modRegs 0 (fun r => { r with ctxCount := 1, ctxTabLo := 0xA0000 })).modDisp 0 f
  let put (s : State) (va n v : Nat) : State := s.wr (paOf s 0 (0x40000000 + va)) n v
  put (put (put s 0xA0040 8 0x90000) 0xA0048 2 0x104) 0xA0058 4 1

def belled : State := let s := queued (fun d => { d with bells := [(0, 0)] }); s.wr (paOf s 0 0x40090000) 8 0x80040
def disabled : State := let s := queued (fun d => { d with bells := [(0, 0)] }); s.wr (paOf s 0 0x400A0049) 1 0

def rec0 : LRec := { entry := 0x100000, karg := 0, dep := 0x200, done := 0, cond := 0, footprint := 0, waves := 1, kstride := 0, asid := 0, regs := 64, lds := 0, cclass := 0, prio := 0, kind := 0 }
def head0 : Head := { slot := 0, prio := 0, recVa := 0x80040, rec_ := rec0, asid := 0, ready := true, since := 0, held := false }
def grid0 (next : Nat) : Grid :=
  { id := 7, die := 0, slot := 0, qprio := 0, asid := 0, recVa := 0x80040, entry := 0x100000, karg := 0, kstride := 0, done := 0, footprint := 0, waves := 1, next := next,
    regs := 64, lds := 0, cclass := 0, prio := 0, kind := 0, since := 0, ran := [], last := 0, fpDone := [], held := none }
def gridded (n : Nat) : State := { env State.reset with grids := [grid0 n] }

theorem witness_DispatcherEvents_queues :
    0 < ctxCount disabled 0 ∧ (hdrOfSlot disabled 0 0).map (eligible disabled 0) = some true ∧ (0, 0) ∈ ((adoptAll disabled 0).die 0).disp.bells ∧
    headOf (adoptAll disabled 0) 0 0 0 = none ∧ (readQueue disabled 0 0 0).enabled = false ∧ (openQueue disabled 0 0 0).2 = none ∧
    (let q := readQueue belled 0 0 0
     q.enabled = true ∧ q.blockOk = true ∧ q.count = 1 ∧ q.lsize = 4 ∧ (openQueue (adoptAll belled 0) 0 0 0).2 = some q ∧
       (sysRead belled (dispWho 0 0) (q.entryVa q.head) 8).toOption.map (·.2) = some 0x80040) ∧
    (let s := queued id
     let bad := s.wr (paOf s 0 0x400A0048) 1 17
     let full := s.wr (paOf s 0 0x400A0058) 4 17
     (readQueue bad 0 0 0).enabled = true ∧ (readQueue bad 0 0 0).blockOk = false ∧ (readQueue full 0 0 0).blockOk = true ∧ 2 ^ (readQueue full 0 0 0).lsize < (readQueue full 0 0 0).count) ∧
    (((queued (fun d => { d with notes := [(0, 0x200)] })).die 0).disp.notes = [(0, 0x200)]) := by decide +kernel

/-- A kept head whose record still stands in its ring, with a condition word at the VA c. -/
def kept (c : DWord) : State :=
  let s := queued (fun d => { d with heads := [{ head0 with rec_ := { rec0 with cond := c } }], bells := [(0, 0)] })
  s.wr (paOf s 0 0x40090000) 8 0x80040

theorem witness_DispatcherEvents_heads :
    (bestHead (kept 0) 0).map (fun h => (h.recVa, h.rec_.cond)) = some (0x80040, 0) ∧ (bestHead (kept 0) 0).map (fun h => (recheck (kept 0) 0 h).2) = some true ∧ (gridsOn (kept 0) 0).length = 0 ∧
    (headOf (adoptAll (kept 0) 0) 0 0 0).map (fun h => (recheck (adoptAll (kept 0) 0) 0 h).2) = some true ∧
    (bestHead (kept 0x80100) 0).map (fun h => (h.rec_.cond, (recheck (kept 0x80100) 0 h).2)) = some (0x80100, true) ∧
    (bestHead (kept 0x80100) 0).map (fun h => isOk (sysRead (recheck (kept 0x80100) 0 h).1 (dispWho 0 0) 0x80100 4)) = some true := by decide +kernel

theorem witness_DispatcherEvents_placement :
    (let s := adoptAll (gridded 0) 0
     let held := (gridded 0).modDisp 0 (fun d => { d with behind := [0] })
     (s.die 0).disp.placed = false ∧ binDue s 0 = false ∧ deviceWaits s = false ∧ (placeOne s 0 (fun a => !(s.die 0).disp.behind.contains a)).isSome = true ∧
       (placeOne held 0 (fun a => !([0] : List Nat).contains a)).isNone = true ∧ ([0].findSome? (fun b => placeOne held 0 (fun a => decide (a = b)))).isSome = true ∧
       ((adoptAll (notePlaced (gridded 0) 0) 0).die 0).disp.placed = true) ∧ (placeWave' (gridded 0) (grid0 0)).isSome = true ∧
    (gridded 1).grids.find? (fun x => decide (x.id = 7)) = some (grid0 1) ∧ (grid0 1).held = none ∧ gridOver (gridded 1) (grid0 1) = true := by decide +kernel

/-- A unit of ASID 0 at the end of its slice; the context in slot 1 has the grids gs. -/
def sliced (gs : List Grid) : State :=
  let s := (env (wave 0)).modDisp 0 (fun d => { d with hdrs := [{ ctx0 with slice := 1 }, { ctx0 with slot := 1, asid := 1 }], slices := [{ slot := 0, started := 0 }] })
  { s.modDie 0 (fun d => { d with time := 1000 }) with grids := gs }

theorem witness_DispatcherEvents_slices :
    (let s := sliced [{ grid0 0 with slot := 1, asid := 1, regs := 2049 }]
     (s.die 0).disp.slices = [{ slot := 0, started := 0 }] ∧ (hdrOfSlot s 0 0).map (·.slice) = some 1 ∧ ctxUnits s 0 0 ≠ [] ∧ 1000 ≤ (nowOf s 0 - 0).toNat ∧ (s.die 0).disp.pre = none ∧
       othersWait (readHeader s 0 0) 0 0 = true ∧ othersWait (readHeader (sliced []) 0 0) 0 0 = false) := by decide +kernel

def bin0 (st : BinState) : Bin :=
  { state := st, entry := 0x100004, asid := 0, recs := [{ v := [1], p := 0, ticket := none, mig := none }], elapsed := 64, tindex := 0, timer := 64, mode := 0, regs := 64, lds := 0, cclass := 0,
    prio := 0, ks := [], since := 0, saved := false }
def binned (st : BinState) : State := (env State.reset).modQuad 0 0 (fun q => { q with bins := setAt q.bins 0 (bin0 st) })

theorem witness_DispatcherEvents_contexts :
    (let s := queued (fun d => { d with slices := [{ slot := 0, started := 0 }], pre := some 0 })
     ((s.die 0).disp.slices.find? (fun t => decide (t.slot = 0))).isSome = true ∧ (hdrOfSlot s 0 0).isSome = true ∧ ctxUnits s 0 0 = [] ∧ (s.die 0).disp.pre = some 0 ∧
       stillOn s 0 0 = true ∧ (List.range 4).filterMap (fun d => (hdrOfSlot s d 0).map (·.asid)) = [0] ∧ diesOf s 0 = [0] ∧
       stillOn ((diesOf s 0).foldl (fun s d => stopRays s d 0) s) 0 0 = true) ∧
    (let s := rayIn id
     stillOn ((diesOf s 0).foldl (fun s d => stopRays s d 0) s) 0 0 = false ∧ diesOf s 0 = [0]) ∧
    (let b := (binned .filling |>.quad 0 0).bins.getD 0 Bin.reset
     b.state = .filling ∧ b.timer ≤ b.elapsed) ∧
    (let s := binned .launching
     let b := (s.quad 0 0).bins.getD 0 Bin.reset
     let t := needCtx s 0 b.asid
     b.state = .launching ∧ (binCore t 0 0 b).isSome = true ∧ (takeRec t 0 0 1).isSome = true) := by decide +kernel

/-- A copy of 64 bytes. -/
def copying : Cmd := { cmd0 with state := .running, img := some (64 * 2 ^ 192), src := 0x90000, dst := 0x91000 }

theorem witness_DispatcherEvents_work :
    (let s := (env State.reset).modCore 0 0 (fun k => { k with tasks := [{ task0 with held := none }] })
     (pickTask s (.core 0 0)).isSome = true) ∧
    (let t : Machine.Task := { task0 with held := none }
     (pickTask (modTasks (env State.reset) (.mcc 0 0) (fun _ => [t])) (.mcc 0 0)).isSome = true ∧ (pickTask (modTasks (env State.reset) (.sup 0 0) (fun _ => [t])) (.sup 0 0)).isSome = true) ∧
    (let s := rayIn (fun r => { r with state := .done })
     (batchOf s 0).map batchOver = some true) ∧
    (∀ cap ∈ [0, 2], let s := rayIn (fun r => { (r.put 0x38 8 0x80000).put 0x44 2 cap with stalled := 1, need := 1, pool := List.replicate 1024 0 })
     (batchOf s 0).isSome = true ∧ (batchIn s).rays.all (fun r => decide (r.state = .running)) = true ∧ (batchIn s).rays.all (fun r => r.starved (batchIn s) && r.stuck s (batchIn s)) = true ∧
       (mostEntries (batchIn s).rays).map (fun r => decide (r.ovfN = r.ovfCap) == decide (cap = 0) && isOk (spillBlock s (whoBatch (batchIn s)) r)) = some true) ∧
    (let c : Cmd := { cmd0 with state := .running }
     c.state = .running ∧ c.img = none) ∧ ({ cmd0 with state := .done 0 } : Cmd).state = .done 0 ∧ copying.op ≠ 6 ∧ ({ copying with op := 6 } : Cmd).op = 6 ∧ deviceWaits (wave 0) = false ∧ copying.blocks = 1 ∧
    (let s : State := { env (wave 0) with cmds := [copying] }
     (match plainBlock s copying 0 with
      | .ok t => (match blockDone t copying 0 with
        | .ok _ => true
        | .error _ => false)
      | .error _ => false) = true) := by decide +kernel
def item0 : Item := { die := 0, pkg := 0, core := 0, unit := 0, serial := 1, asid := 0, words := List.replicate 12 0 }
def fill0 : Fill := { core := none, va := 0x80000, asid := 0, sup := false, cclass := 0, gen := 0, acq := 0 }
def wt0 (b : Bool) : WriteThrough := { tag := 0, asid := none, pa := page0, mask := 1, bytes := 7, arrived := b }
def breaking : State := (wave 0).modCore 0 0 (fun k => { k with bps := setAt k.bps 0 { pcLo := 0x100000, pcHi := 0, ctl := 0x87000000, imm := 0 } })
def sampling (s : State) : State := s.modCore 0 0 (fun k => { k with smpCfg := 0x80000008, smpCount := 256 })

theorem witness_CoreEvents :
    (let s := (wave 0).modUnit waveAt (fun u => u.modBook (fun b => { b with gwait := smSet 0 b.gwait 0 256 }))
     (s.unit? waveAt).map (fun u => decide (256 ≤ smGet 0 u.book.gwait 0) && !u.book.promoted.contains 0) = some true) ∧
    (let s := withSlice (wave 0) (fun sl => { sl with atRegang := true })
     (s.unit? waveAt).map (fun u => (u.isWave, u.ctl.run, u.liveSlices, (u.slice 0).atRegang, (u.slice 0).pc)) = some (true, .ready, [0], true, 0x100000)) ∧
    ((withCtl (wave 0) (fun c => { c with haltFlag := true })).unit? waveAt).map (fun u => (u.ctl.haltFlag, u.ctl.run)) = some (true, .ready) ∧
    ((State.reset.modDie 0 (fun d => { d with fills := [fill0] })).die 0).fills = [fill0] ∧
    (let s := State.reset.modDie 0 (fun d => { d with wts := [wt0 true, wt0 false] })
     (s.die 0).wts.find? (fun t => !t.arrived) = some (wt0 false) ∧ (s.die 0).wts.findIdx? (fun t => t.arrived) = some 0) ∧
    (let s := modOutbuf (wave 0) 0 0 (fun _ => [item0])
     outbufOf s 0 0 = [item0] ∧ (acceptItem s item0).isSome = true) ∧ (∀ u ∈ (wave 0).units, u.book.saved = []) ∧ ((wave 0).unit? waveAt).isSome = true ∧
    (let s := ((wave 0).modDie 0 (fun d => { d with riserQ := [(threadAt, 0), (waveAt, 0)] })).modUnit waveAt (fun u => { u with tx := [(0, { LaneTx.idle with txb := 0x100000 })] })
     (s.die 0).riser = none ∧ (s.die 0).riserQ.find? (riserHolds s) = some (waveAt, 0)) := by decide +kernel

theorem witness_CoreEvents_debug :
    (issueAt breaking waveAt 0 true).isSome = true ∧ (comparatorAt breaking (iss breaking true)).isSome = true ∧ (iss breaking true).u.ctl.run = .ready ∧
    ((sampling State.reset).core 0 0).smpCfg.getLsbD 31 = true ∧ samplePeriod ((sampling State.reset).core 0 0).smpCfg ≤ ((sampling State.reset).core 0 0).smpCount ∧
    nextSampled (unitsOn (sampling State.reset) 0 0) 0 = none ∧ (nextSampled (unitsOn (sampling (wave 0)) 0 0) 0).isSome = true ∧
    (let s := State.reset.modCore 0 0 (fun k => { k with stop := true })
     (s.core 0 0).stop = true ∧ (s.core 0 0).stopped = false ∧ unitsOn s 0 0 = []) ∧ (unitsOn (withCtl (wave 0) (fun c => { c with halted := true })) 0 0).map (fun u => (u.ident.act, u.quiet)) = [(none, true)] ∧
    (let s := State.reset.modDie 0 (fun d => { d with mons := smSet [] d.mons 3 [(0, 4)], monCount := smSet 0 d.monCount 3 16 })
     levelPeriod (smGet 0 (smGet [] (s.die 0).mons 3) 0) ≤ smGet 0 (s.die 0).monCount 3) ∧
    (issueOf (wave 0) true).isSome = true ∧ microB (rayIn id) false .both = true := by decide +kernel

/-! ## What further clauses of the statements assume is met -/

theorem witness_ElementResults :
    (let s := wave 4
     plainB s (formOf s (.mad 8 0 4)).desc = true ∧ (laneResult s 4 (fmodeOf (iss s true).u.regs.mode) (.mad 8 0 4)).isSome = true) ∧
    (let s := wave 9
     plainB s (formOf s (.pack 8 0 4)).desc = true ∧ (laneResult s 9 (fmodeOf (iss s true).u.regs.mode) (.pack 8 0 4)).isSome = true) ∧
    (let s := wave 0x41
     plainB s (formOf s (.add 8 0 4)).desc = true ∧ modeSat (iss s true).u.regs.mode = true ∧ (laneResult s 1 (fmodeOf (iss s true).u.regs.mode) (.add 8 0 4)).isSome = true) ∧
    (let s := wave 6
     plainB s (formOf s (.dot 8 0 4)).desc = true ∧ (laneResult s 6 (fmodeOf (iss s true).u.regs.mode) (.dot 8 0 4)).isSome = true) ∧
    (let s := wave 4
     uniformB s (formOf s (.rcp 0x84 0x80)).desc = true ∧ (iss s true).shared = none ∧ (laneResult s 4 (fmodeOf (iss s true).u.regs.mode) (.rcp 0x84 0x80)).isSome = true) := by decide +kernel

theorem witness_NumberFormats_sums : (∀ x ∈ [XR.fin false 3 0, XR.fin true 1 2], ∃ z n e, x = XR.fin z n e ∧ (0 : Int) ≤ e) ∧ (3 : Nat) < elemCount 11 := by
  refine ⟨fun x hx => ?_, by decide⟩
  simp only [List.mem_cons, List.not_mem_nil, or_false] at hx
  rcases hx with rfl | rfl
  · exact ⟨false, 3, 0, rfl, by decide⟩
  · exact ⟨true, 1, 2, rfl, by decide⟩

/-- A wave whose second slice is a gang of the same strand that stands elsewhere. -/
def twoGangs (f : Slice → Slice) : State :=
  (wave 0).modUnit waveAt (fun u => { u with slices := modAt u.slices 1 (fun sl => f { sl with pc := 0x100008, live := 15, active := 15, gang := 1 }) })

theorem witness_WholeGangInstructions_strand :
    (iss (wave 0) false).u.isWave = true ∧ strandBehind (iss (wave 0) false) = false ∧ strandBehind (iss (twoGangs id) false) = true ∧
    (issueOf (twoGangs id) false).isSome = true ∧ ¬ modeStart (twoGangs id) (iss (twoGangs id) false) + 65536 ≤ (twoGangs id).pkg.clocks.toNat ∧ isUniform 8 = false := by decide +kernel

theorem witness_DivergenceKeepsTheLanes_arrivals :
    (let sl : Slice := { blankSlice with pc := 0x11C, live := 15, active := 5, rstack := [{ pc := 0x108, mask := 10 }, { pc := 0x11C, mask := 0 }] }
     StackOk sl ∧ KeepsLanes sl ∧ StackOk { sl with active := 0 } ∧ sl.rstack ≠ []) ∧
    (let sl : Slice := { blankSlice with pc := 0x11C, live := 15, active := 5, rstack := [{ pc := 0x11C, mask := 0 }] }
     StackOk sl ∧ sl.active ≠ 0 ∧ NoJoinAt [] sl.pc ∧ StackOk { sl with active := 0 } ∧ sl.live &&& ~~~({ sl with rstack := [] } : Slice).waiting ≠ 0) ∧
    ([(0, (8 : DWord)), (2, 16)].Pairwise (fun x y => x.1 < y.1) ∧ ∀ x ∈ [(0, (8 : DWord)), (2, 16)], x.1 / 4 = 0) ∧
    Indexed (iss (twoGangs (fun sl => { sl with gang := 0 })) true).u := by
  refine ⟨⟨⟨by decide, by decide, by decide, by decide⟩, .inl (by decide), ⟨by decide, by decide, by decide, by decide⟩, by decide⟩,
    ⟨⟨by decide, by decide, by decide, by decide⟩, by decide, by simp [NoJoinAt], ⟨by decide, by decide, by decide, by decide⟩, by decide⟩, by decide +kernel, ?_⟩
  exact ⟨by decide +kernel, by decide +kernel, by decide +kernel⟩

/-- Line 0x80000 of ASID 0 in the core's L1 and in its die's L2; its home is another die where remote. -/
def line0 (remote : Bool) : Line :=
  { tag := 0x1000, asid := some 0, pa := paOf State.reset (if remote then 1 else 0) 0x40080000, r := true, w := true, x := true, user := true, cclass := 0, remote := remote,
    gen := (State.reset.die 0).regs.gen, valid := allBytes, dirty := 0, bytes := 0x0706050403020100, owner := none, way := 0, bad := false }
def cached (remote : Bool) (s : State) : State :=
  (s.modCore 0 0 (fun c => { c with l1 := [line0 remote] })).modDie 0 (fun d => { d with l2 := [line0 remote] })

def l1HoldsB (s : State) (u : Machine.Unit) (need : Need) (va n v : Nat) : Bool :=
  decide (u.engine = .wave ∨ u.engine = .swarm) && decide (va + n ≤ 0x00F0000000000000) && decide (0 < n ∧ va % 128 + n ≤ 128) &&
    (l1Line s u va).any (fun x => decide (x.valid = allBytes) && !x.bad && x.allows u.isSup need && decide (lineGet x.bytes (va % 128) n = v))

theorem l1Holds_of {s : State} {u : Machine.Unit} {need : Need} {va n v : Nat} (h : l1HoldsB s u need va n v = true) : L1Holds s u need va n v := by
  simp only [l1HoldsB, Bool.and_eq_true, decide_eq_true_eq] at h
  obtain ⟨⟨⟨h1, h2⟩, h3⟩, h4⟩ := h
  refine { engine := h1, low := h2, inLine := h3, held := ?_ }
  cases hl : l1Line s u va with
  | none => rw [hl] at h4; cases h4
  | some x =>
    rw [hl] at h4
    simp only [Option.any_some, Bool.and_eq_true, Bool.not_eq_true', decide_eq_true_eq] at h4
    exact ⟨x, rfl, h4.1.1.1, h4.1.1.2, h4.1.2, h4.2⟩

/-- A load of lanes 0 and 2 at 0x80001 and 0x80000, and a store of lane 0 at 0x80002, in lines that the caches hold. -/
theorem witness_CachedAccesses :
    (let s := cached false (withV (withV (wave 0) waveAt 0 8 0x80001) waveAt 2 8 0x80000)
     plainB s (loadOf s (.ldw 12 8 0xE0)).desc = true ∧ (s.units.all (fun u => u.tx.isEmpty)) = true ∧ (s.die 0).mons = [] ∧ (iss s true).lanes = [0, 2] ∧
       l1HoldsB s (iss s true).u needR 0x80001 4 0x04030201 = true ∧ l1HoldsB s (iss s true).u needR 0x80000 4 0x03020100 = true ∧
       (loadOf s (.ldw 12 8 0xE0)).ea (argsOf s (iss s true) (loadOf s (.ldw 12 8 0xE0)).desc 0) = 0x80001 ∧
       (loadOf s (.ldw 12 8 0xE0)).ea (argsOf s (iss s true) (loadOf s (.ldw 12 8 0xE0)).desc 2) = 0x80000) ∧
    (∀ remote : Bool, let s := single (cached remote (withV (wave 0) waveAt 0 8 0x80002))
     plainB s (storeOf s (.stw 12 8 0xE0)).desc = true ∧ (iss s true).lanes = [0] ∧ (storeOf s (.stw 12 8 0xE0)).ea (argsOf s (iss s true) (storeOf s (.stw 12 8 0xE0)).desc 0) = 0x80002 ∧
       l1HoldsB s (iss s true).u needW 0x80002 4 0x05040302 = true ∧ l1Line s (iss s true).u 0x80002 = some (line0 remote) ∧ l2Line s 0 0 0x80002 = some (line0 remote) ∧
       sameLine (line0 remote) (line0 remote) = true ∧ (s.core 0 0).l1.find? (sameLine (line0 remote)) = some (line0 remote) ∧ lineBad s 0 (line0 remote) = false ∧
       (remote = true → paServes s (line0 remote).pa = true) ∧ (line0 remote).dirty = 0) := by decide +kernel

theorem witness_AtomicsOnCachedLines :
    (let s := cached false (wave 0)
     let w := whoOf s (iss s true).u 0
     l2Line s w.die w.asid 0x80004 = some (line0 false) ∧ lineBad s w.die (line0 false) = false ∧ (line0 false).allows w.sup needRW = true ∧ w.core = some 0 ∧
       (s.core 0 0).l1.find? (fun l => l.hits (nbits 0x80004 56 7) w.asid (s.die w.die).regs.gen) = some (line0 false) ∧ (line0 false).bad = false) ∧
    (let s := single (cached false (withV (wave 0) waveAt 0 8 0x80004))
     plainB s (otherOf s (.aadd 3 12 8 4)) = true ∧ onceForAll (iss s true).u (otherOf s (.aadd 3 12 8 4)).opds = false) ∧
    (let s := withK (inLs (wave 0) 0 0) 0 0x100
     onceForAll (iss s true).u (otherOf s (.aadd 0 12 0x80 0x84)).opds = true ∧ plainB s (otherOf s (.aadd 0 12 0x80 0x84)) = true) := by decide +kernel

/-- The group table and the handle table of ASID 0 lie at VAs 0 and 0x80000: handle 0 is in the cached line. -/
def handled : State :=
  let s := (wave 0).modRegs 0 (fun r => { r with asidTab := 8 })
  let s := s.wr (paOf s 0 0x1000008) 8 0x80000
  let l : Line := { line0 false with bytes := BitVec.ofNat 1024 (0x10000 + 2 ^ 64 * 0x20000 + 2 ^ 192 * 2) }
  s.modDie 0 (fun d => { d with l2 := [l] })

theorem witness_LiveHalves :
    (let s := handled
     let u := (iss s true).u
     asidOf s u = 0 ∧ asidField s 0 0 8 = 0x80000 ∧ ((s.die (paDie (asidEntryPa s 0 0 + 8))).l2.all (fun y => decide (y.pa ≠ asidEntryPa s 0 0 + 8 - (asidEntryPa s 0 0 + 8) % 128))) = true ∧
       (l2Line s 0 0 0x80000).any (fun m => !m.remote && !lineBad s 0 m && m.allows true needRW && decide (fieldAt (lineGet (newestOf s 0 m) 0 32) 0x18 4 = 2)) = true) ∧
    (let s := withK handled 0 0
     plainB s { scope := true, unlogged := true, opds := [src 0x80 .one, dst 8 .pair] } = true ∧ onceForAll (iss s true).u [src 0x80 .one, dst 8 .pair] = true ∧
       isOk (handleLanes s (iss s true).u true (dst 8 .pair) [([0, 2], 0)]) = true) := by decide +kernel

def blend0 (seq : Nat) : BlendEntry := BlendEntry.ofNat (0x10000 * 3 + seq + 2 ^ 32 * 0xF1 + 2 ^ 64 * 5 + 2 ^ 128 * 0x3C00)

theorem witness_BlendedPixels :
    (let s := wave 0
     ticketQ (blend0 0).ticket = 3 ∧ ticketSeq (blend0 0).ticket = nextOf s 0 0 3 ∧ pendingCount s 0 0 = 0 ∧ spillCount s 0 0 = 0 ∧ isOk (blendEntry s 0 0 (blend0 0)) = true ∧
       ticketSeq (blend0 1).ticket ≠ nextOf s 0 0 (ticketQ (blend0 1).ticket) ∧ tileGet s 0 0 0x65004 4 < 1408) := by decide +kernel

set_option maxRecDepth 65536 in
theorem witness_MovedPages :
    (let s := systemRelease (mover 0) (iss (mover 0) true)
     (leafEntry s 0 0 0x3000).any (fun e => decide (e % 8 = 0 ∧ e / 4096 ≠ (page0 + 0x10000) / 4096) && !inBiasTable e && !inBiasTable (page0 + 0x10000) &&
       (let s1 := purgePage (purgePage s page0) (page0 + 0x10000)
        let s2 := setBias ((shootTlbs s1 { asid := some 0, lo := 0x3000, hi := 0x4000 }).wr (page0 + 0x10000) 4096 (s1.rd page0 4096)) (page0 + 0x10000) 0
        isOk (physRead s2 e 8))) = true) := by decide +kernel

theorem ok_of {ε α : Type} {x : Except ε α} (d : α) (h : isOk x = true) : x = .ok (x.toOption.getD d) := by
  cases x with
  | error e => cases h
  | ok a => rfl

theorem none_open {bs : List Bin} (h : bs.all (fun b => decide (b.state = .free)) = true) (asid : Nat) (e : DWord) (j : Nat) : ¬ OpenBin (bs.getD j Bin.reset) asid e := by
  rintro ⟨hb, -⟩
  cases hj : bs[j]? with
  | none => simp [List.getD, hj, Bin.reset] at hb
  | some b =>
    have := List.all_eq_true.mp h b (List.mem_of_getElem? hj)
    simp [List.getD, hj] at hb
    simp [hb] at this

def spawner : State := entryAt (env (wave 0)) 0x100004
/-- After the checks and the release of a SPAWN whose lane 0 alone is active, and with the template read. -/
def spawning : State := release ((spawnChecks spawner (iss spawner true).u [0x100004]).toOption.getD spawner) (whoOf spawner (iss spawner true).u 0) 1
def template0 : Template :=
  { entry := 0, cclass := 0, prio := 0, regs := 0, lds := 0, timer := 0, mode := 0, ks := [], index := 0, valid := false }
def templated : State × Template := (needTemplate spawning (iss spawner true).u 0x100004 0).toOption.getD (spawning, template0)

theorem spawned_one {u : Machine.Unit} {s : State} {l : Nat} {e : DWord} {ws : Nat} {r : State × Template} (hx : needTemplate s u e 0 = .ok r)
    (h0 : 0 < (r.1.quad u.place.die (quadOf u.place.core)).bins.length)
    (hb : (r.1.quad u.place.die (quadOf u.place.core)).bins.all (fun b => decide (b.state = .free)) = true) : ∃ t, Spawned u s [(l, e, ws)] t := by
  refine ⟨_, .cons (s1 := r.1) (x := r.2) hx (.binds 0 h0 ?_ (fun j hj => absurd hj (Nat.not_lt_zero j)) (none_open hb _ _)) (.nil _)⟩
  have := List.all_eq_true.mp hb _ (List.getElem_mem h0)
  simpa [List.getD, List.getElem?_eq_getElem h0] using this

theorem witness_SpawnedRecords : ∃ t, Spawned (iss spawner true).u spawning [(0, 0x100004, 7)] t :=
  spawned_one (r := templated) (ok_of (spawning, template0) (by decide +kernel)) (by decide +kernel) (by decide +kernel)

theorem witness_SpawnPlacesRecords_bins :
    isOk (spawnChecks spawner (iss spawner true).u [0x100004]) = true ∧ Memory.wf templated.1.mem = true ∧
    (let full := templated.1.modQuad 0 0 (fun q => { q with bins := List.replicate 32 { Bin.reset with state := .launching } })
     binRecord full 0 0 0 templated.2 { v := [7, 0, 0, 0], p := 0, ticket := none, mig := none } = none) := by decide +kernel

theorem witness_ForkSuspendsTheUnit_record :
    (let s := withK (env (wave 0)) 0 0x80000
     let i := iss s true
     let s' := needCtx s 0 0
     ctxOf s' 0 i.u.ident.asid = some ctx0 ∧ i.u.tx = [] ∧ i.slices = [0] ∧ 0 < s.dies.length ∧
       (match readRec s' (whoOf s' i.u (i.lanes.headD 0)) 0 0 0x80000 with
        | .ok (s1, some x) => !deviceWaits s1 && canWatch s1 0 0 x.done && decide ((releaseTickets s1 i.u i.u.tickets).2 = none) &&
          (let f := release (releaseTickets s1 i.u i.u.tickets).1 (whoOf (releaseTickets s1 i.u i.u.tickets).1 i.u 0) 2
           (match forkEnqueue f 0 ctx0 x.prio 0x80000 with
            | .ok s3 => decide (s3.unit? waveAt = some i.u)
            | .error _ => false) &&
           (let full := f.wr (paOf s 0 0x40000058) 4 1
            let q := readQueue full 0 0 x.prio
            decide (x.prio = 0) && decide (2 ^ q.lsize ≤ q.count)))
        | _ => false) = true) := by decide +kernel

/-- q0 of the wave is bound to channel 0, which has room. -/
theorem witness_WaitsComplete_queue :
    (let s := inLs (queues (wave 0)) 0x100 0x110
     let d := otherOf s (.wait 0xC0 8 4)
     let i := iss s true
     let r := pollLanes i (waitKind 0 4) (dst 0xC0 .one) { s := s, pending := [], back := none, err := none } [(0, 0x00F0000000000100, 3), (2, 0x00F0000000000110, 3)]
     runsB s d = true ∧ allUniform i.u d.opds = false ∧ isQ 0xC0 = true ∧ queueFault s i.u d.opds 2 = none ∧ i.lanes = [0, 2] ∧ i.lanes.filter (fun l => (waitOf s i.p l).isNone) = [0, 2] ∧
       queueReady s i.u i.gang (queueUses i.u (d.opds.take 2) 2) = true ∧ r.pending = [] ∧ r.back = none ∧ r.err.isNone = true ∧
       (i.lanes.filterMap (waitOf r.s i.p)).length = 2 ∧ queueReady r.s i.u i.gang (queueUses i.u [dst 0xC0 .one] 2) = true) := by decide +kernel

theorem witness_MisalignedWaitsFault :
    (let s := inLs (wave 0) 0x101 0x100
     ([Instr.wait 12 8 4, .bwait 12 8 4].all (fun i => (otherDesc s i).isSome && plainB s (otherOf s i))) = true ∧
       ((iss s true).lanes.all (fun l => (waitOf s waveAt l).isNone)) = true ∧ (argsOf s (iss s true) (otherOf s (.wait 12 8 4)) 0).getD 0 0 % 4 = 1 ∧
       (argsOf s (iss s true) (otherOf s (.bwait 12 8 4)) 0).getD 0 0 % 16 = 1) := by decide +kernel

theorem witness_SystemRegisters_writes : 0 < State.reset.dies.length ∧ (State.reset.core 0 0).bps.length = 8 ∧ [0xFFFFFFFC, 0x1FFFFFF, 0xF7FFFFFF, 0xFFFFFFFF][(0x6F : Nat) % 4]? = some 0xFFFFFFFF ∧
    ((State.reset.quad 0 0).mboxes.getD 7 Chan.empty).words.length < 16 := by decide +kernel

theorem witness_DiscardedTasks :
    (let s := State.reset.modCore 0 0 (fun k => { k with tasks := [task0] })
     (tasksOf s (.core 0 0))[0]? = some task0 ∧ outbufFull s 0 0 = false ∧
       (let f := s.modCore 0 0 (fun c => { c with outbuf := List.replicate 16 { die := 0, pkg := 0, core := 0, unit := 0, serial := 0, asid := 0, words := List.replicate 8 0 } })
        outbufFull f 0 0 = true ∧ (tasksOf f (.core 0 0))[0]? = some task0)) := by decide +kernel

theorem witness_RegisterEvents_waits :
    deviceWaits flipping = true ∧ deviceWaits State.reset = false ∧ (State.reset.modDisp 0 (fun d => { d with pre := some 0 })).pkg.phase ≠ .hold ∧
    (((State.reset.modDisp 0 (fun d => { d with pre := some 0 })).die 0).disp.pre ≠ none) ∧ 0 < ctxCount (env State.reset) 0 ∧
    (let s := (withCtl (wave 0) (fun c => { c with run := .parked })).modCore 0 0 (fun k => { k with dwSel := 0x800000000000 })
     (s.core 0 0).gated = false ∧ dwSelOf (s.core 0 0).dwSel = { entry := 0, index := 0x80, lane := 0, space := 0, unit := 0 } ∧
       (selUnit s 0 0 0).map (fun u => (inspectable u, (src 0x80 .one).kindOk u)) = some (true, true) ∧ (selUnit (s.modUnit waveAt (fun u => u.modCtl (fun c => { c with run := .ready }))) 0 0 0).map inspectable = some false) := by
  decide +kernel

/-- A package that stands at step k of a bring-up. -/
def bootAt (k : BitVec 8) (b : BringUp) : State := modPkg State.reset (fun p => { p with phase := .bringUp, booting := some b, report := { p.report with step := k, state := 2 } })

theorem witness_PackageEvents_bringUp :
    (bootAt 3 (bringUp (some 3) 0)).pkg.booting = some (bringUp (some 3) 0) ∧ bringUpFault (bootAt 3 (bringUp (some 3) 0)).pkg (bringUp (some 3) 0) = some (3, 0) ∧
    bringUpFault (bootAt 2 (bringUp (some 3) 0)).pkg (bringUp (some 3) 0) = some (3, 0) ∧ bringUpFault State.reset.pkg up0 = some (6, 5) ∧ State.reset.units = [] ∧
    running.pkg.portsDown.length < 16 ∧ 16 ≤ (modPkg running (fun p => { p with portsDown := List.range 16 })).pkg.portsDown.length ∧
    (modPkg running (fun p => { p with cxlUp := false })).pkg.cxlUp = false ∧ (0 : Nat) ∉ running.pkg.portsDown ∧
    (let s := State.reset.modCore 0 0 (fun k => { k with gated := true, waking := some 0 })
     (s.core 0 0).gated = true ∧ (s.core 0 0).waking ≠ none) := by decide +kernel

theorem witness_PackageEvents_firmware (h : Config.slhVerify image0.key (signedPart image0) image0.sig = true) :
    let s : State := { keyed with pkg := { keyed.pkg with booting := some { up0 with image := some image0 }, report := { keyed.pkg.report with step := 7 } } }
    s.pkg.booting = some { up0 with image := some image0 } ∧ bringUpFault s.pkg { up0 with image := some image0 } = none ∧ s.pkg.report.step.toNat = 7 ∧ s.units = [] := by
  have hk : image0.key.length = 48 := List.length_replicate
  have hs : image0.sig.length = 16224 := List.length_replicate
  refine ⟨rfl, ?_, rfl, rfl⟩
  have h0 : keyed.pkg.keys[image0.slot]? = some { hash := sha256 image0.key, enrolled := true, revoked := false } := rfl
  have hv : ¬ image0.version < keyed.pkg.minVersion := by show ¬ (0 : Word) < 0; decide
  simp [bringUpFault, imageFault, h, hk, hs, h0, hv, up0]

def uncor (met : ErrAt) : ErrInfo := { die := 0, kind := 1, corrected := false, counted := true, addr := 0, met := met }

theorem witness_PackageEvents_errors :
    ((countError (wave 0) (uncor (.unit waveAt 0))).unit? waveAt).map (fun u => u.gangSlices 0) = some [0] ∧
    (let s : State := countError { gridded 1 with grids := [{ grid0 1 with done := 0x200 }] } (uncor (.decrement 7))
     (s.grids.find? (fun g => decide (g.id = 7))).map (fun g => gridOver s g && g.held.isNone && decide (g.done ≠ 0)) = some true) := by decide +kernel

/-- A refused task whose refusal waits for room. -/
def owing : State := State.reset.modCore 0 0 (fun k => { k with tasks := [{ task0 with refusal := some .operand }] })

theorem witness_DispatcherEvents_refusals :
    (payRefusal owing (.core 0 0)).isSome = true ∧ (payRefusal State.reset (.core 0 0)).isNone = true ∧ (pickTask State.reset (.core 0 0)).isNone = true ∧
    (let s := (kept 0).wr (paOf State.reset 0 0x400A0049) 1 0
     (bestHead s 0).map (fun h => (recheck s 0 h).2) = some false) ∧
    (let w : Who := { coreWho 0 0 0 0 with core := some 0, acc := false }
     let t : Machine.Task := { task0 with held := none }
     (match readFootprint (env State.reset) w { t with entry := 0x40000008 } { die := 0, core := 0, unit := 0x40 } with
      | .fault _ _ => true
      | _ => false) = true ∧
     (match readFootprint ((env State.reset).wr (paOf State.reset 0 0x40100000) 8 4) w t { die := 0, core := 0, unit := 0x40 } with
      | .refused => true
      | _ => false) = true) ∧
    ((State.reset.core 0 0).gated = false ∧ (((env State.reset).modCore 0 0 (fun k => { k with gated := true })).core 0 0).gated = true) := by decide +kernel

theorem witness_PageQueue :
    (let s : State := { (env (wave 0)) with cmds := [{ cmd0 with state := .running }], pkg := { (env (wave 0)).pkg with heldReqs := [.cmd 0, .cmd 1] } }
     s.pkg.heldReqs = [.cmd 0, .cmd 1] ∧ (PageWait.cmd 0).leads s = true ∧ deviceWaits s = false) := by decide +kernel

/-- A message from the same sender is still in the network. -/
theorem witness_CoreEvents_network :
    (let s := modOutbuf (wave 0) 0 0 (fun _ => [item0])
     let n : State := { s with pkg := { s.pkg with net := [{ item0 with core := 100, unit := 0xBF, serial := 9 }] } }
     outbufOf (runNet s) 0 0 = [item0] ∧ (runNet s).pkg.net.any item0.sameSender = false ∧ (outbufOf (runNet n) 0 0).length = 1) := by decide +kernel

theorem witness_CoreEvents_halts :
    (let s := jobOn ((mcc 0).modUnit mccAt (fun u => u.modCtl (fun c => { c with haltFlag := true }))) .load 0
     (s.unit? mccAt).map (fun u => (u.ctl.haltFlag, u.ctl.run, u.ctl.halted)) = some (true, .ready, false) ∧ (s.jobOf mccAt).map (·.kind) = some .load) ∧
    (let s := withCtl (wave 0) (fun c => { c with haltFlag := true })
     s.jobOf waveAt = none ∧ ((s.unit? waveAt).map (fun u => (u.engine, u.txLanes))) = some (.wave, [])) := by decide +kernel

/-! ## Worked examples of the spec -/

/-- Register v i of lane l after one instruction. -/
def vAfter (r : Res) (l i : Nat) : Option Word :=
  match r with
  | .next t => (t.unit? waveAt).map (fun u => u.regs.getV l i)
  | _ => none

/-- Lanes 0 and 2 hold the same words in registers of one wave. -/
def both (m : BitVec 16) : List (Nat × Word) → State
  | [] => wave m
  | (i, x) :: xs => withV (withV (both m xs) waveAt 0 i x) waveAt 2 i x

/-- The example of BFE under R89: i32 (mode type 0) and n32 (mode type 1). -/
theorem test_bfe_example : vAfter (exec (.bfe 5 1 2) (both 0 [(1, 0xA0000000), (2, 0x81C)])) 0 5 = some 0xFFFFFFFA ∧
    vAfter (exec (.bfe 5 1 2) (both 1 [(1, 0xA0000000), (2, 0x81C)])) 2 5 = some 0x0000000A := by decide +kernel

/-- ADDI of -1 to 0 under n32, without and with sat (R80). -/
theorem test_addi_example : vAfter (exec (.addi 1 1 0xFF) (both 1 [(1, 0)])) 0 1 = some 0xFFFFFFFF ∧
    vAfter (exec (.addi 1 1 0xFF) (both 0x41 [(1, 0)])) 0 1 = some 0 := by decide +kernel

/-- CLE under bf16x2 with a NaN (after R117). -/
theorem test_cle_example : vAfter (exec (.cle 5 1 2) (both 6 [(1, 0x7FC03F80), (2, 0x00008000)])) 0 5 = some 0 := by decide +kernel

/-- DOT under bf16x2 rounds the exact sum once (after R126). -/
theorem test_dot_example : vAfter (exec (.dot 6 1 2) (both 6 [(6, 0x4B800000), (1, 0x3F803F80), (2, 0x3F403F00)])) 0 6 = some 0x4B800001 := by decide +kernel

/-- The home slice of a VA (R172). -/
theorem test_home_slice_example : homeSlice 0x0000200000000080 = 9 := by decide

/-- The table 0, 1, 4, 9 interpolated at 2.25, 3.5, -1 and a NaN (R130). -/
def squares (i : Nat) : Nat := [0, 0x3F800000, 0x40800000, 0x41100000].getD i 0
theorem test_tli_example :
    let y (x : Nat) : Nat := (tliElem (fmodeOf 4) fp32 squares 4 0 0x3F800000 x).1
    y 0x40100000 = 0x40A80000 ∧ y 0x40600000 = 0x41100000 ∧ y 0xBF800000 = 0 ∧ y 0x7F800001 = 0x7FC00000 := by decide +kernel

/-- The example of reconvergence after R139: lanes 0 and 2 reach the entry of the branch, then lanes 1 and 3 reach that of the JOINAT. -/
theorem test_reconvergence_example :
    let sl : Slice := { blankSlice with pc := 0x11C, live := 15, active := 5, rstack := [{ pc := 0x108, mask := 10 }, { pc := 0x11C, mask := 0 }] }
    let t := sl.arrive
    t.active = 10 ∧ t.pc = 0x108 ∧ t.rstack = [{ pc := 0x11C, mask := 0 }] ∧ ({ t with pc := 0x11C }).arrive.active = 15 ∧ ({ t with pc := 0x11C }).arrive.rstack = [] := by
  decide +kernel

/-- The five latencies of the monitor example after R408, with shift 0 and shift 4. -/
theorem test_monitor_example :
    let run (cfg : Word) : Monitor := [3, 40, 40, 700, 20000].foldl monUpdate [(0, cfg), (3, 0xFFFFFFFF)]
    let w (m : Monitor) (i : Nat) : Nat := (smGet 0 m i).toNat
    let a := run 0x81000000
    let b := run 0x81400000
    w a 2 = 5 ∧ w a 3 = 3 ∧ w a 4 = 20000 ∧ w a 5 = 20783 ∧ w a 10 = 1 ∧ w a 14 = 2 ∧ w a 18 = 1 ∧ w a 23 = 1 ∧
    w b 3 = 0 ∧ w b 4 = 1250 ∧ w b 5 = 1297 ∧ w b 8 = 1 ∧ w b 10 = 2 ∧ w b 14 = 1 ∧ w b 19 = 1 := by decide +kernel

/-- The object of the example of R74: a text section with LDWI (its base v10, its destination v4) at offset 4, and the absolute symbol `tab` of the
given value, which an I8S relocation with addend 0x200 names. -/
def tabObject (value : Nat) : List Byte :=
  ([0x4E, 0x45, 0x4C, 0x4F, 1, 0, 0, 0] : List Byte) ++ bytesOf 16 (1 + 2 ^ 32 + 2 ^ 64 + 4 * 2 ^ 96) ++
    bytesOf 32 (64 + 96 * 2 ^ 64 + 128 * 2 ^ 128 + 152 * 2 ^ 192) ++ bytesOf 8 0 ++
    bytesOf 32 (2 ^ 32 + 2 * 2 ^ 40 + 8 * 2 ^ 64 + 156 * 2 ^ 128) ++
    bytesOf 32 (0xFFFF * 2 ^ 32 + value * 2 ^ 64) ++
    bytesOf 24 (1 + 4 * 2 ^ 64 + 4 * 2 ^ 128 + 0x200 * 2 ^ 160) ++ ([0x74, 0x61, 0x62, 0] : List Byte) ++ bytesOf 8 (0x0D000000 + 0xA0040A00 * 2 ^ 32)

/-- The example of R74: S + A = 0xA00 gives 640, which I8S refuses and reports; with the symbol 0x3F0 below 0 it gives -0x1F0 / 4 = -124, the field 0x84. -/
theorem test_loader_example :
    loadNelo (tabObject 0x800) [0x400000] [] 7 = .error (.failed [{ name := [0x74, 0x61, 0x62], sect := 1, offset := 4, kind := 4, value := some 640 }] [] []) ∧
    (match loadNelo (tabObject (2 ^ 64 - 0x3F0)) [0x400000] [] 7 with
      | .ok x => decide (x.bytes = [(0x400000, bytesOf 8 (0x0D000000 + 0xA0040A84 * 2 ^ 32))] ∧ x.globals = [])
      | .error _ => false) = true := by decide +kernel

end Sys2Proof.Tests
end

section
/-! What queues, acquires, faults and packets leave of the units and of memory (R6, R245, R260). -/

namespace Sys2Proof.Machine

/-! ## Changes of one unit's book alone -/

/-- Memory and every unit but the one at p are as they were. Of that one at most the book changes, and there neither the count of retired instructions nor
the gangs that sleep. -/
structure BookOnly (p : Place) (s t : State) : Prop where
  mem : t.mem = s.mem
  other : ∀ q, q ≠ p → t.unit? q = s.unit? q
  own : ∃ f : Book → Book, (∀ b, (f b).retired = b.retired ∧ (f b).sleeps = b.sleeps) ∧ t.unit? p = (s.unit? p).map (·.modBook f)

theorem BookOnly.of_units {p : Place} {s t : State} (hm : t.mem = s.mem) (hu : t.units = s.units) : BookOnly p s t where
  mem := hm
  other q _ := by simp only [State.unit?, hu]
  own := ⟨id, fun _ => ⟨rfl, rfl⟩, by simp only [State.unit?, hu]; exact Option.map_id'.symm⟩

theorem BookOnly.refl (p : Place) (s : State) : BookOnly p s s := .of_units rfl rfl

theorem BookOnly.trans {p : Place} {s t r : State} (h : BookOnly p s t) (h' : BookOnly p t r) : BookOnly p s r := by
  obtain ⟨f, hf, hu⟩ := h.own
  obtain ⟨g, hg, hv⟩ := h'.own
  refine ⟨h'.mem.trans h.mem, fun q hq => (h'.other q hq).trans (h.other q hq), g ∘ f, fun b => ?_, ?_⟩
  · exact ⟨(hg _).1.trans (hf b).1, (hg _).2.trans (hf b).2⟩
  · rw [hv, hu, Option.map_map]; rfl

theorem BookOnly.modBook (p : Place) (s : State) {f : Book → Book} (hf : ∀ b, (f b).retired = b.retired ∧ (f b).sleeps = b.sleeps) :
    BookOnly p s (s.modUnit p (·.modBook f)) where
  mem := rfl
  other _ hq := State.unit?_modUnit_other (fun _ => rfl) hq
  own := ⟨f, hf, State.unit?_modUnit_same (fun _ => rfl)⟩

theorem BookOnly.foldl {α : Type} {p : Place} {f : State → α → State} (hf : ∀ s x, BookOnly p s (f s x)) (xs : List α) (s : State) :
    BookOnly p s (xs.foldl f s) := by
  induction xs generalizing s with
  | nil => exact .refl p s
  | cons x xs ih => exact (hf s x).trans (ih _)

/-! ## Acquires (R178, R181) -/

theorem recallLine_keeps (s : State) (die : Nat) (l : Line) :
    (recallLine s die l).1.mem = s.mem ∧ (recallLine s die l).1.units = s.units ∧ (recallLine s die l).2.remote = l.remote := by
  unfold recallLine
  split
  · exact ⟨rfl, rfl, rfl⟩
  · dsimp only
    split <;> exact ⟨rfl, rfl, rfl⟩

/-- A remote-homed copy is dropped without a write-back: its stores have gone to its home as write-throughs (R180, R181). -/
theorem evictL2_remote (s : State) (die : Nat) {l : Line} (h : l.remote = true) : (evictL2 s die l).mem = s.mem ∧ (evictL2 s die l).units = s.units := by
  obtain ⟨hm, hu, hr⟩ := recallLine_keeps s die l
  simp only [evictL2, hr, h, Bool.true_or, if_true]
  exact ⟨hm, hu⟩

theorem evictAll_remote (s : State) (die : Nat) {ls : List Line} (h : ∀ l ∈ ls, l.remote = true) : (evictAll s die ls).mem = s.mem ∧ (evictAll s die ls).units = s.units := by
  induction ls generalizing s with
  | nil => exact ⟨rfl, rfl⟩
  | cons l ls ih =>
    obtain ⟨hm, hu⟩ := evictL2_remote s die (h l (by simp))
    obtain ⟨hm', hu'⟩ := ih (evictL2 s die l) (fun x hx => h x (by simp [hx]))
    exact ⟨hm'.trans hm, hu'.trans hu⟩

theorem sweepRemote_keeps (s : State) (die : Nat) : (sweepRemote s die).mem = s.mem ∧ (sweepRemote s die).units = s.units :=
  evictAll_remote s die (fun _ hl => (List.mem_filter.mp hl).2)

theorem bumpGen_keeps (s : State) (die : Nat) : (bumpGen s die).mem = s.mem ∧ (bumpGen s die).units = s.units := by
  dsimp only [bumpGen]
  split
  · exact sweepRemote_keeps s die
  · exact ⟨rfl, rfl⟩

theorem acquire_keeps (s : State) (w : Who) (scope : Nat) : (acquire s w scope).mem = s.mem ∧ (acquire s w scope).units = s.units := by
  have hl1 : ∀ t : State, (if 3 ≤ scope then bumpGen t w.die else t).mem = t.mem ∧ (if 3 ≤ scope then bumpGen t w.die else t).units = t.units := by
    intro t
    split
    · exact bumpGen_keeps t w.die
    · exact ⟨rfl, rfl⟩
  unfold acquire
  split
  · exact hl1 s
  · cases w.core with
    | none => exact hl1 s
    | some c => exact hl1 _

theorem monEvent_keeps (s : State) (die src asid quad : Nat) (flag : Bool) (v : Int) :
    (monEvent s die src asid quad flag v).mem = s.mem ∧ (monEvent s die src asid quad flag v).units = s.units := by
  unfold monEvent
  split <;> exact ⟨rfl, rfl⟩

/-! ## Queues (R245, R252) -/

theorem bookOnly_chanMod (s : State) (u : Unit) (c : ChanRef) (f : Chan → Chan) : BookOnly u.place s (chanMod s u c f) := by
  cases c with
  | core i => exact .of_units rfl rfl
  | quad i => exact .of_units rfl rfl
  | mbox i => exact .of_units rfl rfl
  | inbox =>
    dsimp only [chanMod]
    split
    · exact .of_units rfl rfl
    · exact .modBook _ _ (by simp)

theorem bookOnly_putInbox (s : State) (u : Unit) (ib : Inbox) : BookOnly u.place s (putInbox s u ib) := by
  unfold putInbox
  split
  · exact .of_units rfl rfl
  · exact .modBook _ _ (by simp)

theorem bookOnly_receiptAcquire (p : Place) (s : State) (u : Unit) (sync : Bool) : BookOnly p s (receiptAcquire s u sync) := by
  unfold receiptAcquire
  split
  · exact .of_units (acquire_keeps ..).1 (acquire_keeps ..).2
  · exact .refl p s

theorem bookOnly_chanPop (s : State) (u : Unit) (c : ChanRef) (n : Nat) : BookOnly u.place s (chanPop s u c n).1 := by
  have hmon : ∀ src (s : State) (t : Nat), BookOnly u.place s (monEvent s u.place.die src u.ident.asid (quadOf u.place.core) false t) :=
    fun _ _ _ => .of_units (monEvent_keeps ..).1 (monEvent_keeps ..).2
  cases c with
  | core i => exact bookOnly_chanMod s u (.core i) _
  | quad i => exact bookOnly_chanMod s u (.quad i) _
  | mbox i => exact bookOnly_chanMod s u (.mbox i) _
  | inbox => exact (((bookOnly_putInbox ..).trans (.foldl (hmon 3) ..)).trans (.foldl (hmon 4) ..)).trans (bookOnly_receiptAcquire ..)

theorem bookOnly_queueUnblock (s : State) (u : Unit) (g : Nat) (us : List QUse) : BookOnly u.place s (queueUnblock s u g us) :=
  .foldl (fun _ _ => bookOnly_chanMod ..) us s

theorem bookOnly_readAllOpds (s : State) (u : Unit) (sx : Bool) (ls : List Nat) (os : List Opd) : BookOnly u.place s (readAllOpds s u sx ls os).1 := by
  induction os generalizing s with
  | nil => exact .refl _ s
  | cons o os ih =>
    cases hr : o.rd with
    | false => simpa [readAllOpds, hr] using ih s
    | true =>
      cases hq : isQ o.f with
      | false => simpa [readAllOpds, hr, hq] using ih s
      | true =>
        cases hc : u.chanOf o.f with
        | none => simpa [readAllOpds, hr, hq, hc] using ih s
        | some c => simpa [readAllOpds, hr, hq, hc] using (bookOnly_chanPop s u c _).trans (ih _)

theorem bookOnly_unpopWord (s : State) (u : Unit) (sel w : Word) : BookOnly u.place s (unpopWord s u sel w) := by
  unfold unpopWord
  split
  · exact .refl _ s
  · exact bookOnly_putInbox ..
  · exact bookOnly_chanMod ..

/-! ## What an instruction that does not complete gives up (R243, R245) -/

theorem bookOnly_dropJob (s : State) (u : Unit) : BookOnly u.place s (dropJob s u) := by
  unfold dropJob
  split
  · exact .refl _ s
  · dsimp only
    refine .trans ?_ (.foldl (fun _ _ => bookOnly_unpopWord ..) _ _)
    exact .of_units rfl rfl

theorem bookOnly_leaveEngine (s : State) (p : Place) : BookOnly p s (leaveEngine s p) := by
  unfold leaveEngine
  split <;> exact .of_units rfl rfl

theorem bookOnly_leaveQueues (s : State) (p : Place) (mine : QWait → Bool) : BookOnly p s (leaveQueues s p mine) := by
  have hbook := BookOnly.modBook p s (f := fun b => { b with inboxWaits := b.inboxWaits.filter (fun w => !mine w) }) (fun _ => ⟨rfl, rfl⟩)
  unfold leaveQueues
  dsimp only
  split <;> exact hbook.trans (.of_units rfl rfl)

theorem bookOnly_quitWaits (s : State) (u : Unit) (g : Nat) : BookOnly u.place s (quitWaits s u g) := by
  unfold quitWaits
  dsimp only
  refine .trans (.trans ?_ (bookOnly_leaveQueues ..)) (.modBook _ _ (by simp))
  split
  · exact (bookOnly_dropJob s u).trans (bookOnly_leaveEngine ..)
  · exact .refl _ s

/-! ## Packets to a supervisor core (R260, R261) -/

/-- No gang of a supervisor thread sleeps. -/
def SupsAwake (s : State) : Prop := ∀ p u, 240 ≤ p.core → s.unit? p = some u → u.book.sleeps = []

theorem wakeSleepers_awake {s : State} {p : Place} (tag : Word) (h : ∀ u, s.unit? p = some u → u.book.sleeps = []) : wakeSleepers s p tag = s := by
  unfold wakeSleepers
  split
  · rfl
  · next u hu => simp [h u hu]

theorem wakeSup_awake {s : State} (die sc : Nat) (tag : Word) (h : SupsAwake s) (n : Nat) : wakeSup s die sc tag n = s := by
  induction n with
  | zero => rfl
  | succ n ih => rw [wakeSup, ih]; exact wakeSleepers_awake tag (fun u hu => h _ u (Nat.le_add_right ..) hu)

theorem enterSupInbox_awake {s : State} (die sc : Nat) (ws : List Word) (h : SupsAwake s) :
    enterSupInbox s die sc ws = s.modSup die sc (fun c => { c with inbox := c.inbox.push ws (nowOf s die) }) :=
  wakeSup_awake (s := s.modSup ..) die sc _ h 4

/-- A packet that wakes nobody changes its die alone. -/
theorem sendPacket_awake {s : State} (die sc : Nat) (pk : Packet) (h : SupsAwake s) :
    (sendPacket s die sc pk).mem = s.mem ∧ (sendPacket s die sc pk).units = s.units := by
  unfold sendPacket
  dsimp only
  split
  · rw [enterSupInbox_awake die sc _ h]; exact ⟨rfl, rfl⟩
  · exact ⟨rfl, rfl⟩

/-! ## Taking a fault (R6, R45, R260, R387) -/

/-- The control state of a unit that takes a fault. -/
def faultCtl (iss : Issue) (f : FaultInfo) (undone : List Nat) (c : Control) : Control :=
  { c with
    run := if f.frozen then .frozen else f.cause.runState, cause := BitVec.ofNat 8 f.cause.code, unfinished := maskOf undone, done := doneAfter iss undone c.done,
    fpc := iss.pc, factive := maskOf iss.lanes ||| (c.done &&& maskOf (lanesIn (fun i => (iss.u.slice i).active) iss.slices)) }

/-- The state with the unit stopped, before the packet goes. -/
def faulted (s : State) (iss : Issue) (f : FaultInfo) (undone : List Nat) : State :=
  (quitWaits s iss.u iss.gang).modUnit iss.p (·.modCtl (faultCtl iss f undone))

/-- Outside transactions nothing is doomed: the unit stops and its packet goes. -/
theorem takeFault_noTx (s : State) {iss : Issue} (f : FaultInfo) (undone : List Nat) (h : iss.u.tx = []) :
    ∃ pk, takeFault s iss f undone = sendPacket (faulted s iss f undone) iss.p.die (packetCore iss.p) pk := by
  have hl : iss.u.txLanes = [] := by simp [Unit.txLanes, h]
  simp only [takeFault, hl, doomLanes_nil, doomedLeave, List.isEmpty_nil, if_true]
  exact ⟨_, rfl⟩

theorem faulted_mem (s : State) (iss : Issue) (f : FaultInfo) (undone : List Nat) : (faulted s iss f undone).mem = s.mem :=
  (bookOnly_quitWaits s iss.u iss.gang).mem

theorem faulted_other (s : State) (iss : Issue) (f : FaultInfo) (undone : List Nat) {q : Place} (hq : q ≠ iss.p) : (faulted s iss f undone).unit? q = s.unit? q :=
  (State.unit?_modUnit_other (by simp) hq).trans ((bookOnly_quitWaits s iss.u iss.gang).other q hq)

/-- The faulting unit: its control state is the fault's, and of the rest only its book has changed. -/
theorem faulted_own (s : State) (iss : Issue) (f : FaultInfo) (undone : List Nat) :
    ∃ g : Book → Book, (∀ b, (g b).retired = b.retired ∧ (g b).sleeps = b.sleeps) ∧
      (faulted s iss f undone).unit? iss.p = (s.unit? iss.p).map (fun u => (u.modBook g).modCtl (faultCtl iss f undone)) := by
  obtain ⟨g, hg, hu⟩ := (bookOnly_quitWaits s iss.u iss.gang).own
  refine ⟨g, hg, (State.unit?_modUnit_same (by simp)).trans ?_⟩
  rw [Issue.p, hu, Option.map_map]; rfl

theorem supsAwake_faulted {s : State} (iss : Issue) (f : FaultInfo) (undone : List Nat) (h : SupsAwake s) : SupsAwake (faulted s iss f undone) := by
  intro q u hq hu
  by_cases hp : q = iss.p
  · subst hp
    obtain ⟨g, hg, ho⟩ := faulted_own s iss f undone
    rw [ho, Option.map_eq_some_iff] at hu
    obtain ⟨v, hv, rfl⟩ := hu
    exact (hg v.book).2.trans (h _ v hq hv)
  · exact h q u hq (faulted_other s iss f undone hp ▸ hu)

/-- Settles O10: outside transactions a fault stops its unit and sends a packet, which changes no unit where no supervisor thread sleeps. -/
theorem takingAFault : Obligations.TakingAFault := by
  intro s iss f ls hu htx hsleep
  have hawake : SupsAwake s := fun p u hp h => hsleep u (State.unit?_mem h) (State.unit?_place h ▸ hp)
  obtain ⟨pk, htake⟩ := takeFault_noTx s f ls htx
  obtain ⟨hmem, hunits⟩ := sendPacket_awake iss.p.die (packetCore iss.p) pk (supsAwake_faulted iss f ls hawake)
  have hunit : ∀ q, (takeFault s iss f ls).unit? q = (faulted s iss f ls).unit? q := fun q => by simp only [htake, State.unit?, hunits]
  obtain ⟨g, hg, hown⟩ := faulted_own s iss f ls
  refine ⟨(iss.u.modBook g).modCtl (faultCtl iss f ls), ?_, rfl, rfl, rfl, rfl, rfl, rfl, rfl, (hg _).1, ?_, fun q hq => ?_⟩
  · rw [hunit, hown, hu]; rfl
  · rw [htake, hmem, faulted_mem]
  · rw [hunit, faulted_other s iss f ls hq]

end Sys2Proof.Machine
end

section
/-! Lane by lane instructions: each is the frame of its form with one body, and what that body leaves unchanged (R7, R31, R32, R36, R41, R193). -/

namespace Sys2Proof.Machine

open Sys2Proof.Spec

/-! ## The body of a lane by lane instruction -/

/-- The values that the lanes of an issue compute from their sources, with their flags. -/
def laneOuts (f : LaneForm) (op : Issue → List Nat → Nat × BitVec 5) (iss : Issue) (s : State) : List (Nat × BitVec 5) :=
  (List.range iss.lanes.length).map (fun k => op iss ((sources s iss f.desc).2.map (fun c => c.getD k 0)))

/-- The flags of all lanes (R41). -/
def flagsOf (rs : List (Nat × BitVec 5)) : BitVec 5 := rs.foldl (fun fl r => fl ||| r.2) 0

/-- The state that an issue's lanes leave: the sources are read, the flags enter fstat, the destination is written. -/
def laneState (f : LaneForm) (op : Issue → List Nat → Nat × BitVec 5) (iss : Issue) (s : State) : State :=
  writeDst (orFlags (sources s iss f.desc).1 iss.p (flagsOf (laneOuts f op iss s))) iss.u f.out iss.lanes ((laneOuts f op iss s).map (·.1))

theorem lanewise_eq_frame (s : State) (f : LaneForm) (op : Issue → List Nat → Nat × BitVec 5) :
    lanewise s { types := f.types, opds := f.srcs } f.out op = frame s f.desc (fun iss s => .ok (laneState f op iss s)) := rfl

/-- An instruction that runs as the lane by lane frame of a form, whose destination is written and not read and has no rule of its own. -/
structure IsLanewise (s : State) (i : Instr) (f : LaneForm) : Prop where
  runs : ∃ op, exec i s = lanewise s { types := f.types, opds := f.srcs } f.out op
  outUnread : f.out.rd = false
  outWritten : f.out.wr = true
  outRule : f.out.rule = .any

theorem isLanewise_cvt {s : State} {d a b : Fld} {f : LaneForm} (h : laneForm s (.cvt d a b) = some f) : IsLanewise s (.cvt d a b) f := by
  change cvtForm s d a b = some f at h
  have hexec : exec (.cvt d a b) s = execCvt d a b s := rfl
  unfold cvtForm at h
  unfold execCvt at hexec
  cases hsrc : cvtSource s a b (curType s) with
  | none => simp [hsrc] at h
  | some w =>
    simp only [hsrc] at h hexec
    split at h
    · next hw =>
      cases h
      have hw' : (decide (w / 16 = 0) && cvtOk (w % 16) (curType s)) = true := by
        simp only [hw.2, Bool.and_true, decide_eq_true_eq]; omega
      rw [if_pos hw'] at hexec
      exact ⟨⟨_, hexec⟩, rfl, rfl, rfl⟩
    · cases h

theorem isLanewise_f4enc {s : State} {d a b : Fld} {f : LaneForm} (h : laneForm s (.f4enc d a b) = some f) : IsLanewise s (.f4enc d a b) f := by
  have hexec : exec (.f4enc d a b) s = execF4enc d a b s := rfl
  change (if curType s = 13 then some (oneForm (some [4, 13]) d [src a .oct, src b .one])
    else if b = 0 then some (oneForm (some [4, 13]) d [src a .one]) else none) = some f at h
  simp only [execF4enc] at hexec
  by_cases ht : curType s = 13
  · simp only [ht, if_true, Option.some.injEq] at h
    subst h
    exact ⟨⟨_, by simpa [oneForm, ht] using hexec⟩, rfl, rfl, rfl⟩
  · by_cases hb : b = 0
    · simp only [ht, hb, if_false, if_true, Option.some.injEq] at h
      subst h hb
      exact ⟨⟨_, by simpa [oneForm, ht] using hexec⟩, rfl, rfl, rfl⟩
    · rw [if_neg ht, if_neg hb] at h; cases h

/-- Every instruction of a lane form runs as the lane by lane frame, which its meaning names through the shared operations; CVT and F4ENC have checks of
their own that their forms fix. -/
theorem isLanewise_of_laneForm {s : State} {i : Instr} {f : LaneForm} (h : laneForm s i = some f) : IsLanewise s i f := by
  cases i
  case cvt d a b => exact isLanewise_cvt h
  case f4enc d a b => exact isLanewise_f4enc h
  all_goals cases h
  all_goals refine ⟨?_, rfl, rfl, rfl⟩
  all_goals dsimp only [exec, execAdd, execSub, execMul, execMad, execMin, execMax, execNeg, execAbs, execAddi, execMuli, execClamp, execMulh,
    execDiv, execRem, execSad, execAddc, execCeq, execCne, execClt, execCle, execCgt, execCge, execCun, execCeqi, execClti, execPand, execPor,
    execPxor, execPnot, execClass, execTstb, execPmov, execAnd, execOr, execXor, execNot, execAndn, execShl, execShr, execSar, execRol, execShli,
    execShri, execSari, execPopc, execClz, execBrev, execBfe, execMov, execMovl, execMovh, execMovs, execBfi, execPrmt, execPack, execAdda,
    execAddai, execSuba, execClta, execCeqa, execCvtr, execRcp, execRsq, execSqrt, execExp2, execLog2, execSinp, execCosp, execTanh, execFlr,
    execCeil, execTrnc, execRint, execFrac, execDot, execScale, execCpsgn, execQdec, execQenc, execF4dec, typedOp, compareRel, compareOp, plainOp,
    logicOp, shiftReg, shiftImm, countOp, addrOp, specialOp, roundOp]
  all_goals exact ⟨_, rfl⟩

/-! ## The lanes' effect -/

/-- A v destination of a checked lane form is an aligned group (R37). -/
theorem out_group {u : Unit} {f : LaneForm} (hc : checks u f.desc = none) (hr : f.out.rule = .any) (hv : isV f.out.f = true) :
    f.out.f.toNat % f.out.sh.words = 0 ∧ f.out.sh ≠ .mask := by
  have hok := operand_ok hc (o := f.out) (by simp [LaneForm.desc])
  simp only [Opd.ok, hr, Bool.and_eq_true, Bool.or_eq_true, decide_eq_true_eq, reduceCtorEq, false_or] at hok
  exact kindOk_group hok.2 hv

/-- Results written: their flags to fstat, their values to an operand in some lanes. -/
def putResults (o : Opd) (ls : List Nat) (rs : List (Nat × BitVec 5)) (r : Regs) : Regs :=
  ({ r with fstat := r.fstat ||| flagsOf rs } : Regs).putLanes o.f o.sh ls (rs.map (·.1))

theorem regsKept_putResults {o : Opd} (ls : List Nat) (rs : List (Nat × BitVec 5)) (r : Regs) (hg : isV o.f = true → o.f.toNat % o.sh.words = 0 ∧ o.sh ≠ .mask) :
    RegsKept o ls r (putResults o ls rs r) :=
  regsKept_trans (regsKept_flags o ls r _) (regsKept_putLanes _ hg _ (fun _ h => h))

theorem withRegs_id (s : State) (p : Place) : withRegs s p (fun r => r) = s := by simp [withRegs, State.modUnit, Unit.modRegs]

theorem orFlags_eq (s : State) (p : Place) (fl : BitVec 5) : orFlags s p fl = withRegs s p (fun r => { r with fstat := r.fstat ||| fl }) := by
  unfold orFlags
  split
  · next h0 => simpa [h0] using (withRegs_id s p).symm
  · rfl

/-- A destination that is no queue register is written with the flags in one change of the registers. -/
theorem writeDst_orFlags (s : State) (u : Unit) {o : Opd} (ls : List Nat) (rs : List (Nat × BitVec 5)) (hq : isQ o.f = false) :
    writeDst (orFlags s u.place (flagsOf rs)) u o ls (rs.map (·.1)) = withRegs s u.place (putResults o ls rs) := by
  simp only [writeDst, hq, Bool.false_eq_true, if_false, orFlags_eq]
  exact State.modUnit_modUnit s u.place _ (by simp)

theorem bookOnly_sources (s : State) (iss : Issue) (d : Desc) : BookOnly iss.p s (sources s iss d).1 := bookOnly_readAllOpds ..

/-- Reading sources that are no queue registers changes nothing. -/
theorem sources_noQueues (s : State) (iss : Issue) {d : Desc} (hq : NoQueues d) : (sources s iss d).1 = s := by
  have hsrc : ∀ o ∈ d.opds, o.rd = true → isQ o.f = false := fun o ho hrd => by
    by_contra h
    simpa [hrd] using (hq o ho (by simpa using h)).1
  rw [sources, readAllOpds_plain s iss.u _ iss.lanes hsrc]

/-- Without queue registers the lanes change the registers of their unit alone. -/
theorem laneState_noQueues {s : State} {i : Instr} {f : LaneForm} (hi : IsLanewise s i f) (op : Issue → List Nat → Nat × BitVec 5) (iss : Issue) (t : State)
    (hq : NoQueues f.desc) : laneState f op iss t = withRegs t iss.p (putResults f.out iss.lanes (laneOuts f op iss t)) := by
  have hout : isQ f.out.f = false := by
    by_contra h
    simpa [hi.outWritten] using (hq f.out (by simp [LaneForm.desc]) (by simpa using h)).2
  rw [laneState, sources_noQueues t iss hq]
  exact writeDst_orFlags t iss.u iss.lanes _ hout

/-- Memory is as it was, and of the registers of the unit at p at most the operand o in the lanes ls and fstat have changed. -/
structure RegsFrame (o : Opd) (ls : List Nat) (p : Place) (s t : State) : Prop where
  mem : t.mem = s.mem
  regs : ∀ u, s.unit? p = some u → ∃ v, t.unit? p = some v ∧ RegsKept o ls u.regs v.regs

theorem BookOnly.regsFrame {p : Place} {s t : State} (h : BookOnly p s t) (o : Opd) (ls : List Nat) : RegsFrame o ls p s t where
  mem := h.mem
  regs u hu := by
    obtain ⟨g, _, ho⟩ := h.own
    exact ⟨u.modBook g, by rw [ho, hu]; rfl, regsKept_refl o ls u.regs⟩

theorem RegsFrame.trans {o : Opd} {ls : List Nat} {p : Place} {s t r : State} (h : RegsFrame o ls p s t) (h' : RegsFrame o ls p t r) : RegsFrame o ls p s r where
  mem := h'.mem.trans h.mem
  regs u hu := by
    obtain ⟨v, hv, hk⟩ := h.regs u hu
    obtain ⟨w, hw, hk'⟩ := h'.regs v hv
    exact ⟨w, hw, regsKept_trans hk hk'⟩

theorem regsFrame_withRegs {o : Opd} {ls : List Nat} (p : Place) (s : State) {g : Regs → Regs} (hg : ∀ r, RegsKept o ls r (g r)) : RegsFrame o ls p s (withRegs s p g) where
  mem := rfl
  regs u hu := ⟨u.modRegs g, by rw [withRegs, State.unit?_modUnit_same (by simp), hu]; rfl, hg u.regs⟩

theorem regsFrame_orFlags (o : Opd) (ls : List Nat) (s : State) (p : Place) (fl : BitVec 5) : RegsFrame o ls p s (orFlags s p fl) := by
  rw [orFlags_eq]
  exact regsFrame_withRegs p s (fun r => regsKept_flags o ls r fl)

theorem bookOnly_writeDst_queue (s : State) (u : Unit) {o : Opd} (ls vs : List Nat) (hq : isQ o.f = true) : BookOnly u.place s (writeDst s u o ls vs) := by
  rw [writeDst, if_pos hq]
  cases u.chanOf o.f with
  | none => exact .refl ..
  | some c => exact bookOnly_chanMod s u c _

/-- With queue registers too: pops and pushes move words of channels and leave the registers alone. -/
theorem regsFrame_laneState {s : State} {i : Instr} {f : LaneForm} (hi : IsLanewise s i f) (op : Issue → List Nat → Nat × BitVec 5) (iss : Issue) (t : State)
    (hc : checks iss.u f.desc = none) : RegsFrame f.out iss.lanes iss.p t (laneState f op iss t) := by
  refine .trans ((bookOnly_sources t iss f.desc).regsFrame f.out iss.lanes) ?_
  cases hq : isQ f.out.f with
  | false =>
    rw [laneState, Issue.p, writeDst_orFlags _ iss.u iss.lanes _ hq]
    exact regsFrame_withRegs _ _ (fun r => regsKept_putResults iss.lanes _ r (out_group hc hi.outRule))
  | true => exact .trans (regsFrame_orFlags ..) ((bookOnly_writeDst_queue _ iss.u iss.lanes _ hq).regsFrame ..)

/-! ## Issues that meet tokens, and uniform ones -/

/-- An instruction that runs lane by lane, with the tokens that it meets. -/
theorem frame_mayRun {s : State} {d : Desc} {iss : Issue} (body : Issue → State → Run) (h : MayRun s d iss) (hu : allUniform iss.u d.opds = false)
    (ha : iss.lanes ≠ []) : frame s d body = .next (settleRun iss d (withTokens s iss d (fun s => issueBody s iss d body))) := by
  have hl : iss.lanes.isEmpty = false := by simpa using ha
  simp only [frame, h.issue, h.checked, h.settled, h.free, Bool.not_true, doomed_none h, Bool.false_eq_true, if_false, doomLanes_nil, List.contains_nil,
    Bool.not_false, List.filter_true, hu, Bool.false_and, hl]

/-- An instruction that reads completed tokens acts on the state in which it has met them (R193). -/
theorem withTokens_due {s t : State} {iss : Issue} {d : Desc} {run : State → Run} (h : dueTokens iss d ≠ []) (hr : run (meetTokens s iss d) = .ok t) :
    withTokens s iss d run = .ok t := by
  have hd : (dueTokens iss d).isEmpty = false := by simpa using h
  simp [withTokens, hd, hr]

theorem isQ_of_isUniform {f : Fld} (h : isUniform f = true) : isQ f = false := by
  simp only [isUniform, isK, isQ, Bool.or_eq_true, decide_eq_true_eq, decide_eq_false_iff_not] at h ⊢
  omega

/-- A uniform instruction names no queue register (R28). -/
theorem noQueues_of_allUniform {u : Unit} {d : Desc} (h : allUniform u d.opds = true) : NoQueues d := by
  simp only [allUniform, Bool.and_eq_true, List.all_eq_true] at h
  intro o ho hq
  exact absurd hq (by simp [isQ_of_isUniform (h.2 o ho)])

/-- A lane form that runs lane by lane ends with the completion of its gang. -/
theorem ends_laneForm {f : LaneForm} {iss : Issue} (t : State) (h : allUniform iss.u f.desc.opds = false) : ends iss f.desc t = complete t iss false := by
  rw [ends, useUniform_other (usesUniform_lanes h)]; rfl

/-! ## The four ways of executing one -/

theorem exec_laneForm_plain {s : State} {i : Instr} {f : LaneForm} {iss : Issue} (hf : laneForm s i = some f) (h : RunsPlain s f.desc iss) :
    ∃ g, exec i s = .next (complete (withRegs s iss.p g) iss false) ∧ RegsKept f.out iss.lanes iss.u.regs (g iss.u.regs) := by
  have hi := isLanewise_of_laneForm hf
  obtain ⟨op, hexec⟩ := hi.runs
  rw [hexec]
  exact lanewise_completes op h hi.outUnread hi.outWritten hi.outRule

/-- The state in which the lanes act once their queue registers can move their words. -/
theorem exec_laneForm_queued {s : State} {i : Instr} {f : LaneForm} {iss : Issue} (hf : laneForm s i = some f) (h : RunsQueued s f.desc iss) :
    ∃ t, exec i s = .next (complete t iss false) ∧ RegsFrame f.out iss.lanes iss.p s t := by
  have hi := isLanewise_of_laneForm hf
  obtain ⟨op, hexec⟩ := hi.runs
  have hu : allUniform iss.u f.desc.opds = false := h.perLane.resolve_right Bool.false_ne_true
  let uses := queueUses iss.u f.desc.opds iss.lanes.length
  let s0 := if uses.isEmpty then s else queueUnblock s iss.u iss.gang uses
  have hs0 : BookOnly iss.p s s0 := by
    dsimp only [s0]
    split
    · exact .refl _ s
    · exact bookOnly_queueUnblock ..
  refine ⟨laneState f op iss s0, ?_, (hs0.regsFrame ..).trans (regsFrame_laneState hi op iss s0 h.checked)⟩
  rw [hexec, lanewise_eq_frame, frame_runs _ h.toRuns h.perLane (.inl h.active), issueBody_ready (t := laneState f op iss s0) _ h.active h.admitted h.ready rfl,
    settle_ok rfl, ends_laneForm _ hu]

theorem exec_laneForm_passed {s : State} {i : Instr} {f : LaneForm} {iss : Issue} (hf : laneForm s i = some f) (h : RunsUniform s f.desc iss)
    (hs : iss.shared.isSome = true ∨ iss.lanes = []) : exec i s = .next (complete (countPass s iss) iss false) := by
  obtain ⟨op, hexec⟩ := (isLanewise_of_laneForm hf).runs
  rw [hexec, lanewise_eq_frame, frame_shared _ h rfl hs]; rfl

theorem exec_laneForm_once {s : State} {i : Instr} {f : LaneForm} {iss : Issue} (hf : laneForm s i = some f) (h : RunsUniform s f.desc iss)
    (hs : iss.shared = none) (hl : iss.lanes ≠ []) :
    ∃ g, exec i s = .next (ends iss f.desc (ranOnce (withRegs s iss.p g) iss 0)) ∧ RegsKept f.out (iss.uniLane f.desc) iss.u.regs (g iss.u.regs) := by
  have hi := isLanewise_of_laneForm hf
  obtain ⟨op, hexec⟩ := hi.runs
  let j : Issue := { iss with lanes := iss.uniLane f.desc }
  have hstate := laneState_noQueues hi op j s (noQueues_of_allUniform h.uniform)
  refine ⟨putResults f.out j.lanes (laneOuts f op j s), ?_, regsKept_putResults _ _ _ (out_group h.checked hi.outRule)⟩
  rw [hexec, lanewise_eq_frame, frame_uniform h rfl hs hl (congrArg Except.ok hstate)]; rfl

theorem exec_laneForm_tokens {s : State} {i : Instr} {f : LaneForm} {iss : Issue} (hf : laneForm s i = some f) (h : MayRun s f.desc iss)
    (hd : dueTokens iss f.desc ≠ []) (hq : NoQueues f.desc) (hu : allUniform iss.u f.desc.opds = false) (hl : iss.lanes ≠ []) :
    ∃ g, exec i s = .next (complete (withRegs (meetTokens s iss f.desc) iss.p g) iss false) ∧ RegsKept f.out iss.lanes iss.u.regs (g iss.u.regs) := by
  have hi := isLanewise_of_laneForm hf
  obtain ⟨op, hexec⟩ := hi.runs
  have hstate := laneState_noQueues hi op iss (meetTokens s iss f.desc) hq
  refine ⟨putResults f.out iss.lanes (laneOuts f op iss (meetTokens s iss f.desc)), ?_, regsKept_putResults _ _ _ (out_group h.checked hi.outRule)⟩
  have hbody := (issueBody_plain (s := meetTokens s iss f.desc) (iss := iss) (fun iss s => .ok (laneState f op iss s)) hq).trans (congrArg Except.ok hstate)
  rw [hexec, lanewise_eq_frame, frame_mayRun _ h hu hl, withTokens_due hd hbody, settle_ok rfl, ends_laneForm _ hu]

/-- Settles O14: every lane form is the lane by lane frame, in each of the four ways in which a gang may execute it. -/
theorem laneInstructionsComplete : Obligations.LaneInstructionsComplete := by
  refine ⟨fun s i f iss hf h => exec_laneForm_plain hf h, fun s i f iss hf h hu => ?_, fun s i f iss hf h => ⟨exec_laneForm_passed hf h, exec_laneForm_once hf h⟩,
    fun s i f iss hf h hd hq hu hl => exec_laneForm_tokens hf h hd hq hu hl⟩
  obtain ⟨t, hexec, hframe⟩ := exec_laneForm_queued hf h
  obtain ⟨u, hunit, hkept⟩ := hframe.regs iss.u hu
  exact ⟨t, u, hexec, hunit, hkept, hframe.mem⟩

end Sys2Proof.Machine
end

section
/-! What completing an instruction changes: the fields of the unit that it keeps, and the next pc of a slice without stack entries (R18, R43, R146). -/

namespace Sys2Proof.Machine

/-! ## One slice (R138, R142) -/

@[simp] theorem Slice.popTop_live (sl : Slice) (forced : Bool) : (sl.popTop forced).live = sl.live := by
  unfold Slice.popTop
  split
  · rfl
  · split <;> rfl

@[simp] theorem Slice.settle_live (n : Nat) (sl : Slice) : (sl.settle n).live = sl.live := by
  induction n generalizing sl with
  | zero => rfl
  | succ n ih =>
    have hpop : ∀ forced, ((sl.popTop forced).settle n).live = sl.live := fun forced => (ih _).trans (sl.popTop_live forced)
    unfold Slice.settle
    split
    · rfl
    · split
      · split
        · rfl
        · exact hpop true
      · split
        · split
          · exact hpop false
          · rfl
        · rfl

@[simp] theorem Slice.arrive_live (sl : Slice) : sl.arrive.live = sl.live := Slice.settle_live _ sl

@[simp] theorem Slice.loopEnd_live (sl : Slice) (a : DWord) : (sl.loopEnd a).live = sl.live := by
  unfold Slice.loopEnd
  split <;> rfl

@[simp] theorem Slice.next_live (sl : Slice) : sl.next.live = sl.live := Slice.loopEnd_live ..

/-- A slice without reconvergence entries has nothing to act on at its arrival. -/
theorem Slice.arrive_noEntries {sl : Slice} (h : sl.rstack = []) : sl.arrive = sl := by
  simp [Slice.arrive, h, Slice.settle]

/-- A slice outside every loop goes to the following instruction. -/
theorem Slice.next_noLoops {sl : Slice} (h : sl.lstack = []) : sl.next = { sl with pc := sl.pc + 4 } := by
  simp [Slice.next, Slice.loopEnd, h, endOfBody]

/-! ## Writing one slice of a unit -/

theorem setAt_eq_modAt {α : Type} (xs : List α) (i : Nat) (y : α) : setAt xs i y = modAt xs i (fun _ => y) := by
  induction xs generalizing i with
  | nil => rfl
  | cons x xs ih => cases i with
    | zero => rfl
    | succ i => exact congrArg (x :: ·) (ih i)

def Unit.putSlice (u : Unit) (i : Nat) (sl : Slice) : Unit := { u with slices := setAt u.slices i sl }

theorem Unit.slice_putSlice (u : Unit) (i j : Nat) (sl : Slice) :
    (u.putSlice i sl).slice j = if j = i ∧ i < u.slices.length then sl else u.slice j := by
  simp only [Unit.slice, Unit.putSlice, setAt_eq_modAt, getD_modAt]

theorem Unit.slice_putSlice_other (u : Unit) {i j : Nat} (sl : Slice) (h : j ≠ i) : (u.putSlice i sl).slice j = u.slice j := by
  simp [Unit.slice_putSlice, h]

/-- A live slice is one of the unit's. -/
theorem Unit.lt_of_live {u : Unit} {i : Nat} (h : (u.slice i).live ≠ 0) : i < u.slices.length := by
  by_contra hlt
  exact h (by simp [Unit.slice, List.getElem?_eq_none (Nat.le_of_not_lt hlt), blankSlice])

theorem Unit.slice_putSlice_live {u : Unit} {i : Nat} (sl : Slice) (h : (u.slice i).live ≠ 0) : (u.putSlice i sl).slice i = sl := by
  simp [Unit.slice_putSlice, Unit.lt_of_live h]

/-! ## What sequencing keeps -/

/-- From u to v at most the pcs, stacks, active lanes and groups of the slices have changed, with parts of the control state and of the book: the
identity, the registers, the transactions, the tickets, the live lanes, the run state and the retired count are as they were. -/
structure Sequenced (u v : Unit) : Prop where
  place : v.place = u.place
  ident : v.ident = u.ident
  regs : v.regs = u.regs
  tx : v.tx = u.tx
  tickets : v.tickets = u.tickets
  run : v.ctl.run = u.ctl.run
  retired : v.book.retired = u.book.retired
  live : ∀ i, (v.slice i).live = (u.slice i).live

theorem Sequenced.refl (u : Unit) : Sequenced u u := ⟨rfl, rfl, rfl, rfl, rfl, rfl, rfl, fun _ => rfl⟩

theorem Sequenced.trans {u v w : Unit} (h : Sequenced u v) (h' : Sequenced v w) : Sequenced u w :=
  ⟨h'.place.trans h.place, h'.ident.trans h.ident, h'.regs.trans h.regs, h'.tx.trans h.tx, h'.tickets.trans h.tickets, h'.run.trans h.run,
    h'.retired.trans h.retired, fun i => (h'.live i).trans (h.live i)⟩

theorem Sequenced.foldl {α : Type} {f : Unit → α → Unit} (hf : ∀ u x, Sequenced u (f u x)) (xs : List α) (u : Unit) : Sequenced u (xs.foldl f u) := by
  induction xs generalizing u with
  | nil => exact .refl u
  | cons x xs ih => exact (hf u x).trans (ih _)

theorem sequenced_putSlice {u : Unit} {i : Nat} {sl : Slice} (h : sl.live = (u.slice i).live) : Sequenced u (u.putSlice i sl) where
  place := rfl
  ident := rfl
  regs := rfl
  tx := rfl
  tickets := rfl
  run := rfl
  retired := rfl
  live j := by
    rw [Unit.slice_putSlice]
    split
    · next hj => rw [hj.1, h]
    · rfl

theorem sequenced_modCtl (u : Unit) {f : Control → Control} (h : (f u.ctl).run = u.ctl.run) : Sequenced u (u.modCtl f) :=
  ⟨rfl, rfl, rfl, rfl, rfl, h, rfl, fun _ => rfl⟩

theorem sequenced_modBook (u : Unit) {f : Book → Book} (h : (f u.book).retired = u.book.retired) : Sequenced u (u.modBook f) :=
  ⟨rfl, rfl, rfl, rfl, rfl, rfl, h, fun _ => rfl⟩

/-! ## The slices of the gang advance (R142, R222) -/

theorem Unit.toTxe_eq (u : Unit) (i : Nat) :
    u.toTxe i = if (u.slice i).live ≠ 0 ∧ (u.slice i).active = 0 ∧ u.doomedIn i ≠ 0 then
      (u.putSlice i { u.slice i with pc := u.txeOf i, atRegang := false }).modCtl
        (fun c => { c with done := c.done &&& ~~~(maskOf [4 * i, 4 * i + 1, 4 * i + 2, 4 * i + 3]) })
    else u := rfl

theorem sequenced_toTxe (u : Unit) (i : Nat) : Sequenced u (u.toTxe i) := by
  rw [Unit.toTxe_eq]
  split
  · refine .trans ?_ (sequenced_modCtl _ rfl)
    exact sequenced_putSlice rfl
  · exact .refl u

theorem Unit.slice_toTxe_other (u : Unit) {i j : Nat} (h : j ≠ i) : (u.toTxe i).slice j = u.slice j := by
  rw [Unit.toTxe_eq]
  split
  · exact u.slice_putSlice_other _ h
  · rfl

/-- A slice once it has its next pc, before its arrival test; old is the slice as it was at the issue. -/
def Slice.passed (sl old : Slice) (moved : Bool) : Slice :=
  { (if sl.active = 0 ∧ old.active ≠ 0 then sl else if moved then sl.loopEnd old.pc else sl.next) with rext := [], lext := [] }

/-- The slice at the following instruction, with no entries beyond the depths of its stacks. -/
def Slice.following (sl : Slice) : Slice := { sl with pc := sl.pc + 4, rext := [], lext := [] }

@[simp] theorem Slice.passed_live (sl old : Slice) (moved : Bool) : (sl.passed old moved).live = sl.live := by
  unfold Slice.passed
  dsimp only
  split_ifs <;> simp

theorem Slice.passed_noLoops {sl : Slice} (old : Slice) (ha : sl.active ≠ 0) (hl : sl.lstack = []) : sl.passed old false = sl.following := by
  have hstays : ¬(sl.active = 0 ∧ old.active ≠ 0) := fun h => ha h.1
  simp only [Slice.passed, if_neg hstays, Bool.false_eq_true, if_false, Slice.next_noLoops hl, Slice.following]

theorem advanceSlice_dead (iss : Issue) (moved : Bool) {u : Unit} {i : Nat} (h : (u.slice i).live = 0) : advanceSlice iss moved u i = u := if_pos h

/-- A live slice that advances goes to the TXE of its doomed lanes, or arrives. -/
theorem advanceSlice_live (iss : Issue) (moved : Bool) {u : Unit} {i : Nat} (h : (u.slice i).live ≠ 0) :
    let sl := (u.slice i).passed (iss.u.slice i) moved
    advanceSlice iss moved u i = if sl.active = 0 ∧ (u.putSlice i sl).doomedIn i ≠ 0 then (u.putSlice i sl).toTxe i else (u.putSlice i sl).putSlice i sl.arrive :=
  if_neg h

theorem sequenced_advanceSlice (iss : Issue) (moved : Bool) (u : Unit) (i : Nat) : Sequenced u (advanceSlice iss moved u i) := by
  by_cases h : (u.slice i).live = 0
  · rw [advanceSlice_dead iss moved h]; exact .refl u
  · rw [advanceSlice_live iss moved h]
    have hpass : Sequenced u (u.putSlice i ((u.slice i).passed (iss.u.slice i) moved)) := sequenced_putSlice (Slice.passed_live ..)
    refine hpass.trans ?_
    split
    · exact sequenced_toTxe _ i
    · exact sequenced_putSlice (by rw [Unit.slice_putSlice_live _ h, Slice.arrive_live])

theorem advanceSlice_other (iss : Issue) (moved : Bool) (u : Unit) {i j : Nat} (hj : j ≠ i) : (advanceSlice iss moved u i).slice j = u.slice j := by
  by_cases h : (u.slice i).live = 0
  · rw [advanceSlice_dead iss moved h]
  · rw [advanceSlice_live iss moved h]
    split
    · rw [Unit.slice_toTxe_other _ hj, Unit.slice_putSlice_other _ _ hj]
    · rw [Unit.slice_putSlice_other _ _ hj, Unit.slice_putSlice_other _ _ hj]

/-- A live slice with an active lane and without stack entries. -/
structure Slice.Plain (sl : Slice) : Prop where
  live : sl.live ≠ 0
  active : sl.active ≠ 0
  noEntries : sl.rstack = []
  noLoops : sl.lstack = []

theorem advanceSlice_plain (iss : Issue) {u : Unit} {i : Nat} (h : (u.slice i).Plain) :
    (advanceSlice iss false u i).slice i = (u.slice i).following := by
  rw [advanceSlice_live iss false h.live, Slice.passed_noLoops _ h.active h.noLoops, if_neg (fun hd => h.active hd.1),
    Unit.slice_putSlice_live _ (by rw [Unit.slice_putSlice_live _ h.live]; exact h.live)]
  exact Slice.arrive_noEntries h.noEntries

theorem advanceSlices_other (iss : Issue) (moved : Bool) {is : List Nat} (u : Unit) {j : Nat} (h : j ∉ is) :
    (is.foldl (advanceSlice iss moved) u).slice j = u.slice j := by
  induction is generalizing u with
  | nil => rfl
  | cons i is ih =>
    rw [List.mem_cons, not_or] at h
    exact (ih _ h.2).trans (advanceSlice_other iss moved u h.1)

theorem advanceSlices_plain (iss : Issue) {is : List Nat} {u : Unit} {i : Nat} (hi : i ∈ is) (hd : is.Nodup) (h : (u.slice i).Plain) :
    (is.foldl (advanceSlice iss false) u).slice i = (u.slice i).following := by
  induction is generalizing u with
  | nil => cases hi
  | cons j is ih =>
    rw [List.nodup_cons] at hd
    rw [List.foldl_cons]
    by_cases hij : i = j
    · subst hij
      rw [advanceSlices_other iss false _ hd.1, advanceSlice_plain iss h]
    · have hkeep := advanceSlice_other iss false u hij
      rw [ih ((List.mem_cons.mp hi).resolve_left hij) hd.2 (hkeep ▸ h), hkeep]

/-! ## Gangs and strands part (R18, R31) -/

/-- From u to v the slices have at most been grouped anew. -/
structure Regrouped (u v : Unit) : Prop extends Sequenced u v where
  pc : ∀ i, (v.slice i).pc = (u.slice i).pc
  active : ∀ i, (v.slice i).active = (u.slice i).active

theorem Regrouped.refl (u : Unit) : Regrouped u u := ⟨.refl u, fun _ => rfl, fun _ => rfl⟩

theorem Regrouped.trans {u v w : Unit} (h : Regrouped u v) (h' : Regrouped v w) : Regrouped u w :=
  ⟨h.toSequenced.trans h'.toSequenced, fun i => (h'.pc i).trans (h.pc i), fun i => (h'.active i).trans (h.active i)⟩

/-- Two slices with the same lanes at the same pc. -/
structure Slice.SameLanes (sl sl' : Slice) : Prop where
  live : sl'.live = sl.live
  pc : sl'.pc = sl.pc
  active : sl'.active = sl.active

theorem sameLanes_regroup (sl : Slice) (gang strand : Nat) : sl.SameLanes (if sl.live = 0 then sl else { sl with gang := gang, strand := strand }) := by
  split <;> exact ⟨rfl, rfl, rfl⟩

/-- Writing groups into the slices, skip records and book of a unit. -/
theorem regrouped_of_slices {u : Unit} {ss : List Slice} {ctl : Control} {book : Book} (hr : ctl.run = u.ctl.run) (hb : book.retired = u.book.retired)
    (hs : ∀ i, (u.slice i).SameLanes (ss.getD i blankSlice)) : Regrouped u { u with slices := ss, ctl := ctl, book := book } where
  place := rfl
  ident := rfl
  regs := rfl
  tx := rfl
  tickets := rfl
  run := hr
  retired := hb
  live i := (hs i).live
  pc i := (hs i).pc
  active i := (hs i).active

theorem regrouped_normalise (u : Unit) : Regrouped u u.normalise := by
  refine regrouped_of_slices rfl rfl (fun i => ?_)
  rw [Unit.slice, List.getD_eq_getElem?_getD, List.getD_eq_getElem?_getD, List.getElem?_map]
  cases u.slices[i]? with
  | none => exact ⟨rfl, rfl, rfl⟩
  | some sl => exact sameLanes_regroup sl _ _

theorem regrouped_split (u : Unit) (g : Nat) : Regrouped u (u.split g) := by
  unfold Unit.split
  dsimp only
  split
  · exact .refl u
  · refine .trans ?_ (regrouped_normalise _)
    refine regrouped_of_slices rfl rfl (fun i => ?_)
    rw [Unit.slice, List.getD_eq_getElem?_getD, List.getD_eq_getElem?_getD, List.getElem?_map, List.getElem?_zipIdx]
    cases u.slices[i]? with
    | none => exact ⟨rfl, rfl, rfl⟩
    | some sl => exact sameLanes_regroup sl _ _

theorem regrouped_pruneDone (u : Unit) : Regrouped u u.pruneDone := by
  unfold Unit.pruneDone
  split
  · exact .refl u
  · exact ⟨sequenced_modBook u rfl, fun _ => rfl, fun _ => rfl⟩

/-! ## Completing (R401) -/

/-- The unit whose gang has completed one instruction more, with nothing of that instruction left undone, stalled or held. -/
def retireOne (iss : Issue) (u : Unit) : Unit :=
  { u with
    ctl := { u.ctl with done := u.ctl.done &&& ~~~(laneMaskOf iss.slices), unfinished := u.ctl.unfinished &&& ~~~(laneMaskOf iss.slices),
                        skipBp := u.ctl.skipBp.filter (fun x => decide (x.1 ≠ iss.gang)) },
    book := { u.book with retired := u.book.retired + 1, stall := smDel u.book.stall iss.gang, gwait := smDel u.book.gwait iss.gang,
                          modeSince := smDel u.book.modeSince iss.gang, promoted := u.book.promoted.filter (fun g => decide (g ≠ iss.gang)),
                          yielded := u.book.yielded.filter (fun g => decide (g ≠ iss.gang)), held := u.book.held.filter (fun h => decide (h.gang ≠ iss.gang)) } }

/-- Completing is: the slices advance, the instruction counts as retired, and the gang splits where the pcs differ. -/
theorem finish_eq (iss : Issue) (moved : Bool) (u : Unit) :
    finish iss moved u = ((retireOne iss (iss.slices.foldl (advanceSlice iss moved) u)).split iss.gang).normalise.pruneDone := rfl

theorem sequenced_advanceSlices (iss : Issue) (moved : Bool) (u : Unit) : Sequenced u (iss.slices.foldl (advanceSlice iss moved) u) :=
  .foldl (sequenced_advanceSlice iss moved) iss.slices u

theorem regrouped_finish (iss : Issue) (moved : Bool) (u : Unit) :
    Regrouped (retireOne iss (iss.slices.foldl (advanceSlice iss moved) u)) (finish iss moved u) :=
  finish_eq iss moved u ▸ ((regrouped_split _ _).trans (regrouped_normalise _)).trans (regrouped_pruneDone _)

theorem finish_place (iss : Issue) (moved : Bool) (u : Unit) : (finish iss moved u).place = u.place :=
  (regrouped_finish iss moved u).place.trans (sequenced_advanceSlices iss moved u).place

theorem finish_retired (iss : Issue) (moved : Bool) (u : Unit) : (finish iss moved u).book.retired = u.book.retired + 1 :=
  (regrouped_finish iss moved u).retired.trans (congrArg (· + 1) (sequenced_advanceSlices iss moved u).retired)

theorem finish_plain (iss : Issue) {u : Unit} {i : Nat} (hi : i ∈ iss.slices) (hd : iss.slices.Nodup) (h : (u.slice i).Plain) :
    ((finish iss false u).slice i).pc = (u.slice i).pc + 4 ∧ ((finish iss false u).slice i).active = (u.slice i).active := by
  have hadv := advanceSlices_plain iss hi hd h
  have hreg := regrouped_finish iss false u
  exact ⟨(hreg.pc i).trans (congrArg Slice.pc hadv :), (hreg.active i).trans (congrArg Slice.active hadv :)⟩

/-- Settles O12: the slices of the gang advance, one instruction is counted, and the gang is grouped anew; each keeps the rest of the unit. -/
theorem completingAnInstruction : Obligations.CompletingAnInstruction := by
  intro s iss u moved hu
  have hadv := sequenced_advanceSlices iss moved u
  have hreg := regrouped_finish iss moved u
  refine ⟨finish iss moved u, ?_, finish_retired iss moved u, hreg.regs.trans hadv.regs, hreg.ident.trans hadv.ident, hreg.tickets.trans hadv.tickets,
    hreg.tx.trans hadv.tx, hreg.run.trans hadv.run, fun i => (hreg.live i).trans (hadv.live i), ?_, fun p hp => ?_, rfl⟩
  · exact (State.unit?_modUnit_same (finish_place iss moved)).trans (congrArg (Option.map _) hu)
  · rintro i hi hd hlive hactive hr hl rfl
    exact finish_plain iss hi hd ⟨hlive, hactive, hr, hl⟩
  · exact State.unit?_modUnit_other (finish_place iss moved) hp

end Sys2Proof.Machine
end
section
/-! The two directions of the encoding (R56 to R60, R348, R351): a word is its fields, so that the decoder reads each operand back, and a word that
decodes has no bit that its instruction does not give. -/

namespace Sys2Proof

open Sys2Proof.Spec

/-! ## Fields of a word as digits of its number -/

theorem toNat_append_eq_add {m n : Nat} (x : BitVec m) (y : BitVec n) : (x ++ y).toNat = x.toNat * 2 ^ n + y.toNat := by
  rw [BitVec.toNat_append, ← Nat.shiftLeft_add_eq_or_of_lt y.isLt, Nat.shiftLeft_eq]

theorem toNat_field (w : Word) (lo n : Nat) : (field w lo n).toNat = w.toNat / 2 ^ lo % 2 ^ n := by
  simp [field, Nat.shiftRight_eq_div_pow]

theorem field_eq_iff {w : Word} {lo n : Nat} {x : BitVec n} : field w lo n = x ↔ w.toNat / 2 ^ lo % 2 ^ n = x.toNat := by
  rw [← BitVec.toNat_inj, toNat_field]

/-- The numbers of the words of the forms A, W and J and of a micro-word (R56, R348). -/
theorem toNat_forms :
    (∀ op d a b, (wordA op d a b).toNat = op.toNat * 2 ^ 24 + d.toNat * 2 ^ 16 + a.toNat * 2 ^ 8 + b.toNat) ∧
    (∀ op d i, (wordW op d i).toNat = op.toNat * 2 ^ 24 + d.toNat * 2 ^ 16 + i.toNat) ∧
    (∀ op off, (wordJ op off).toNat = op.toNat * 2 ^ 24 + off.toNat) ∧
    (∀ op x, (wordM op x).toNat = op.toNat * 2 ^ 26 + x.toNat) := by
  refine ⟨fun op d a b => ?_, fun op d i => ?_, fun op off => ?_, fun op x => ?_⟩ <;>
    simp only [wordA, wordW, wordJ, wordM, toNat_append_eq_add] <;> omega

theorem fields_wordA (op d a b : BitVec 8) : field (wordA op d a b) 16 8 = d ∧ field (wordA op d a b) 8 8 = a ∧ field (wordA op d a b) 0 8 = b := by
  simp only [field_eq_iff, toNat_forms]; omega

/-- Neighbouring operand fields together. -/
theorem wideFields_wordA (op d a b : BitVec 8) :
    field (wordA op d a b) 0 24 = d ++ a ++ b ∧ field (wordA op d a b) 8 16 = d ++ a ∧ field (wordA op d a b) 0 16 = a ++ b := by
  simp only [field_eq_iff, toNat_forms, toNat_append_eq_add]; omega

theorem fields_wordW (op d : BitVec 8) (i : BitVec 16) : field (wordW op d i) 16 8 = d ∧ field (wordW op d i) 0 16 = i := by
  simp only [field_eq_iff, toNat_forms]; omega

theorem field_wordJ (op : BitVec 8) (off : BitVec 24) : field (wordJ op off) 0 24 = off := by
  simp only [field_eq_iff, toNat_forms]; omega

theorem fields_wordM (op : BitVec 6) (x : BitVec 26) : field (wordM op x) 26 6 = op ∧ field (wordM op x) 0 26 = x := by
  simp only [field_eq_iff, toNat_forms]; omega

/-! ## The map of R59 by opcode -/

/-- The entry of the map at row r and column n, read for a word. -/
def mapEntry (r n : Nat) (w : Word) : Option Instr :=
  match r with
  | 0 => decodeRow0 n w
  | 1 => decodeRow1 n w
  | 2 => decodeRow2 n w
  | 3 => decodeRow3 n w
  | 4 => decodeRow4 n w
  | 5 => decodeRow5 n w
  | 6 => decodeRow6 n w
  | 7 => decodeRow7 n w
  | 8 => decodeRow8 n w
  | 9 => decodeRow9 n w
  | 10 => decodeRowA n w
  | 11 => decodeRowB n w
  | 12 => decodeRowC n w
  | 13 => decodeRowD n w
  | 14 => decodeRowE n w
  | 15 => decodeRowF n w
  | _ => none

/-- The decoder reads the entry of the word's opcode. -/
theorem decode_eq_mapEntry {w : Word} {op : BitVec 8} (h : opcodeOf w = op) : decode w = mapEntry (op.toNat / 16) (op.toNat % 16) w := by
  have hrow : (field w 28 4).toNat = op.toNat / 16 := by rw [← h]; simp only [opcodeOf, toNat_field]; omega
  have hcol : (field w 24 4).toNat = op.toNat % 16 := by rw [← h]; simp only [opcodeOf, toNat_field]; omega
  rw [← hrow, ← hcol]; rfl

/-! ## What is encoded decodes -/

theorem onlyIf_of {c : Bool} {i j : Instr} (hc : c = true) (h : i = j) : onlyIf c i = some j := by
  rw [hc, h]; rfl

/-- An entry with three operands. -/
theorem decode_threeOperands {op d a b : BitVec 8} {mk : Fld → Fld → Fld → Instr}
    (h : ∀ w, mapEntry (op.toNat / 16) (op.toNat % 16) w = some (mk (field w 16 8) (field w 8 8) (field w 0 8))) : decode (wordA op d a b) = some (mk d a b) := by
  obtain ⟨hd, ha, hb⟩ := fields_wordA op d a b
  rw [decode_eq_mapEntry (Laws.opcodeOf_wordA ..), h, hd, ha, hb]

/-- An entry with an operand and a 16-bit immediate. -/
theorem decode_wideImmediate {op d : BitVec 8} {x : BitVec 16} {mk : Fld → BitVec 16 → Instr}
    (h : ∀ w, mapEntry (op.toNat / 16) (op.toNat % 16) w = some (mk (field w 16 8) (field w 0 16))) : decode (wordW op d x) = some (mk d x) := by
  obtain ⟨hd, hx⟩ := fields_wordW op d x
  rw [decode_eq_mapEntry (Laws.opcodeOf_wordW ..), h, hd, hx]

/-- An entry with a word offset. -/
theorem decode_offset {op : BitVec 8} {off : BitVec 24} {mk : BitVec 24 → Instr} (h : ∀ w, mapEntry (op.toNat / 16) (op.toNat % 16) w = some (mk (field w 0 24))) :
    decode (wordJ op off) = some (mk off) := by
  rw [decode_eq_mapEntry (Laws.opcodeOf_wordJ ..), h, field_wordJ]

/-- An entry with unused bits, which are 0 in its word (R57). -/
theorem decode_reserved {w : Word} {op : BitVec 8} {c : Word → Bool} {j : Word → Instr} {i : Instr} (hop : opcodeOf w = op)
    (h : ∀ w, mapEntry (op.toNat / 16) (op.toNat % 16) w = onlyIf (c w) (j w)) (hc : c w = true) (hi : j w = i) : decode w = some i := by
  rw [decode_eq_mapEntry hop, h]
  exact onlyIf_of hc hi

theorem forall_bitVec2 {P : BitVec 2 → Prop} (h0 : P 0) (h1 : P 1) (h2 : P 2) (h3 : P 3) (o : BitVec 2) : P o := by
  have hcases : ∀ x : BitVec 2, x = 0 ∨ x = 1 ∨ x = 2 ∨ x = 3 := by decide
  rcases hcases o with rfl | rfl | rfl | rfl <;> assumption

/-- An atomic has four opcodes, one for each ordering (R211). -/
theorem decode_atomic {op : BitVec 6} {d a b : BitVec 8} {mk : BitVec 2 → Fld → Fld → Fld → Instr} (o : BitVec 2)
    (h : ∀ o w, mapEntry ((op ++ o).toNat / 16) ((op ++ o).toNat % 16) w = some (mk o (field w 16 8) (field w 8 8) (field w 0 8))) :
    decode (wordA (op ++ o) d a b) = some (mk o d a b) := decode_threeOperands (h o)

/-- The word of an instruction of the map of R59 decodes to it. The cases are grouped by what the map keeps at 0: some operand fields, the top bits of a
short immediate, or nothing; at the end stand the entries with three operands. -/
theorem decode_of_encode {i : Instr} {w : Word} (h : encode i = some w) (hm : isMicro i = false) : decode w = some i := by
  cases i <;> cases hm <;> cases h
  case nop | regang | lbrk | exit | land | yield | mxsw =>
    exact decode_reserved (Laws.opcodeOf_wordA ..) (fun _ => rfl) (by rw [(wideFields_wordA ..).1]; rfl) rfl
  case trap | bkpt | txa =>
    exact decode_reserved (Laws.opcodeOf_wordA ..) (fun _ => rfl) (by rw [(wideFields_wordA ..).2.1]; rfl) (by simp only [fields_wordA])
  case mxrel | txq | acan | rsvg =>
    exact decode_reserved (Laws.opcodeOf_wordA ..) (fun _ => rfl) (by rw [(wideFields_wordA ..).2.2]; rfl) (by simp only [fields_wordA])
  case bri | ret | modew | fork | sleep | binv | calli | spawn | neg | abs | pnot | not | popc | clz | brev | mov | bcast | rcp | rsq | sqrt | exp2 | log2 |
      sinp | cosp | tanh | flr | ceil | trnc | rint | frac | mxfb | mxz | mxq | vote | vany | vall | elect | txe | ldn | stn | acpy | aten | agth | agtp | asct |
      acol | pub | hget | trace | rast | trsm | qbind | qcnt | rsvd | flush | mfs | mts | halt | pref | binit =>
    exact decode_reserved (Laws.opcodeOf_wordA ..) (fun _ => rfl) (by simp [fields_wordA]) (by simp only [fields_wordA])
  case joinat | mode | txb => exact decode_reserved (Laws.opcodeOf_wordW ..) (fun _ => rfl) (by simp [fields_wordW]) (by simp only [fields_wordW])
  case modet | modeg | modes | moder | tstb | shli | shri | sari | rqp | rqg =>
    refine decode_reserved (Laws.opcodeOf_wordA ..) (fun _ => rfl) ?_ ?_
    · simp only [beq_iff_eq, field_eq_iff, toNat_forms, toNat_append_eq_add, BitVec.ofNat_eq_ofNat, BitVec.toNat_ofNat]; omega
    · congr 1 <;> simp only [field_eq_iff, toNat_forms, toNat_append_eq_add, BitVec.toNat_ofNat] <;> omega
  case aadd o _ _ _ | amin o _ _ _ | amax o _ _ _ | aand o _ _ _ | aor o _ _ _ | axor o _ _ _ | axch o _ _ _ | acas o _ _ _ =>
    exact decode_atomic o (forall_bitVec2 (fun _ => rfl) (fun _ => rfl) (fun _ => rfl) (fun _ => rfl))
  case bra | call | migr => exact decode_offset (fun _ => rfl)
  case brt | brf | loop | movl | movh | movs => exact decode_wideImmediate (fun _ => rfl)
  all_goals exact decode_threeOperands (fun _ => rfl)

/-- An operation of a micro-word with unused bits, which are 0 in it (R348). -/
theorem decodeMicro_reserved {op : BitVec 6} {x : BitVec 26} {c : Word → Bool} {j : Word → Instr} {i : Instr}
    (h : ∀ w, field w 26 6 = op → decodeMicro w = onlyIf (c w) (j w)) (hc : c (wordM op x) = true) (hi : j (wordM op x) = i) : decodeMicro (wordM op x) = some i := by
  rw [h _ (fields_wordM op x).1]
  exact onlyIf_of hc hi

/-- The micro-word of a micro-instruction decodes to it: LEAF, LDR, FLG, BRC, JMP and STAT have fields, every other has none. -/
theorem decodeMicro_of_encode {i : Instr} {w : Word} (h : encode i = some w) (hm : isMicro i = true) : decodeMicro w = some i := by
  cases i <;> cases hm <;> cases h
  case uLdr a b x =>
    have hop : ∀ w, field w 26 6 = 0x12 → decodeMicro w = some (.uLdr (field w 20 6) (field w 14 6) (field w 0 14)) := fun w hw => by
      unfold decodeMicro; rw [hw]; rfl
    rw [hop _ (fields_wordM ..).1]
    congr 2 <;> simp only [field_eq_iff, toNat_forms, toNat_append_eq_add] <;> omega
  case uLeaf | uFlg | uBrc | uJmp | uStat =>
    refine decodeMicro_reserved (fun w hw => by unfold decodeMicro; rw [hw]; rfl) ?_ ?_
    · simp only [Bool.and_eq_true, beq_iff_eq, field_eq_iff, toNat_forms, toNat_append_eq_add, BitVec.ofNat_eq_ofNat, BitVec.toNat_ofNat]; omega
    · congr 1 <;> simp only [field_eq_iff, toNat_forms, toNat_append_eq_add, BitVec.toNat_ofNat] <;> omega
  all_goals exact decodeMicro_reserved (fun w hw => by unfold decodeMicro; rw [hw]; rfl) (by rw [(fields_wordM ..).2]; rfl) rfl

/-- Every instruction but an event has a word. -/
theorem isSome_encode (i : Instr) : (encode i).isSome = !isEvent i := by
  cases i <;> rfl

/-- Settles O1: by the forms of the words, whose fields the decoder reads back. -/
theorem encodedInstructionsDecode : Obligations.EncodedInstructionsDecode := by
  intro i he _
  obtain ⟨w, hw⟩ := Option.isSome_iff_exists.mp (show (encode i).isSome = true by rw [isSome_encode, he]; rfl)
  refine ⟨w, hw, ?_⟩
  split
  · next hm => exact decodeMicro_of_encode hw hm
  · next hm => exact decode_of_encode hw (by simpa using hm)

/-! ## What decodes is encoded -/

/-- The word w is the word of the instruction i, which is a micro-instruction or one of the map of R59. -/
structure WordOf (micro : Bool) (w : Word) (i : Instr) : Prop where
  word : encode i = some w
  wf : WellFormed i = true
  kind : isMicro i = micro

theorem WordOf.of_toNat {micro : Bool} {w w' : Word} {i : Instr} (he : encode i = some w') (hf : WellFormed i = true) (hm : isMicro i = micro)
    (h : w'.toNat = w.toNat) : WordOf micro w i := ⟨he.trans (congrArg some (BitVec.eq_of_toNat_eq h)), hf, hm⟩

theorem WordOf.notEvent {micro : Bool} {w : Word} {i : Instr} (h : WordOf micro w i) : isEvent i = false := by
  simpa [h.word] using isSome_encode i

/-- An answer of a decoder for w that is the instruction of w, or none. -/
def ExactFor (micro : Bool) (w : Word) (o : Option Instr) : Prop := ∀ i, o = some i → WordOf micro w i

theorem exactFor_none (micro : Bool) (w : Word) : ExactFor micro w none := fun _ h => nomatch h

theorem exactFor_some {micro : Bool} {w : Word} {i : Instr} : ExactFor micro w (some i) ↔ WordOf micro w i := by
  simp [ExactFor]

theorem exactFor_onlyIf {micro : Bool} {w : Word} {c : Bool} {i : Instr} : ExactFor micro w (onlyIf c i) ↔ (c = true → WordOf micro w i) := by
  cases c <;> simp [ExactFor, onlyIf]

/-- Neighbouring fields are 0 together. -/
theorem wideFields_eq_zero (op d a b : BitVec 8) :
    (field (wordA op d a b) 0 24 = 0 ↔ d = 0 ∧ a = 0 ∧ b = 0) ∧ (field (wordA op d a b) 8 16 = 0 ↔ d = 0 ∧ a = 0) ∧ (field (wordA op d a b) 0 16 = 0 ↔ a = 0 ∧ b = 0) := by
  simp only [BitVec.toNat_eq, toNat_field, toNat_forms, BitVec.ofNat_eq_ofNat, BitVec.toNat_ofNat]; omega

/-- By the entries of the map: an entry reads the operands out of the word, and the condition of its `onlyIf` says that what it does not read is 0. -/
theorem mapEntry_exact {r n : Nat} {op d a b : BitVec 8} (h : op.toNat = 16 * r + n) : ExactFor false (wordA op d a b) (mapEntry r n (wordA op d a b)) := by
  unfold mapEntry
  split
  on_goal 17 => exact exactFor_none _ _
  all_goals
    simp only [decodeRow0, decodeRow1, decodeRow2, decodeRow3, decodeRow4, decodeRow5, decodeRow6, decodeRow7, decodeRow8, decodeRow9, decodeRowA, decodeRowB, decodeRowC,
      decodeRowD, decodeRowE, decodeRowF]
    split
  all_goals simp only [exactFor_none, exactFor_onlyIf, exactFor_some, Bool.and_eq_true, beq_iff_eq, fields_wordA, wideFields_eq_zero, and_imp]
  all_goals
    intros
    refine .of_toNat rfl rfl rfl ?_
    simp only [BitVec.toNat_eq, toNat_field, toNat_forms, toNat_append_eq_add, BitVec.ofNat_eq_ofNat, BitVec.toNat_ofNat, Nat.add_left_inj] at *
    omega

/-- Every word is its opcode and three fields. -/
theorem exists_wordA (w : Word) : ∃ op d a b, w = wordA op d a b :=
  ⟨field w 24 8, field w 16 8, field w 8 8, field w 0 8, BitVec.eq_of_toNat_eq (by simp only [toNat_forms, toNat_field]; omega)⟩

theorem decode_exact (w : Word) : ExactFor false w (decode w) := by
  obtain ⟨op, d, a, b, rfl⟩ := exists_wordA w
  rw [decode_eq_mapEntry (Laws.opcodeOf_wordA ..)]
  exact mapEntry_exact (Nat.div_add_mod ..).symm

theorem decodeMicro_exact (w : Word) : ExactFor true w (decodeMicro w) := by
  unfold decodeMicro
  split
  all_goals simp only [exactFor_none, exactFor_onlyIf, exactFor_some, Bool.and_eq_true, beq_iff_eq, field_eq_iff]
  all_goals
    intros
    refine .of_toNat rfl rfl rfl ?_
    simp only [toNat_forms, toNat_append_eq_add, toNat_field, BitVec.ofNat_eq_ofNat, BitVec.toNat_ofNat] at *
    omega

/-- Settles O2: entry by entry of the two maps. -/
theorem decodedWordsAreEncodings : Obligations.DecodedWordsAreEncodings := by
  refine ⟨fun w i h => ?_, fun w i h => ?_⟩
  · have hw := decode_exact w i h
    exact ⟨hw.word, hw.wf, hw.kind, hw.notEvent⟩
  · have hw := decodeMicro_exact w i h
    exact ⟨hw.word, hw.wf, hw.kind⟩

/-- Settles O4: each word is the encoding of the instruction that the spec gives for it. -/
theorem wordsOfTheSpecDecode : Obligations.WordsOfTheSpecDecode := by
  refine ⟨?_, ?_, ?_, ?_, ?_, ?_, ?_, ?_, ?_, ?_, ?_, ?_, ?_, ?_, ?_⟩ <;> exact decode_of_encode rfl rfl

end Sys2Proof
end
section
/-! What a fetched word does: the words that are no instruction (R60), and the step that runs the decoded one (R65, R280). -/

namespace Sys2Proof.Machine

open Sys2Proof.Spec

/-! ## Words of unassigned opcodes -/

theorem mapEntry_of_unassigned {n : Nat} (h : n ∈ unassigned) (w : Word) : mapEntry (n / 16) (n % 16) w = none := by
  simp only [unassigned, List.mem_cons, List.not_mem_nil, or_false] at h
  rcases h with rfl | rfl | rfl | rfl | rfl | rfl | rfl | rfl | rfl | rfl | rfl | rfl | rfl | rfl | rfl | rfl | rfl | rfl | rfl | rfl | rfl | rfl | rfl | rfl | rfl <;> rfl

theorem wholeOpcode_of_unassigned : ∀ n ∈ unassigned, wholeOpcode n = false ∧ opcodeAssigned n = false := by decide

/-- Settles O3: no entry of the map is at an unassigned opcode, and its word, which no privilege check comes before, is FLT_ILLEGAL. -/
theorem unassignedOpcodesRaiseIllegal : Obligations.UnassignedOpcodesRaiseIllegal := by
  intro w h
  change (opcodeOf w).toNat ∈ unassigned at h
  obtain ⟨hwhole, hassigned⟩ := wholeOpcode_of_unassigned _ h
  have hdecode : decode w = none := (decode_eq_mapEntry rfl).trans (mapEntry_of_unassigned h w)
  refine ⟨hdecode, fun s iss hiss => ?_⟩
  have hcause : wordFault iss.u w = .illegal := by simp [wordFault, hassigned]
  simp only [runWord, hdecode, execEvUnassignedOpcode, hwhole, hiss, Bool.not_false, hcause]

/-! ## The step of a gang -/

theorem runWord_of_decode {s : State} {w : Word} {i : Instr} (h : decode w = some i) : runWord s w = exec i s := by
  rw [runWord, h]

theorem fetchRun_of_ok {s s1 : State} {iss : Issue} {w : Word} (h : fetchWord s iss.u iss.pc = .ok (s1, w)) : fetchRun s iss = runWord s1 w := by
  rw [fetchRun, h]

theorem runGang_of_turn {s t : State} {p : Place} {g : Nat} {iss : Issue} (ht : pageLeave (atGang s p g) (.dev p g) = t) (hbehind : pageBehind s (.dev p g) = false)
    (hiss : issueAt t p g true = some iss) (hcomp : comparatorAt t iss = none) : runGang s p g = fetchRun t iss := by
  simp [runGang, hbehind, ht, hiss, hcomp]

theorem nextAction_of_agenda {s : State} {a : Action} {rest : List Action} (hturn : turnBefore s = none) (h : s.agenda = a :: rest) :
    nextAction s = (a, { s with cur := .none, agenda := rest }) := by
  rw [nextAction, hturn, h]

theorem step_of_nextAction {s s1 : State} {a : Action} (h : nextAction s = (a, s1)) : step s = runAction a s1 := by
  rw [step, h]

/-- The first candidate issues where its attempt does not end waiting. -/
theorem tryGangs_head {done : State → Place → Nat → State} {idle : State → State} {s t : State} {p : Place} {g : Nat} {rest : List (Place × Nat)}
    (hrun : runGang s p g = .next t) (hgo : stillBlocked t p g = false) : tryGangs done idle s ((p, g) :: rest) = .next (done (noteIssue t p g) p g) := by
  simp [tryGangs, hrun, hgo]

/-- Settles O7: through the fetch, and through the issuer's choice of the gang. -/
theorem stepRunsTheDecodedInstruction : Obligations.StepRunsTheDecodedInstruction := by
  refine ⟨?_, fun s a rest => nextAction_of_agenda, ?_, ?_, ?_⟩
  · intro s s1 p g iss w i t hbehind hiss hcomp hfetch hdecode
    rw [runGang_of_turn rfl hbehind hiss hcomp, fetchRun_of_ok hfetch, runWord_of_decode hdecode]
  · intro s s1 d c x p g rest t hnext hidle hpicks hrun hgo
    rw [step_of_nextAction hnext, runAction, runLane32, hidle, hpicks, tryGangs_head hrun hgo]
    rfl
  · intro s s1 d c x p g rest t hnext hidle hpicks hrun hgo
    rw [step_of_nextAction hnext, runAction, runSwarm, hidle, hpicks, tryGangs_head hrun hgo]
    rfl
  · intro s s1 p g u t hnext hu he hmay hrun hgo
    rw [step_of_nextAction hnext, runAction, runThread, hu]
    simp only [he, hmay, and_self, if_true, tryGangs_head hrun hgo]

end Sys2Proof.Machine
end
section
/-! Direct branches: their target, their link and their faults (R58, R132, R133, R137). -/

namespace Sys2Proof.Machine

open Sys2Proof.Spec

theorem targetHigh_eq_false {t : DWord} (h : t.toNat < 2 ^ 57) : targetHigh t = false := by
  simpa [targetHigh] using h

/-- The overflow test of a branch is the statement's. -/
theorem overflows_iff {iss : Issue} {ts : List (Nat × DWord)} :
    iss.slices.any (fun i => decide (16 < ((iss.u.slice i).divide iss.pc (targetGroups i ts)).rstack.length)) = true ↔ Overflows iss ts := by
  simp [Overflows]

theorem branchGang_fits (s : State) {iss : Issue} {ts : List (Nat × DWord)} (h : ¬ Overflows iss ts) : branchGang s iss ts = .ok (branched s iss ts) := by
  rw [← overflows_iff] at h
  exact if_neg h

theorem branchGang_overflows (s : State) {iss : Issue} {ts : List (Nat × DWord)} (h : Overflows iss ts) :
    branchGang s iss ts = .error (.flt (fault .divstack) iss.lanes s) :=
  if_pos (overflows_iff.mpr h)

theorem branchTo_low (s : State) (iss : Issue) (ls : List Nat) {t : DWord} (h : t.toNat < 2 ^ 57) : branchTo s iss ls t = branchGang s iss (allTo ls t) := by
  simp [branchTo, targetHigh_eq_false h, allTo]

theorem branchTo_high (s : State) (iss : Issue) {ls : List Nat} {t : DWord} (h : 2 ^ 57 ≤ t.toNat) (hl : ls ≠ []) :
    branchTo s iss ls t = .error (.flt (faultVa .prot t) iss.lanes s) := by
  have ht : targetHigh t = true := decide_eq_true h
  simp [branchTo, ht, hl]

/-- A branch is an instruction whose body is the branch to one target, with something done once it is taken. -/
theorem frame_branch {s : State} {d : Desc} {iss : Issue} {body : Issue → State → Run} {t : DWord} {link : State → State} (h : RunsPlain s d iss)
    (hm : d.moves = true) (hh : d.holds = false) (ha : d.always = false) (hb : body iss s = (branchTo s iss iss.lanes t).map link) :
    (t.toNat < 2 ^ 57 → ¬ Overflows iss (allTo iss.lanes t) → frame s d body = .next (complete (link (branched s iss (allTo iss.lanes t))) iss true)) ∧
    (t.toNat < 2 ^ 57 → Overflows iss (allTo iss.lanes t) → frame s d body = .next (takeFault s iss (fault .divstack) iss.lanes)) ∧
    (2 ^ 57 ≤ t.toNat → frame s d body = .next (takeFault s iss (faultVa .prot t) iss.lanes)) := by
  have hl : iss.lanes ≠ [] := h.active.resolve_right (by simp [ha])
  refine ⟨fun ht ho => ?_, fun ht ho => ?_, fun ht => ?_⟩
  · rw [branchTo_low s iss _ ht, branchGang_fits s ho] at hb
    rw [frame_plain h hh hb, ends_lanes h ha, hm]
  · rw [branchTo_low s iss _ ht, branchGang_overflows s ho] at hb
    exact frame_plain_fault h hb
  · rw [branchTo_high s iss ht hl] at hb
    exact frame_plain_fault h hb

/-- BRA has no operand, so that nothing keeps it from running but an agent that is missing. -/
theorem runs_noOperands {s : State} {iss : Issue} (h : issueOf s true = some iss) : Runs s { moves := true } iss where
  issue := h
  checked := by simp [checks, Engines.allow, classOk]
  settled := by simp [waitsToken, namesPending]
  logged := nofun
  free := by simp [uniformFree, usesUniform, allUniform]
  fresh := by simp [dueTokens]

theorem execBra_eq (s : State) (off : BitVec 24) :
    exec (.bra off) s = frame s { moves := true } (fun iss s => branchTo s iss iss.lanes (branchTarget iss.pc off)) := rfl

theorem execCall_eq (s : State) (off : BitVec 24) :
    exec (.call off) s = frame s { moves := true, opds := [dst 0 .pair] } (fun iss s => (branchTo s iss iss.lanes (branchTarget iss.pc off)).map
      (fun s => writeDst s iss.u (dst 0 .pair) iss.lanes (iss.lanes.map (fun _ => (iss.pc + 4).toNat)))) := rfl

/-- Settles O21: both are branches to one target, and CALL's link is no queue register. -/
theorem directBranches : Obligations.DirectBranches := by
  intro s off iss t ts
  refine ⟨fun h => ?_, fun h => ?_, fun hi hl => ?_⟩
  · rw [execBra_eq]
    exact frame_branch (t := t) (link := id) h rfl rfl rfl (congrFun Except.map_id.symm _)
  · rw [execCall_eq]
    exact frame_branch (t := t) (link := fun r => writeDst r iss.u (dst 0 .pair) iss.lanes (iss.lanes.map (fun _ => (iss.pc + 4).toNat))) h rfl rfl rfl rfl
  · rw [execBra_eq]
    exact frame_idle _ (runs_noOperands hi) (.inl (by simp [allUniform])) hl rfl

end Sys2Proof.Machine
end
section
/-! What the memory system, the trace ring and a fault leave of the units: none is added or dropped, and each keeps its transactions and its live
lanes. -/

namespace Sys2Proof.Machine

/-! ## Caches (R176 to R186): no unit changes -/

theorem units_foldl {α : Type} {f : State → α → State} (hf : ∀ s x, (f s x).units = s.units) (xs : List α) (s : State) : (xs.foldl f s).units = s.units := by
  induction xs generalizing s with
  | nil => rfl
  | cons x xs ih => exact (ih _).trans (hf s x)

@[simp] theorem units_putLine (s : State) (loc : Nat) (m : BitVec 128) (b : BitVec 1024) : (s.putLine loc m b).units = s.units := by
  unfold State.putLine
  split <;> rfl

@[simp] theorem units_recallLine (s : State) (die : Nat) (l : Line) : (recallLine s die l).1.units = s.units := (recallLine_keeps s die l).2.1

@[simp] theorem units_evictL2 (s : State) (die : Nat) (l : Line) : (evictL2 s die l).units = s.units := by
  simp only [evictL2, dropL1, State.modDie_units]
  split
  · exact units_recallLine s die l
  · exact (units_putLine ..).trans (units_recallLine s die l)

@[simp] theorem units_installL2 (s : State) (die : Nat) (l : Line) : (installL2 s die l).units = s.units := by
  unfold installL2
  split <;> simp

@[simp] theorem units_useL2 (s : State) (die : Nat) (l : Line) : (useL2 s die l).units = s.units := by
  unfold useL2
  split <;> rfl

@[simp] theorem units_useHome (s : State) (tag : Nat) (asid : Option Nat) (pa : Nat) : (useHome s tag asid pa).units = s.units := by
  unfold useHome
  split <;> simp

@[simp] theorem units_installRdc (s : State) (die : Nat) (l : Line) : (installRdc s die l).units = s.units := by
  unfold installRdc
  split <;> simp

@[simp] theorem units_pokeDie (s : State) (die : Nat) (l : Line) (off n v : Nat) : (pokeDie s die l off n v).units = s.units :=
  units_foldl (fun _ _ => units_putLine ..) _ _

@[simp] theorem units_storeRemote (s : State) (w : Who) (l : Line) (off n v : Nat) : (storeRemote s w l off n v).units = s.units := units_pokeDie ..

@[simp] theorem units_trimL1 (s : State) (die core : Nat) : (trimL1 s die core).units = s.units := by
  unfold trimL1
  dsimp only
  split
  · rfl
  · split <;> rfl

@[simp] theorem units_storeL1 (s : State) (die core : Nat) (l : Line) (off n v : Nat) : (storeL1 s die core l off n v).units = s.units := by
  have hown : (match l.owner with | some c => if c = core then s else (recallLine s die l).1 | none => s).units = s.units := by
    split
    · split
      · rfl
      · exact units_recallLine s die l
    · rfl
  unfold storeL1
  dsimp only
  split_ifs
  · exact (units_putLine ..).trans hown
  · exact hown
  · exact (units_trimL1 ..).trans hown

@[simp] theorem units_storeL2 (s : State) (die : Nat) (l : Line) (off n v : Nat) : (storeL2 s die l off n v).units = s.units := by
  unfold storeL2
  dsimp only
  split <;> simp

@[simp] theorem units_mergeAtHome (s : State) (t : WriteThrough) : (mergeAtHome s t).units = s.units := by
  unfold mergeAtHome
  split <;> simp

@[simp] theorem units_meetHome (die : Nat) (s : State) (t : WriteThrough) : (meetHome die s t).units = s.units := by
  unfold meetHome
  split <;> simp

@[simp] theorem units_drainWts (s : State) (die : Nat) (p : WriteThrough → Bool) : (drainWts s die p).units = s.units :=
  units_foldl (units_meetHome die) _ _

/-! ## Translations, fills and stores that may fail -/

theorem units_translate {s : State} {die asid va : Nat} {r : State × Xlat} (h : translate s die asid va = .ok r) : r.1.units = s.units := by
  unfold translate at h
  dsimp only at h
  split at h
  · cases h; rfl
  · split at h
    · cases h
    · cases h; rfl

theorem units_fillL2 {s : State} {die asid va cls : Nat} {r : State × Line} (h : fillL2 s die asid va cls = .ok r) : r.1.units = s.units := by
  unfold fillL2 at h
  dsimp only at h
  split at h
  · split at h
    · cases h
    · cases h; simp
  · split at h
    · cases h
    · cases h
    · next ht =>
      have := units_translate ht
      split at h
      · cases h
      · split at h
        · cases h
        · split at h
          · cases h; simpa
          · split at h
            · cases h; simpa
            · cases h; simpa

theorem units_checkLine {s : State} {w : Who} {need : Need} {va : Nat} {r : State × Line} (h : checkLine s w need va = .ok r) : r.1.units = s.units := by
  unfold checkLine at h
  dsimp only at h
  split at h
  · cases h
  · next hf =>
    have := units_fillL2 hf
    split_ifs at h
    cases h; exact this

theorem units_writeLine {s t : State} {w : Who} {va n v : Nat} (h : writeLine s w va n v = .ok t) : t.units = s.units := by
  unfold writeLine at h
  split at h
  · cases h
  · next hc =>
    have := units_checkLine hc
    split_ifs at h
    · cases h; simpa
    · split at h <;> cases h <;> simpa

theorem units_checkPieces {w : Who} {need : Need} {ps : List (Nat × Nat)} {s t : State} (h : checkPieces s w need ps = .ok t) : t.units = s.units := by
  induction ps generalizing s with
  | nil => cases h; rfl
  | cons p ps ih =>
    rw [checkPieces] at h
    split at h
    · cases h
    · next hc => exact (ih h).trans (units_checkLine hc)

theorem units_writePieces {w : Who} {ps : List (Nat × Nat)} {v : Nat} {s t : State} (h : writePieces s w ps v = .ok t) : t.units = s.units := by
  induction ps generalizing s v with
  | nil => cases h; rfl
  | cons p ps ih =>
    rw [writePieces] at h
    split at h
    · cases h
    · next hc => exact (ih h).trans (units_writeLine hc)

theorem units_sysWrite {s t : State} {w : Who} {va n v : Nat} (h : sysWrite s w va n v = .ok t) : t.units = s.units := by
  unfold sysWrite at h
  split at h
  · split at h
    · cases h
    · next hc => exact (units_writePieces h).trans (units_checkPieces hc)
  · cases h

/-! ## The trace ring (R411, R412) -/

theorem units_traceStore {s t : State} {die kind r : Nat} (h : traceStore s die kind r = some t) : t.units = s.units := by
  unfold traceStore at h
  dsimp only at h
  split_ifs at h
  · cases h; rfl
  · cases h; rfl
  · split at h
    · next hw => cases h; exact (units_drainWts ..).trans (units_sysWrite hw)
    · cases h
    · cases h; rfl

theorem units_flushTrace (die : Nat) (rs : List (Nat × Nat)) (s : State) : (flushTrace s die rs).units = s.units := by
  induction rs generalizing s with
  | nil => rfl
  | cons r rs ih =>
    rw [flushTrace]
    split
    · next ht => exact (ih _).trans (units_traceStore ht)
    · rfl

@[simp] theorem units_traceWrite (s : State) (die kind r : Nat) : (traceWrite s die kind r).units = s.units := by
  unfold traceWrite
  dsimp only
  split
  · rfl
  · exact units_flushTrace ..

/-! ## What no fault changes of a unit -/

/-- From u to v the place, the transactions and the live lanes have stayed. -/
structure Stays (u v : Unit) : Prop where
  place : v.place = u.place
  tx : v.tx = u.tx
  live : ∀ i, (v.slice i).live = (u.slice i).live

theorem Stays.refl (u : Unit) : Stays u u := ⟨rfl, rfl, fun _ => rfl⟩

theorem Stays.trans {u v w : Unit} (h : Stays u v) (h' : Stays v w) : Stays u w :=
  ⟨h'.place.trans h.place, h'.tx.trans h.tx, fun i => (h'.live i).trans (h.live i)⟩

theorem Sequenced.stays {u v : Unit} (h : Sequenced u v) : Stays u v := ⟨h.place, h.tx, h.live⟩

/-- A unit's transactions and live lanes are in none of these parts. -/
theorem stays_modBook (u : Unit) (f : Book → Book) : Stays u (u.modBook f) := ⟨rfl, rfl, fun _ => rfl⟩
theorem stays_modIdent (u : Unit) (f : Ident → Ident) : Stays u (u.modIdent f) := ⟨rfl, rfl, fun _ => rfl⟩
theorem stays_modCtl (u : Unit) (f : Control → Control) : Stays u (u.modCtl f) := ⟨rfl, rfl, fun _ => rfl⟩

theorem mem_liveSlices {u : Unit} {i : Nat} : i ∈ u.liveSlices ↔ (u.slice i).live ≠ 0 := by
  simp only [Unit.liveSlices, rangeWhere, List.mem_filter, List.mem_range, decide_eq_true_eq]
  exact ⟨And.right, fun h => ⟨Unit.lt_of_live h, h⟩⟩

theorem Stays.liveSlices_ne_nil {u v : Unit} (h : Stays u v) (hu : u.liveSlices ≠ []) : v.liveSlices ≠ [] := by
  obtain ⟨i, hi⟩ := List.exists_mem_of_ne_nil _ hu
  exact List.ne_nil_of_mem (mem_liveSlices.mpr (h.live i ▸ mem_liveSlices.mp hi))

/-- The units of t are those of s, each of which has stayed. -/
def UnitsStay (s t : State) : Prop := ∃ f : Unit → Unit, (∀ u, Stays u (f u)) ∧ t.units = s.units.map f

theorem UnitsStay.of_units {s t : State} (h : t.units = s.units) : UnitsStay s t := ⟨id, .refl, by simp [h]⟩

theorem UnitsStay.refl (s : State) : UnitsStay s s := .of_units rfl

theorem UnitsStay.trans {s t r : State} (h : UnitsStay s t) (h' : UnitsStay t r) : UnitsStay s r := by
  obtain ⟨f, hf, ht⟩ := h
  obtain ⟨g, hg, hr⟩ := h'
  exact ⟨g ∘ f, fun u => (hf u).trans (hg _), by rw [hr, ht, List.map_map]⟩

theorem UnitsStay.modUnit (s : State) (p : Place) {f : Unit → Unit} (hf : ∀ u, Stays u (f u)) : UnitsStay s (s.modUnit p f) := by
  refine ⟨fun u => if u.place = p then f u else u, fun u => ?_, rfl⟩
  dsimp only
  split
  · exact hf u
  · exact .refl u

theorem UnitsStay.foldl {α : Type} {f : State → α → State} (hf : ∀ s x, UnitsStay s (f s x)) (xs : List α) (s : State) : UnitsStay s (xs.foldl f s) := by
  induction xs generalizing s with
  | nil => exact .refl s
  | cons x xs ih => exact (hf s x).trans (ih _)

theorem UnitsStay.noTransactions {s t : State} (h : UnitsStay s t) (hs : Spec.NoTransactions s) : Spec.NoTransactions t := by
  obtain ⟨f, hf, ht⟩ := h
  intro v hv
  rw [ht, List.mem_map] at hv
  obtain ⟨u, hu, rfl⟩ := hv
  exact (hf u).tx.trans (hs u hu)

theorem UnitsStay.unit? {s t : State} (h : UnitsStay s t) {p : Place} {v : Unit} (hv : t.unit? p = some v) : ∃ u, s.unit? p = some u ∧ Stays u v := by
  obtain ⟨f, hf, ht⟩ := h
  have hplace : ((fun u : Unit => decide (u.place = p)) ∘ f) = fun u => decide (u.place = p) := funext fun u => by simp [(hf u).place]
  rw [State.unit?, ht, List.find?_map, hplace, Option.map_eq_some_iff] at hv
  obtain ⟨u, hu, rfl⟩ := hv
  exact ⟨u, hu, hf u⟩

/-! ## Taking a fault -/

theorem unitsStay_chanMod (s : State) (u : Unit) (c : ChanRef) (f : Chan → Chan) : UnitsStay s (chanMod s u c f) := by
  cases c with
  | core i => exact .of_units rfl
  | quad i => exact .of_units rfl
  | mbox i => exact .of_units rfl
  | inbox =>
    dsimp only [chanMod]
    split
    · exact .of_units rfl
    · exact .modUnit _ _ (stays_modBook · _)

theorem unitsStay_putInbox (s : State) (u : Unit) (ib : Inbox) : UnitsStay s (putInbox s u ib) := by
  unfold putInbox
  split
  · exact .of_units rfl
  · exact .modUnit _ _ (stays_modBook · _)

theorem unitsStay_unpopWord (s : State) (u : Unit) (sel w : Word) : UnitsStay s (unpopWord s u sel w) := by
  unfold unpopWord
  split
  · exact .refl s
  · exact unitsStay_putInbox ..
  · exact unitsStay_chanMod ..

theorem unitsStay_dropJob (s : State) (u : Unit) : UnitsStay s (dropJob s u) := by
  unfold dropJob
  split
  · exact .refl s
  · exact .trans (.of_units rfl) (.foldl (fun _ _ => unitsStay_unpopWord ..) _ _)

theorem unitsStay_leaveEngine (s : State) (p : Place) : UnitsStay s (leaveEngine s p) := by
  unfold leaveEngine
  split <;> exact .of_units rfl

theorem unitsStay_leaveQueues (s : State) (p : Place) (mine : QWait → Bool) : UnitsStay s (leaveQueues s p mine) := by
  have hbook := UnitsStay.modUnit s p (stays_modBook · (fun b => { b with inboxWaits := b.inboxWaits.filter (fun w => !mine w) }))
  unfold leaveQueues
  dsimp only
  split <;> exact hbook.trans (.of_units rfl)

theorem unitsStay_quitWaits (s : State) (u : Unit) (g : Nat) : UnitsStay s (quitWaits s u g) := by
  unfold quitWaits
  dsimp only
  refine .trans (.trans ?_ (unitsStay_leaveQueues ..)) (.modUnit _ _ (stays_modBook · _))
  split
  · exact (unitsStay_dropJob s u).trans (unitsStay_leaveEngine ..)
  · exact .refl s

theorem unitsStay_startActivation (s : State) (p : Place) (why : Nat) (entry : DWord) (tag : Word) : UnitsStay s (startActivation s p why entry tag) := by
  unfold startActivation
  split
  · exact .refl s
  · exact .trans (.modUnit s p (stays_modIdent · _)) (.of_units (units_traceWrite ..))

theorem unitsStay_wakeSleepers (s : State) (p : Place) (tag : Word) : UnitsStay s (wakeSleepers s p tag) := by
  unfold wakeSleepers
  split
  · exact .refl s
  · split
    · exact .trans (.modUnit s p (stays_modBook · _)) (unitsStay_startActivation ..)
    · exact .refl s

theorem unitsStay_wakeSup (s : State) (die sc : Nat) (tag : Word) (n : Nat) : UnitsStay s (wakeSup s die sc tag n) := by
  induction n with
  | zero => exact .refl s
  | succ n ih => exact ih.trans (unitsStay_wakeSleepers ..)

theorem unitsStay_sendPacket (s : State) (die sc : Nat) (pk : Packet) : UnitsStay s (sendPacket s die sc pk) := by
  unfold sendPacket
  dsimp only
  split
  · exact .trans (.of_units (State.modSup_units ..)) (unitsStay_wakeSup ..)
  · exact .of_units rfl

/-- A fault outside transactions stops its unit and may wake a supervisor thread; no unit goes, begins a transaction or loses a lane. -/
theorem unitsStay_takeFault (s : State) {iss : Issue} (f : FaultInfo) (undone : List Nat) (h : iss.u.tx = []) : UnitsStay s (takeFault s iss f undone) := by
  obtain ⟨pk, htake⟩ := takeFault_noTx s f undone h
  rw [htake]
  exact .trans (.trans (unitsStay_quitWaits ..) (.modUnit _ _ (stays_modCtl · _))) (unitsStay_sendPacket ..)

/-! ## Passing an instruction -/

theorem stays_retireOne (iss : Issue) (u : Unit) : Stays u (retireOne iss u) := ⟨rfl, rfl, fun _ => rfl⟩

theorem unitsStay_complete (s : State) (iss : Issue) (moved : Bool) : UnitsStay s (complete s iss moved) :=
  .modUnit _ _ (fun u => ((sequenced_advanceSlices iss moved u).stays.trans (stays_retireOne ..)).trans (regrouped_finish iss moved u).stays)

theorem stays_modSlices (is : List Nat) {f : Slice → Slice} (hf : ∀ sl, (f sl).live = sl.live) (u : Unit) :
    Stays u { u with slices := is.foldl (fun ss i => modAt ss i f) u.slices } := by
  induction is generalizing u with
  | nil => exact .refl u
  | cons i is ih =>
    refine .trans (v := { u with slices := modAt u.slices i f }) ⟨rfl, rfl, fun j => ?_⟩ (ih _)
    simp only [Unit.slice, getD_modAt]
    split
    · next h => rw [hf, h.1]
    · rfl

theorem unitsStay_countPass (s : State) (iss : Issue) : UnitsStay s (countPass s iss) := .modUnit _ _ (stays_modSlices _ (fun _ => rfl))

/-! ## The unit of an issue -/

theorem Unit.stays_boundAt (u : Unit) (g : Nat) (pc : DWord) : Stays u (u.boundAt g pc) := by
  unfold Unit.boundAt
  split
  · exact ⟨rfl, rfl, fun _ => rfl⟩
  · exact .refl u

/-- An issue is of a unit with a live slice. -/
theorem issueOf_unit {s : State} {g : Bool} {iss : Issue} (h : issueOf s g = some iss) : ∃ u, s.unit? iss.p = some u ∧ Stays u iss.u ∧ u.liveSlices ≠ [] := by
  unfold issueOf at h
  split at h
  · next p n _ =>
    unfold issueAt at h
    split at h
    · cases h
    · next u hu =>
      split at h
      · cases h
      · next i is hg =>
        cases h
        have hst := u.stays_boundAt n (u.slice i).pc
        have hi : i ∈ u.gangSlices n := by rw [hg]; exact List.mem_cons_self
        simp only [Unit.gangSlices, rangeWhere, List.mem_filter, Bool.and_eq_true, decide_eq_true_eq] at hi
        refine ⟨u, ?_, hst, List.ne_nil_of_mem (mem_liveSlices.mpr hi.2.1)⟩
        rw [Issue.p, hst.place, State.unit?_place hu, hu]
  · cases h

theorem issue_tx {s : State} {g : Bool} {iss : Issue} (h : issueOf s g = some iss) (hs : Spec.NoTransactions s) : iss.u.tx = [] := by
  obtain ⟨u, hu, hst, _⟩ := issueOf_unit h
  exact hst.tx.trans (hs u (State.unit?_mem hu))

end Sys2Proof.Machine
end
section
/-! What the checks and the pass of an instruction need of its meaning: by which frame of the model it runs (R63, R64). -/

namespace Sys2Proof.Machine

open Sys2Proof.Spec

/-! ## The frames -/

/-- WAIT and BWAIT: what their frame fixes of what they check. -/
structure WaitDesc (d : Desc) : Prop where
  guarded : d.guarded = true
  moves : d.moves = false
  perGang : d.perGang = false
  tokens : d.tokens = false

/-- A way in which the model runs an instruction that d describes and that is not a strand's: by its frame alone, followed by the conflicts of its fills, or
followed by what YIELD and MIGR add; WAIT and BWAIT have a frame of their own. -/
inductive Framed (s : State) (d : Desc) : Res → Prop where
  | lanes (body : Issue → State → Run) : Framed s d (frame s d body)
  | access (body : Issue → State → Run) : Framed s d (memFrame s d body)
  | poll (d' : Desc) (out : Opd) (k : WaitKind) (align : Nat) (hd : d = { d' with opds := d'.opds ++ [out] }) (hw : WaitDesc d) : Framed s d (waitFrame s d' out k align)
  | yield (hd : d = wholeDesc) : Framed s d (execYield s)
  | migr (body : Issue → State → Run) (ho : d.opds = []) : Framed s d (execMigr.dropEmpty s (frame s d body))

/-- BRI, CALLI and RET run by the frame, where uni says that all their operands are uniform in a wave. -/
theorem framed_indirect {s : State} {a : Fld} {link : Option Fld} {uni : Bool}
    (h : (curIsWave s && isUniform a && (link.toList.map (fun d => dst d .pair)).all (fun o => isUniform o.f)) = uni) :
    Framed s { moves := true, opds := src a .pair :: link.toList.map (fun d => dst d .pair), perGang := true, always := uni } (indirect s a link) := by
  subst h
  exact .lanes _

/-- Every other instruction but a strand's runs by one of these frames. -/
theorem framed_of_otherDesc {s : State} {d : Desc} {i : Instr} (h : otherDesc s i = some d) (hi : isStrand i = false) (hm : mxHeld s = none) : Framed s d (exec i s) := by
  cases i
  all_goals cases hi
  all_goals cases h
  case bri a | ret a => exact framed_indirect (link := none) (Bool.and_true _)
  case calli d a => exact framed_indirect (link := some d) (congrArg _ (Bool.and_true _))
  case mxwl | mxst | mxrd =>
    dsimp only [exec, execMxwl, execMxst, execMxrd]
    rw [hm]
    exact .lanes _
  case yield => exact .yield rfl
  case migr => exact .migr _ rfl
  case wait | bwait => exact .poll _ _ _ _ rfl ⟨rfl, rfl, rfl, rfl⟩
  case mxfb | ldb | ldh | ldw | ldd | ldq | ldo | ldbi | ldwi | lddi | ldqi | stb | sth | stw | std | stq | sto | stbi | stwi | stdi | stqi | lda | stl | stmc | ldn | stn |
      aadd | amin | amax | aand | aor | axor | axch | acas | wake | binit | barv | binv => exact .access _
  all_goals exact .lanes _

theorem descOf_cases {s : State} {d : Desc} {i : Instr} (h : descOf s i = some d) : (∃ f, laneForm s i = some f ∧ d = f.desc) ∨ otherDesc s i = some d := by
  unfold descOf at h
  cases hf : laneForm s i with
  | none => exact .inr (by simpa [hf] using h)
  | some f => exact .inl ⟨f, rfl, by simpa [hf, eq_comm] using h⟩

/-- Every instruction but a strand's runs by one of these frames; one of a lane form runs by the plain one. -/
theorem framed_of_descOf {s : State} {d : Desc} {i : Instr} (h : descOf s i = some d) (hi : isStrand i = false) (hm : mxHeld s = none) : Framed s d (exec i s) := by
  obtain ⟨f, hf, rfl⟩ | ho := descOf_cases h
  · obtain ⟨op, hexec⟩ := (isLanewise_of_laneForm hf).runs
    rw [hexec, lanewise_eq_frame]
    exact .lanes _
  · exact framed_of_otherDesc ho hi hm

/-- An instruction of a strand runs by the strand's frame, under the guard. -/
theorem strandFramed_of_descOf {s : State} {d : Desc} {i : Instr} (h : descOf s i = some d) (hi : isStrand i = true) :
    d.guarded = true ∧ ∃ body, exec i s = strandFrame s d body := by
  cases i
  all_goals cases hi
  all_goals cases h
  all_goals exact ⟨rfl, _, rfl⟩

/-- Only the matrix engine's instructions are held until it is done, and only MCC threads execute them. -/
theorem mccOnly_of_holds {s : State} {d : Desc} {i : Instr} (h : descOf s i = some d) (hh : d.holds = true) : d.engines = .mccOnly := by
  obtain ⟨f, hf, rfl⟩ | ho := descOf_cases h
  · cases hh
  · cases i
    all_goals cases ho
    all_goals cases hh
    all_goals rfl

/-! ## What may follow a frame, where no lane is in a transaction -/

/-- Without transactions the fills of an instruction doom nothing (R222). -/
theorem afterMem_noTx {s t : State} (h : NoTransactions t) : afterMem s (.next t) = .next t := by
  unfold afterMem
  split
  · next hr =>
    cases hr
    have hnone : ∀ p : Unit → Bool, (t.units.filter (fun u => p u && !u.txLanes.isEmpty)) = [] := fun p => by
      simp only [List.filter_eq_nil_iff]
      intro u hu
      simp [Unit.txLanes, h u hu]
    simp only [earlyConflicts, hnone, List.isEmpty_nil, if_true]
  · rfl

/-- A MIGR after which its unit still has a live lane has not ended it (R149). -/
theorem dropEmpty_live {s t : State} {g : Bool} {iss : Issue} (hi : issueOf s g = some iss) (ht : UnitsStay s t) : execMigr.dropEmpty s (.next t) = .next t := by
  obtain ⟨x, hx, hp⟩ := issueOf_place hi
  unfold execMigr.dropEmpty
  simp only [hx]
  split
  · next v hv =>
    obtain ⟨u, hu, hst⟩ := ht.unit? hv
    obtain ⟨w, hw, _, hlive⟩ := issueOf_unit hi
    have huw : u = w := Option.some.inj (hu.symm.trans (hp ▸ hw :))
    have hne : v.liveSlices.isEmpty = false := by simpa using hst.liveSlices_ne_nil (huw ▸ hlive)
    simp [hne]
  · rfl

/-! ## The checks (R63) -/

/-- An instruction without operands that acts on the slices as a whole has nothing that a check refuses. -/
theorem checks_wholeDesc (u : Unit) : checks u wholeDesc = none := by
  simp [checks, wholeDesc, Engines.allow, classOk]

theorem waitFrame_checks {s : State} {d : Desc} {out : Opd} {iss : Issue} {c : Cause} (k : WaitKind) (align : Nat) (hi : issueOf s true = some iss)
    (hc : checks iss.u { d with opds := d.opds ++ [out] } = some c) : waitFrame s d out k align = afterMem s (.next (takeFault s iss (fault c) iss.lanes)) := by
  simp only [waitFrame, hi, hc]

theorem strandFrame_checks {s : State} {d : Desc} {iss : Issue} {c : Cause} (body : Issue → State → Run) (hi : issueOf s true = some iss)
    (hc : checks iss.u d = some c) : strandFrame s d body = .next (takeFault s iss (fault c) iss.lanes) := by
  simp only [strandFrame, hi, hc]

/-- By whatever frame an instruction runs, a failed check is its fault. -/
theorem framed_checks {s : State} {d : Desc} {r : Res} {iss : Issue} {c : Cause} (h : Framed s d r) (hi : issueOf s d.guarded = some iss)
    (hs : NoTransactions s) (hc : checks iss.u d = some c) : r = .next (takeFault s iss (fault c) iss.lanes) := by
  have hstay : UnitsStay s (takeFault s iss (fault c) iss.lanes) := unitsStay_takeFault s _ _ (issue_tx hi hs)
  cases h with
  | lanes body => exact frame_checks body hi hc
  | access body => rw [memFrame, frame_checks body hi hc, afterMem_noTx (hstay.noTransactions hs)]
  | poll d' out k align hd hw =>
    rw [hw.guarded] at hi
    subst hd
    rw [waitFrame_checks k align hi hc, afterMem_noTx (hstay.noTransactions hs)]
  | yield hd => rw [hd, checks_wholeDesc] at hc; cases hc
  | migr body ho => rw [frame_checks body hi hc, dropEmpty_live hi hstay]

/-- Settles O9: every instruction makes its checks first, in the frame by which it runs. -/
theorem failedChecksFault : Obligations.FailedChecksFault := by
  intro s i d iss c hd hi hs hm hc
  cases hstrand : isStrand i with
  | false => exact framed_checks (framed_of_descOf hd hstrand hm) hi hs hc
  | true =>
    obtain ⟨hg, body, hexec⟩ := strandFramed_of_descOf hd hstrand
    rw [hexec, strandFrame_checks body (hg ▸ hi) hc]

/-! ## Gangs without an active lane (R64) -/

/-- Where a gang without an active lane goes: a uniform instruction it passes for its strand, any other it completes. -/
def passed (s : State) (d : Desc) (iss : Issue) : State :=
  if allUniform iss.u d.opds = true ∧ d.perGang = false then complete (countPass s iss) iss d.moves else complete s iss false

theorem unitsStay_passed (s : State) (d : Desc) (iss : Issue) : UnitsStay s (passed s d iss) := by
  unfold passed
  split
  · exact (unitsStay_countPass s iss).trans (unitsStay_complete ..)
  · exact unitsStay_complete s iss false

theorem allow_of_checks {u : Unit} {d : Desc} (h : checks u d = none) : d.engines.allow u.engine = true := by
  by_contra hn
  rw [checks, Bool.eq_false_iff.mpr hn] at h
  cases h

/-- A uniform instruction is a wave's, which holds nothing. -/
theorem holds_of_allUniform {u : Unit} {d : Desc} (hc : checks u d = none) (hh : d.holds = true → d.engines = .mccOnly) (hu : allUniform u d.opds = true) : d.holds = false := by
  by_contra hne
  have hmcc := hh (by simpa using hne)
  have hwave : u.isWave = true := by simp only [allUniform, Bool.and_eq_true] at hu; exact hu.1.1
  have hallow := allow_of_checks hc
  simp only [hmcc, Engines.allow, decide_eq_true_eq] at hallow
  rw [Unit.isWave, show u.ident.engine = .mcc from hallow] at hwave
  cases hwave

theorem frame_passed {s : State} {d : Desc} {iss : Issue} (body : Issue → State → Run) (h : Runs s d iss) (he : iss.lanes = []) (ha : d.always = false)
    (hh : d.holds = true → d.engines = .mccOnly) : frame s d body = .next (passed s d iss) := by
  unfold passed
  split
  · next hu => exact frame_shared body ⟨h, hu.1, hu.2⟩ (holds_of_allUniform h.checked hh hu.1) (.inr he)
  · next hu => exact frame_idle body h (by simpa [or_iff_not_imp_left] using hu) he ha

theorem pollShared_idle {s : State} {iss : Issue} (d : Desc) (out : Opd) (k : WaitKind) (align : Nat) (he : iss.lanes = []) :
    pollShared s iss d out k align = complete (countPass s iss) iss false := by
  simp [pollShared, he]

theorem namesPending_of_runs {s : State} {d : Desc} {iss : Issue} (h : Runs s d iss) (ht : d.tokens = false) : namesPending s iss.u d = false := by
  simpa [waitsToken, ht] using h.settled

theorem waitFrame_passed {s : State} {d : Desc} {out : Opd} {iss : Issue} (k : WaitKind) (align : Nat) (hw : WaitDesc { d with opds := d.opds ++ [out] })
    (h : Runs s { d with opds := d.opds ++ [out] } iss) (he : iss.lanes = []) :
    waitFrame s d out k align = afterMem s (.next (passed s { d with opds := d.opds ++ [out] } iss)) := by
  have hi : issueOf s true = some iss := hw.guarded ▸ h.issue
  have hpend := namesPending_of_runs h hw.tokens
  have hunused := useUniform_other (s := s) (usesUniform_shared (d := { d with opds := d.opds ++ [out] }) (.inr he))
  have hpoll := pollShared_idle (s := s) d out k align he
  have hmoves : d.moves = false := hw.moves
  have hgang : d.perGang = false := hw.perGang
  obtain ⟨u, g, is, pc, ls⟩ := iss
  subst he
  simp only [waitFrame, hi, h.checked, hpend, h.fresh, List.filter_nil, doomLanes_nil, Bool.false_eq_true, if_false, List.isEmpty_nil, if_true, h.free, Bool.not_true,
    hunused, hpoll, ite_self]
  simp only [passed, hmoves, hgang, and_true]
  split <;> rfl

/-- By whatever frame an instruction runs, a gang without an active lane passes it. -/
theorem framed_passed {s : State} {d : Desc} {r : Res} {iss : Issue} (hr : Framed s d r) (h : Runs s d iss) (hs : NoTransactions s) (he : iss.lanes = [])
    (ha : d.always = false) (hh : d.holds = true → d.engines = .mccOnly) : r = .next (passed s d iss) := by
  have hstay := unitsStay_passed s d iss
  cases hr with
  | lanes body => exact frame_passed body h he ha hh
  | access body => rw [memFrame, frame_passed body h he ha hh, afterMem_noTx (hstay.noTransactions hs)]
  | poll d' out k align hd hw =>
    subst hd
    rw [waitFrame_passed k align hw h he, afterMem_noTx (hstay.noTransactions hs)]
  | yield hd => rw [hd] at ha; cases ha
  | migr body ho => rw [frame_passed body h he ha hh, dropEmpty_live h.issue hstay]

/-- Settles O13: no frame calls an instruction's effect for a gang without an active lane. -/
theorem gangsWithoutActiveLanesPass : Obligations.GangsWithoutActiveLanesPass := by
  intro s i d iss hd hi ha h he hs hm
  exact (framed_passed (framed_of_descOf hd hi hm) h hs he ha (mccOnly_of_holds hd)).trans (by rw [passed])

end Sys2Proof.Machine
end
section
/-! What happens on cores and caches beside instructions: each event's own effect (R60, R140, R158, R159, R180, R226, R252, R261, R280, R348, R406, R415 to
R420). -/

namespace Sys2Proof.Machine

open Sys2Proof.Spec

/-! ## Gangs (R140, R280) -/

theorem exec_evGangPromotion (s : State) (p : Place) (g : Nat) :
    exec (.evGangPromotion p g) s = .next (s.modUnit p (fun u => if 256 ≤ smGet 0 u.book.gwait g ∧ u.book.promoted.contains g = false then
      u.modBook (fun b => { b with promoted := b.promoted ++ [g] }) else u)) := by
  simp only [exec, execEvGangPromotion, promoteGang, Bool.not_eq_true]

theorem exec_evRegangRejoin {s : State} {p : Place} {u : Unit} {pc : DWord} (hu : s.unit? p = some u) (hw : u.isWave = true) (hr : u.ctl.run = .ready)
    (hl : u.liveSlices ≠ []) (ha : ∀ i ∈ u.liveSlices, (u.slice i).atRegang = true ∧ (u.slice i).pc = pc) :
    exec (.evRegangRejoin p) s = .next (s.modUnit p rejoin) := by
  have hhead : (u.slice (u.liveSlices.headD 0)).pc = pc := by
    obtain ⟨i, is, hi⟩ := List.exists_cons_of_ne_nil hl
    rw [hi, List.headD_cons]
    exact (ha i (by simp [hi])).2
  have hwaits : u.liveSlices.all (fun i => (u.slice i).atRegang) = true := List.all_eq_true.mpr fun i hi => (ha i hi).1
  have hsame : u.liveSlices.all (fun i => decide ((u.slice i).pc = (u.slice (u.liveSlices.headD 0)).pc)) = true :=
    List.all_eq_true.mpr fun i hi => by rw [hhead, (ha i hi).2]; exact decide_eq_true rfl
  have hempty : u.liveSlices.isEmpty = false := by simpa using hl
  simp only [exec, execEvRegangRejoin, hu, hw, hr, hempty, hwaits, hsame, Bool.true_eq_false, ne_eq, not_true, Bool.false_eq_true, or_self, if_false, if_true]

/-! ## Halts (R159, R226, R284) -/

/-- The unit after the boundary at which a halt may take effect. -/
def haltGo (v : Unit) : Unit := if v.ctl.haltFlag = true ∧ v.ctl.run = .ready then v.modCtl (fun c => { c with halted := true }) else v

theorem haltGo_place (v : Unit) : (haltGo v).place = v.place := by
  unfold haltGo
  split <;> rfl

theorem unit?_halted {s : State} {p : Place} {u : Unit} (hu : s.unit? p = some u) (hh : u.ctl.haltFlag = true) (hr : u.ctl.run = .ready) :
    (s.modUnit p haltGo).unit? p = some (u.modCtl (fun c => { c with halted := true })) := by
  rw [State.unit?_modUnit_same haltGo_place, hu, Option.map_some, haltGo, if_pos ⟨hh, hr⟩]

theorem exec_evHaltTakesEffect {s : State} {p : Place} {u : Unit} (hu : s.unit? p = some u) (hh : u.ctl.haltFlag = true) (hr : u.ctl.run = .ready)
    (hj : ∀ j, s.jobOf p = some j → j.kind ≠ .load) : exec (.evHaltTakesEffect p) s = .next (leaveMatrix (endIrrevocable (s.modUnit p haltGo) p) p) := by
  have hloads : (s.jobOf p).elim false (fun j => decide (j.kind = .load)) = false := by
    cases hjob : s.jobOf p with
    | none => rfl
    | some j => simpa using hj j hjob
  have heq : exec (.evHaltTakesEffect p) s = .next (if ((s.modUnit p haltGo).unit? p).elim false (fun u => u.ctl.halted) then
      leaveMatrix (endIrrevocable (s.modUnit p haltGo) p) p else s.modUnit p haltGo) := by
    simp only [exec, execEvHaltTakesEffect, hloads, and_true] <;> rfl
  rw [heq, unit?_halted hu hh hr]
  rfl

theorem endIrrevocable_none {s : State} {p : Place} {u : Unit} (hu : s.unit? p = some u) (h : ∀ l ∈ u.txLanes, (smGet LaneTx.idle u.tx l).irrev = false) :
    endIrrevocable s p = s := by
  have hnone : u.txLanes.filter (fun l => (smGet LaneTx.idle u.tx l).irrev) = [] := by
    simpa [List.filter_eq_nil_iff] using h
  simp only [endIrrevocable, hu, hnone]

theorem leaveMatrix_other {s : State} {p : Place} {u : Unit} (hu : s.unit? p = some u) (he : u.engine ≠ .mcc) : leaveMatrix s p = s := by
  simp only [leaveMatrix, hu, Option.elim_some, he, if_false]

theorem State.modUnit_id (s : State) (p : Place) : s.modUnit p (fun u => u) = s := by simp [State.modUnit]

/-- A load of weights in progress holds the halt back (R284). -/
theorem exec_evHaltTakesEffect_load {s : State} {p : Place} {u : Unit} {j : MxJob} (hu : s.unit? p = some u) (hj : s.jobOf p = some j) (hk : j.kind = .load)
    (hh : u.ctl.halted = false) : exec (.evHaltTakesEffect p) s = .next s := by
  simp only [exec, execEvHaltTakesEffect, hj, Option.elim_some, hk, decide_true, Bool.true_eq_false, and_false, if_false, State.modUnit_id, hu, hh, Bool.false_eq_true]

/-! ## Fills and write-throughs (R180) -/

theorem exec_evFillArrival {s : State} {die : Nat} {f : Fill} {fs : List Fill} (h : (s.die die).fills = f :: fs) :
    exec (.evFillArrival die) s = .next (arriveFill (s.modDie die (fun d => { d with fills := fs })) die f) := by
  simp only [exec, execEvFillArrival, h]

theorem exec_evWriteThroughArrival {s : State} {die : Nat} {t : WriteThrough} (h : (s.die die).wts.find? (fun t => !t.arrived) = some t) :
    exec (.evWriteThroughArrival die) s = .next ((meetHome die s t).modDie die (fun d => { d with
      wts := match d.wts.findIdx? (fun t => !t.arrived) with | some i => modAt d.wts i (fun t => { t with arrived := true }) | none => d.wts })) := by
  simp only [exec, execEvWriteThroughArrival, h] <;> rfl

theorem exec_evWriteThroughAcknowledgement {s : State} {die i : Nat} (h : (s.die die).wts.findIdx? (fun t => t.arrived) = some i) :
    exec (.evWriteThroughAcknowledgement die) s = .next (s.modDie die (fun d => { d with wts := d.wts.eraseIdx i })) := by
  simp only [exec, execEvWriteThroughAcknowledgement, h]

/-! ## Messages (R252, R261) -/

theorem exec_evMessageDelivery {s : State} {die core : Nat} {it : Item} {its : List Item} (h : outbufOf (runNet s) die core = it :: its) :
    ((runNet s).pkg.net.any it.sameSender = true → exec (.evMessageDelivery die core) s = .next (runNet s)) ∧
    ((runNet s).pkg.net.any it.sameSender = false → (acceptItem (runNet s) it = none → exec (.evMessageDelivery die core) s = .next (runNet s)) ∧
      ∀ t, acceptItem (runNet s) it = some t → exec (.evMessageDelivery die core) s = .next (modOutbuf t die core (·.drop 1))) := by
  refine ⟨fun hb => ?_, fun hb => ⟨fun ha => ?_, fun t ha => ?_⟩⟩
  · simp only [exec, execEvMessageDelivery, h, hb, if_true]
  · simp only [exec, execEvMessageDelivery, h, hb, Bool.false_eq_true, if_false, ha]
  · simp only [exec, execEvMessageDelivery, h, hb, Bool.false_eq_true, if_false, ha]

/-! ## Sleeps and Risers (R158, R226) -/

/-- A sleeper of the gang whose limit has passed wakes. -/
def wakeLate (g : Nat) (now : DWord) (z : Sleep) : Sleep := if z.gang = g ∧ z.limit = true ∧ z.until_.toNat ≤ now.toNat then { z with woken := true } else z

theorem wakeLate_woken {g : Nat} {now : DWord} {z : Sleep} (hg : (wakeLate g now z).gang = g) (hl : (wakeLate g now z).limit = true)
    (ht : (wakeLate g now z).until_.toNat ≤ now.toNat) : (wakeLate g now z).woken = true := by
  by_cases h : z.gang = g ∧ z.limit = true ∧ z.until_.toNat ≤ now.toNat
  · rw [wakeLate, if_pos h]
  · rw [wakeLate, if_neg h] at hg hl ht
    exact absurd ⟨hg, hl, ht⟩ h

theorem exec_evSleepTimeout {s : State} {p : Place} {u : Unit} (g : Nat) (hu : s.unit? p = some u) :
    ∃ t v, exec (.evSleepTimeout p g) s = .next t ∧ t.unit? p = some v ∧ v.regs = u.regs ∧ v.book.sleeps.length = u.book.sleeps.length ∧
      ∀ z ∈ v.book.sleeps, z.gang = g → z.limit = true → z.until_.toNat ≤ (nowOf s p.die).toNat → z.woken = true := by
  refine ⟨_, u.modBook (fun b => { b with sleeps := b.sleeps.map (wakeLate g (nowOf s p.die)) }), rfl, ?_, rfl, List.length_map _, fun z hz hg hl ht => ?_⟩
  · rw [State.unit?_modUnit_same (by simp), hu]; rfl
  · obtain ⟨y, -, rfl⟩ := List.mem_map.mp hz
    exact wakeLate_woken hg hl ht

theorem exec_evRiserGrant {s : State} {die : Nat} {x : Place × Nat} (hr : (s.die die).riser = none) (hq : (s.die die).riserQ.find? (riserHolds s) = some x) :
    exec (.evRiserGrant die) s = .next (s.modDie die (fun d => { d with riser := some x, riserQ := d.riserQ.filter (fun y => decide (y ≠ x)) })) := by
  simp only [exec, execEvRiserGrant, hr, hq]

/-! ## Comparators, samples, stops and monitors (R406, R415 to R420) -/

theorem exec_evComparatorFire {s : State} {p : Place} {g n : Nat} {c : Comparator} {iss : Issue} (hi : issueAt s p g true = some iss)
    (hc : comparatorAt s iss = some (n, c)) (hr : iss.u.ctl.run = .ready) :
    exec (.evComparatorFire p g n) s = .next (if c.ctl.getLsbD 29 then skipNext (fireRecord s iss n) iss
      else takeFault (skipNext (fireRecord s iss n) iss) iss { fault .bkpt with detail := BitVec.ofNat 64 (0x100 + n) } iss.lanes) := by
  have hfire : exec (.evComparatorFire p g n) s = .next (fire s iss n c) := by
    simp only [exec, execEvComparatorFire, hi, hc, hr, and_self, if_true]
  exact hfire

theorem exec_evSampleRecord {s : State} {die core : Nat} (hon : (s.core die core).smpCfg.getLsbD 31 = true)
    (hdue : samplePeriod (s.core die core).smpCfg ≤ (s.core die core).smpCount) :
    let t := s.modCore die core (fun k => { k with smpCount := k.smpCount % samplePeriod k.smpCfg })
    (nextSampled (unitsOn t die core) (s.core die core).smpNext = none → exec (.evSampleRecord die core) s = .next t) ∧
    (∀ u, nextSampled (unitsOn t die core) (s.core die core).smpNext = some u → let r := t.modCore die core (fun k => { k with smpNext := (u.place.unit + 1) % 192 })
      exec (.evSampleRecord die core) s = .next (traceWrite r die 3 (traceRecord 3 (if u.book.issued = [] then unitRank r u else 0) (asidOf r u) (placeWord u.place (ownPkg r))
        (nowOf r die) (firstIssue u).pc u.activation.tag (senderSerial u)))) := by
  intro t
  have hgo : bit (s.core die core).smpCfg 31 = true ∧ samplePeriod (s.core die core).smpCfg ≤ (s.core die core).smpCount := ⟨hon, hdue⟩
  refine ⟨fun hn => ?_, fun u hu => ?_⟩
  · simp only [exec, execEvSampleRecord, if_pos hgo, hn, t]
  · simp only [exec, execEvSampleRecord, if_pos hgo, hu, t, List.isEmpty_iff]

theorem exec_evPreciseStopReached {s : State} {die core : Nat} (hstop : (s.core die core).stop = true) (hgo : (s.core die core).stopped = false)
    (hquiet : ∀ u ∈ unitsOn s die core, u.ident.act = none ∧ u.quiet = true) :
    ∃ r n, exec (.evPreciseStopReached die core) s = .next (traceWrite (({ s with freeCount := n } : State).modCore die core (fun k => { k with stopped := true })) die 5 r) := by
  have hall : (unitsOn s die core).all (fun u => u.ident.act.isNone && u.quiet) = true := List.all_eq_true.mpr fun u hu => by simp [hquiet u hu]
  simp only [exec, execEvPreciseStopReached, hstop, hgo, hall, Bool.not_false, Bool.and_self, if_true]
  exact ⟨_, _, rfl⟩

theorem exec_evMonitorLevelSample {s : State} {die m : Nat} (hdue : levelPeriod (smGet 0 (smGet [] (s.die die).mons m) 0) ≤ smGet 0 (s.die die).monCount m) :
    let o := smGet [] (s.die die).mons m
    let ok (q : Nat) : Bool := ((s.quad die q).chanOwner.getLsbD 16 || (smGet 0 o 1).getLsbD 15) && monQualifies o 6 ((s.quad die q).chanOwner.extractLsb' 0 16).toNat q
    exec (.evMonitorLevelSample die m) s = .next (s.modDie die (fun d => { d with
      monCount := smPut d.monCount m (smGet 0 d.monCount m % levelPeriod (smGet 0 o 0)),
      mons := smSet [] d.mons m (((List.range 60).filter ok).foldl (fun x q => monUpdate x (levelOf (s.quad die q) (smGet 0 x 1))) o) })) := by
  have hasid : ∀ q, bits (s.quad die q).chanOwner 15 0 = ((s.quad die q).chanOwner.extractLsb' 0 16).toNat := fun q => by
    rw [bits, BitVec.extractLsb'_toNat]
  simp only [exec, execEvMonitorLevelSample, if_pos hdue, hasid] <;> rfl

/-! ## Words that are no instruction (R60, R348) -/

theorem exec_evUnassignedOpcode {s : State} {w : Word} {iss : Issue} (h : issueOf s (!wholeOpcode (opcodeOf w).toNat) = some iss) :
    exec (.evUnassignedOpcode w) s = .next (takeFault s iss (fault (wordFault iss.u w)) iss.lanes) := by
  simp only [exec, execEvUnassignedOpcode, h]

theorem exec_evReservedMicroOperation {s : State} {w : Word} {b : Batch} {r : Ray} (h : MicroRuns s false .both b r) :
    exec (.evReservedMicroOperation w) s = .next (rayFault s b r .trav 0) := by
  obtain ⟨r0, hcur, hr, hcount⟩ := h.ray
  have hsame : r = r0 := hr
  subst hsame
  have hroom : ¬256 ≤ r.sinceBoundary := Nat.not_le.mpr (hcount rfl)
  simp [exec, execEvReservedMicroOperation, microFrame, hcur, hroom, trav]

/-- Settles O60: event by event, from what each does. -/
theorem coreEvents : Obligations.CoreEvents := by
  refine ⟨fun s p g u _ _ _ => exec_evGangPromotion s p g, fun s p u pc => exec_evRegangRejoin, fun s p u hu hh hr => ⟨fun hj => ⟨exec_evHaltTakesEffect hu hh hr hj, ?_⟩, ?_⟩,
    fun s die f fs => exec_evFillArrival, fun s die t i => ⟨exec_evWriteThroughArrival, exec_evWriteThroughAcknowledgement⟩, fun s die core it its => exec_evMessageDelivery,
    fun s die core => rfl, fun s die => rfl, fun s p g u => exec_evSleepTimeout g, fun s die x => exec_evRiserGrant, fun s p g n c iss => exec_evComparatorFire,
    fun s die core => exec_evSampleRecord, fun s die core => exec_evPreciseStopReached, fun s die m => exec_evMonitorLevelSample, fun s w iss => exec_evUnassignedOpcode,
    fun s w b r => exec_evReservedMicroOperation⟩
  · intro he hirr
    have hunit := unit?_halted hu hh hr
    have hkeep : leaveMatrix (endIrrevocable (s.modUnit p haltGo) p) p = s.modUnit p haltGo := by
      rw [endIrrevocable_none hunit hirr, leaveMatrix_other hunit he]
    exact ⟨_, (exec_evHaltTakesEffect hu hh hr hj).trans (by rw [hkeep]), hunit⟩
  · exact fun j hj hk hhalt => exec_evHaltTakesEffect_load hu hj hk hhalt

end Sys2Proof.Machine
end
section
/-! Interpolation from a table in the local store: the tables that TLI accepts, what it writes, and how it ends (R130). -/

namespace Sys2Proof.Machine

open Sys2Proof.Spec

/-- What R63 checks of TLI. -/
def tableDesc (d a b : Fld) : Desc := { types := some [4, 6], opds := [src a .one, (src b .quad).must .kOnly, dst d .one] }

/-- The quad q describes a table of 2 to 1024 aligned words inside a local store of so many bytes, and its reserved bits are 0. -/
abbrev TableValid (q bytes : Nat) : Prop :=
  1 ≤ q / 2 ^ 32 % 16 ∧ q / 2 ^ 32 % 16 ≤ 10 ∧ q / 2 ^ 36 % 2 ^ 28 = 0 ∧ q % 2 ^ 32 % 4 = 0 ∧ q % 2 ^ 32 + 4 * 2 ^ (q / 2 ^ 32 % 16) ≤ bytes

/-- The quad of k registers that describes the table. -/
def tableQuad (s : State) (u : Unit) (b : Fld) : Nat := readOpd s u (src b .quad) false 0

/-- What one lane's word becomes under the table that the quad q describes: each element is interpolated, one of bf16x2 as the f32 of its value. -/
def interpolated (s : State) (u : Unit) (q v : Nat) : VF :=
  let ty := modeType u.regs.mode
  let entry (i : Nat) : Nat := s.rd (locLs u.place.die u.place.core (q % 2 ^ 32 + 4 * i)) 4
  perElem ty (fun x => tliElem (fmodeOf u.regs.mode) (floatFmt ty) entry (2 ^ (q / 2 ^ 32 % 16)) (q / 2 ^ 64 % 2 ^ 32) (q / 2 ^ 96 % 2 ^ 32)
    (if ty = 6 then x.getD 0 0 * 65536 else x.getD 0 0)) [v]

/-- The flags and the destination after the lanes have read their words. -/
def interpolate (s : State) (u : Unit) (d a : Fld) (q : Nat) (ls : List Nat) : State :=
  let r := readAllOpds s u (signedTy (modeType u.regs.mode)) ls [src a .one]
  let vs := (col r.2 0).map (interpolated s u q)
  writeDst (orFlags r.1 u.place (vs.foldl (fun f x => f ||| x.2) 0)) u (dst d .one) ls (vs.map (·.1))

/-- TLI is one check of its table, then the interpolation or the fault. -/
theorem exec_tli (s : State) (d a b : Fld) :
    exec (.tli d a b) s = frame s (tableDesc d a b) (fun iss s =>
      if TableValid (tableQuad s iss.u b) (lsBytes s iss.u) then .ok (interpolate s iss.u d a (tableQuad s iss.u b) iss.lanes)
      else .error (.flt (fault .operand) iss.lanes s)) := by
  simp only [exec, execTli, ← Bool.decide_and, decide_eq_true_eq, and_assoc]
  rfl

theorem exec_tli_interpolates {s s0 : State} {d a b : Fld} {iss j : Issue} {fin : State → State} (h : Acts s (tableDesc d a b) iss s0 j fin)
    (hvalid : TableValid (tableQuad s0 iss.u b) (lsBytes s0 iss.u)) :
    exec (.tli d a b) s = .next (fin (interpolate s0 iss.u d a (tableQuad s0 iss.u b) j.lanes)) := by
  obtain ⟨-, -, hunit, -⟩ := acts_issue h
  rw [exec_tli]
  refine frame_acts h rfl ?_
  rw [hunit, if_pos hvalid]

theorem exec_tli_operandFault {s : State} {d a b : Fld} {iss : Issue} (h : RunsPlain s (tableDesc d a b) iss)
    (hinvalid : ¬ TableValid (tableQuad s iss.u b) (lsBytes s iss.u)) :
    exec (.tli d a b) s = .next (takeFault s iss (fault .operand) iss.lanes) := by
  rw [exec_tli]
  exact frame_plain_fault h (if_neg hinvalid)

/-- Settles O51: a valid table is interpolated wherever the instruction takes effect, and any other ends the plain issue with its fault. -/
theorem tableInterpolationCompletes : Obligations.TableInterpolationCompletes := by
  intro s d a b iss s0 j fin
  refine ⟨exec_tli_interpolates, fun hplain hsame hinvalid => ?_⟩
  subst hsame
  exact exec_tli_operandFault hplain hinvalid

end Sys2Proof.Machine
end
section
/-! Instructions that act on a gang's slices as a whole, whatever the guard: leaving a loop and pushing a join entry (R64, R136, R143). -/

namespace Sys2Proof.Machine

open Sys2Proof.Spec

/-- An instruction that acts on the slices as a whole, whether or not it sets their pcs, runs wherever an agent is there (R64). -/
theorem runsPlain_whole {s : State} {iss : Issue} (moves : Bool) (h : issueOf s false = some iss) :
    RunsPlain s { guarded := false, always := true, moves := moves } iss where
  issue := h
  checked := by simp [checks, Engines.allow, classOk]
  settled := by simp [waitsToken, namesPending]
  logged := nofun
  free := by simp [uniformFree, usesUniform, allUniform]
  fresh := by simp [dueTokens]
  noQueue := nofun
  perLane := .inl (by simp [allUniform])
  active := .inr rfl

/-- Such an instruction does not use the uniform unit. -/
theorem ends_whole (t : State) (iss : Issue) (moves : Bool) : ends iss { guarded := false, always := true, moves := moves } t = complete t iss moves := by
  rw [ends, useUniform_other (usesUniform_lanes (by simp [allUniform]))]

/-- Its effect is what its body makes of the state. -/
theorem wholeFrame_ok {s t : State} {iss : Issue} {moves : Bool} {body : Issue → State → Run} (h : issueOf s false = some iss) (hb : body iss s = .ok t) :
    wholeFrame s moves body = .next (complete t iss moves) :=
  (frame_plain (runsPlain_whole moves h) rfl hb).trans (congrArg _ (ends_whole t iss moves))

theorem wholeFrame_fault {s t : State} {iss : Issue} {moves : Bool} {body : Issue → State → Run} {f : FaultInfo} {ls : List Nat} (h : issueOf s false = some iss)
    (hb : body iss s = .error (.flt f ls t)) : wholeFrame s moves body = .next (takeFault t iss f ls) :=
  frame_plain_fault (runsPlain_whole moves h) hb

/-! ## LBRK -/

/-- Dividing touches the pc, the active lanes and the resume entries only. -/
@[simp] theorem Slice.divide_lstack (sl : Slice) (pc : DWord) (gs : List (DWord × BitVec 4)) : (sl.divide pc gs).lstack = sl.lstack := by
  cases gs <;> rfl

/-- Settles O26: LBRK asks every slice of the gang for an open loop before it closes one in each. -/
theorem lbrkLeavesTheLoop : Obligations.LbrkLeavesTheLoop := by
  refine ⟨rfl, Slice.divide_lstack, fun s iss hi => ⟨fun hopen => wholeFrame_ok hi (if_neg ?_), fun hclosed => wholeFrame_fault hi (if_pos ?_)⟩⟩
  · simpa using hopen
  · simpa using hclosed

/-! ## JOINAT -/

/-- Settles O27: the entry's pc is the branch target of R58, and nothing is pushed unless every slice has room. -/
theorem joinatPushesAJoinEntry : Obligations.JoinatPushesAJoinEntry := by
  intro s n iss hi
  refine ⟨fun hw hroom => wholeFrame_ok hi ?_, fun hw hfull => wholeFrame_fault hi ?_, fun hw => wholeFrame_ok hi ?_⟩
  · have hnone : iss.slices.any (fun k => decide (16 ≤ (iss.u.slice k).rstack.length)) = false := by simpa using hroom
    simp only [hw, hnone, Bool.not_true, Bool.false_eq_true, if_false]
    rfl
  · have hsome : iss.slices.any (fun k => decide (16 ≤ (iss.u.slice k).rstack.length)) = true := by simpa using hfull
    simp only [hw, hsome, Bool.not_true, Bool.false_eq_true, if_false, if_true]
  · simp only [hw, Bool.not_false, if_true]

end Sys2Proof.Machine
end
section
/-! Indirect branches: each lane goes to its own target, once every lane's target has passed its checks (R31, R134). -/

namespace Sys2Proof.Machine

open Sys2Proof.Spec

/-! ## The issue under another guard -/

/-- The guard shapes the lanes of an issue and nothing else of it (R64). -/
theorem issueOf_guard {s : State} {g : Bool} {iss : Issue} (h : issueOf s g = some iss) (g' : Bool) : ∃ ls, issueOf s g' = some { iss with lanes := ls } := by
  unfold issueOf at h ⊢
  split at h
  · unfold issueAt at h ⊢
    split at h
    · cases h
    · split at h
      · cases h
      · cases h
        exact ⟨_, rfl⟩
  · cases h

theorem curIsWave_of_issue {s : State} {g : Bool} {iss : Issue} (h : issueOf s g = some iss) : curIsWave s = iss.u.isWave := by
  obtain ⟨ls, hls⟩ := issueOf_guard h false
  simp [curIsWave, hls]

/-! ## Targets that differ between lanes -/

/-- The targets are checked in every lane, for their alignment and then for their high bits, before the gang branches; after is done once it has. -/
def checkedBranch (iss : Issue) (after : State → State) (s : State) (ts : List (Nat × DWord)) : Run :=
  match ts.find? (fun x => decide (x.2.toNat % 4 ≠ 0)) with
  | some x => .error (.flt (faultVa .align x.2) iss.lanes s)
  | none =>
    match ts.find? (fun x => targetHigh x.2) with
    | some x => .error (.flt (faultVa .prot x.2) iss.lanes s)
    | none => (branchGang s iss ts).map after

theorem checkedBranch_ok {iss : Issue} (after : State → State) (s : State) {ts : List (Nat × DWord)} (h : ∀ x ∈ ts, x.2.toNat % 4 = 0 ∧ x.2.toNat < 2 ^ 57)
    (ho : ¬ Overflows iss ts) : checkedBranch iss after s ts = .ok (after (branched s iss ts)) := by
  have halign : ts.find? (fun x => decide (x.2.toNat % 4 ≠ 0)) = none := List.find?_eq_none.mpr fun x hx => by simp [(h x hx).1]
  have hlow : ts.find? (fun x => targetHigh x.2) = none := List.find?_eq_none.mpr fun x hx => by simp [targetHigh_eq_false (h x hx).2]
  simp only [checkedBranch, halign, hlow, branchGang_fits s ho]
  rfl

theorem checkedBranch_align {iss : Issue} (after : State → State) (s : State) {ts : List (Nat × DWord)} (h : ∃ x ∈ ts, x.2.toNat % 4 ≠ 0) :
    ∃ x ∈ ts, checkedBranch iss after s ts = .error (.flt (faultVa .align x.2) iss.lanes s) := by
  obtain ⟨x, hx⟩ := Option.isSome_iff_exists.mp (List.find?_isSome (p := fun x : Nat × DWord => decide (x.2.toNat % 4 ≠ 0)).mpr (by simpa using h))
  exact ⟨x, List.mem_of_find?_eq_some hx, by simp only [checkedBranch, hx]⟩

theorem checkedBranch_prot {iss : Issue} (after : State → State) (s : State) {ts : List (Nat × DWord)} (ha : ∀ x ∈ ts, x.2.toNat % 4 = 0)
    (h : ∃ x ∈ ts, 2 ^ 57 ≤ x.2.toNat) : ∃ x ∈ ts, checkedBranch iss after s ts = .error (.flt (faultVa .prot x.2) iss.lanes s) := by
  have halign : ts.find? (fun x => decide (x.2.toNat % 4 ≠ 0)) = none := List.find?_eq_none.mpr fun x hx => by simp [ha x hx]
  obtain ⟨x, hx⟩ := Option.isSome_iff_exists.mp (List.find?_isSome (p := fun x : Nat × DWord => targetHigh x.2).mpr (by simpa [targetHigh] using h))
  exact ⟨x, List.mem_of_find?_eq_some hx, by simp only [checkedBranch, halign, hx]⟩

/-! ## BRI, CALLI and RET -/

/-- What R63 checks of them: their source, and the operand of the link that CALLI has; uni says that all of them are uniform in a wave. -/
def indirectDesc (oa : Opd) (ol : List Opd) (uni : Bool) : Desc := { moves := true, opds := oa :: ol, perGang := true, always := uni }

/-- The target that each lane reads for itself. -/
def laneTargets (s : State) (iss : Issue) (oa : Opd) : State × List (Nat × DWord) :=
  let r := readAllOpds s iss.u false iss.lanes [oa]
  (r.1, iss.lanes.zip ((col r.2 0).map (BitVec.ofNat 64)))

/-- The target that the strand reads once (R31); a gang without an active lane reads none. -/
def strandTargets (s : State) (iss : Issue) (oa : Opd) : State × List (Nat × DWord) :=
  if iss.lanes.isEmpty then (countPass s iss, [])
  else let r := latch s iss (BitVec.ofNat 64 (readOpd s iss.u oa false (iss.lanes.headD 0))); (r.1, allTo iss.lanes r.2)

/-- CALLI's link, which a gang that finds its strand's target read does not write again. -/
def writeLinks (iss : Issue) (ol : List Opd) (uni : Bool) (s : State) : State :=
  if uni && (iss.shared.isSome || iss.lanes.isEmpty) then s
  else ol.foldl (fun s o => writeDst s iss.u o iss.lanes (iss.lanes.map (fun _ => (iss.pc + 4).toNat))) s

def readTargets (uni : Bool) (s : State) (iss : Issue) (oa : Opd) : State × List (Nat × DWord) := if uni then strandTargets s iss oa else laneTargets s iss oa

def indirectBody (oa : Opd) (ol : List Opd) (uni : Bool) (iss : Issue) (s0 : State) : Run :=
  let r := readTargets uni s0 iss oa
  keepOnFault s0 (checkedBranch iss (writeLinks iss ol uni) r.1 r.2)

theorem indirect_eq {s : State} {a : Fld} {link : Option Fld} {ol : List Opd} {uni : Bool} (hl : link.toList.map (fun d => dst d .pair) = ol)
    (hu : (curIsWave s && isUniform a && ol.all (fun o => isUniform o.f)) = uni) :
    indirect s a link = frame s (indirectDesc (src a .pair) ol uni) (indirectBody (src a .pair) ol uni) := by
  subst hl hu
  rfl

theorem laneTargets_plain (s : State) (iss : Issue) {a : Fld} (hq : isQ a = false) :
    laneTargets s iss (src a .pair) = (s, iss.lanes.map (fun l => (l, BitVec.ofNat 64 (readOpd s iss.u (src a .pair) false l)))) := by
  have hread : ∀ o ∈ [src a .pair], o.rd = true → isQ o.f = false := by simpa [src] using hq
  rw [laneTargets, readAllOpds_plain s iss.u false iss.lanes hread]
  simp [col, src, List.zip_eq_zipWith, List.zipWith_self, List.map_map, Function.comp_def, List.zipWith_map_right]

theorem strandTargets_active (s : State) {iss : Issue} (oa : Opd) (hl : iss.lanes ≠ []) :
    let v := iss.shared.getD (BitVec.ofNat 64 (readOpd s iss.u oa false (iss.lanes.headD 0)))
    strandTargets s iss oa = (if iss.shared = none then ranOnce s iss v else countPass s iss, allTo iss.lanes v) := by
  have he : iss.lanes.isEmpty = false := by simpa using hl
  cases hs : iss.shared with
  | none => simp [strandTargets, he, latch, hs, ranOnce]
  | some v => simp [strandTargets, he, latch, hs]

theorem writeLinks_one {iss : Issue} {d : Fld} {uni : Bool} (s : State) (hq : isQ d = false) (hu : uni = true → iss.shared = none ∧ iss.lanes ≠ []) :
    writeLinks iss [dst d .pair] uni s = withRegs s iss.p (putEach iss (dst d .pair) (fun _ => (iss.pc + 4).toNat)) := by
  have hwrites : (uni && (iss.shared.isSome || iss.lanes.isEmpty)) = false := by
    cases uni with
    | false => rfl
    | true => simp [hu rfl]
  simp only [writeLinks, hwrites, Bool.false_eq_true, if_false, List.foldl_cons, List.foldl_nil]
  rw [writeDst, dst, if_neg (by simp [hq])]
  rfl

theorem writeLinks_none (iss : Issue) (uni : Bool) (s : State) : writeLinks iss [] uni s = s := by
  unfold writeLinks
  split <;> rfl

theorem writeLinks_passed {iss : Issue} (ol : List Opd) (s : State) (hs : iss.shared ≠ none) : writeLinks iss ol true s = s := by
  simp [writeLinks, Option.isSome_iff_ne_none.mpr hs]

/-- The body where every target is good and the stacks have room. -/
theorem indirectBody_ok {oa : Opd} {ol : List Opd} {uni : Bool} {iss : Issue} {s0 s : State} {ts : List (Nat × DWord)}
    (hr : readTargets uni s0 iss oa = (s, ts)) (h : ∀ x ∈ ts, x.2.toNat % 4 = 0 ∧ x.2.toNat < 2 ^ 57) (ho : ¬ Overflows iss ts) :
    indirectBody oa ol uni iss s0 = .ok (writeLinks iss ol uni (branched s iss ts)) := by
  simp only [indirectBody, hr, checkedBranch_ok _ s h ho, keepOnFault]

/-- Where the targets' check ends in a fault, the fault leaves the state as the instruction found it (R6). -/
theorem indirectBody_fault {oa : Opd} {ol : List Opd} {uni : Bool} {iss : Issue} {s0 s : State} {ts : List (Nat × DWord)} {f : FaultInfo}
    (hr : readTargets uni s0 iss oa = (s, ts))
    (hc : checkedBranch iss (writeLinks iss ol uni) s ts = .error (.flt f iss.lanes s)) : indirectBody oa ol uni iss s0 = .error (.flt f iss.lanes s0) := by
  simp only [indirectBody, hr, hc, keepOnFault]

/-! ## The three ways of executing one -/

/-- BRI and RET are one branch without a link. -/
theorem exec_bri_or_ret {s : State} {a : Fld} {uni : Bool} {i : Instr} (hi : i ∈ [Instr.bri a, .ret a]) (hu : (curIsWave s && isUniform a) = uni) :
    exec i s = frame s (indirectDesc (src a .pair) [] uni) (indirectBody (src a .pair) [] uni) := by
  have heq := indirect_eq (s := s) (a := a) (link := none) (ol := []) (uni := uni) rfl (by simpa using hu)
  simp only [List.mem_cons, List.not_mem_nil, or_false] at hi
  obtain rfl | rfl := hi <;> exact heq

theorem exec_calli {s : State} {d a : Fld} {uni : Bool} (hu : (curIsWave s && isUniform a && isUniform d) = uni) :
    exec (.calli d a) s = frame s (indirectDesc (src a .pair) [dst d .pair] uni) (indirectBody (src a .pair) [dst d .pair] uni) :=
  indirect_eq (link := some d) rfl (by simpa [dst] using hu)

/-- Without queue registers and lane by lane: the branch, or the fault of the lanes' check. -/
theorem exec_branchLanes {s : State} {a : Fld} {iss : Issue} {i : Instr} (hi : i ∈ [Instr.bri a, .ret a]) (hq : isQ a = false) (hu : (curIsWave s && isUniform a) = false)
    (h : RunsPlain s (indirectDesc (src a .pair) [] false) iss) :
    let target (l : Nat) : DWord := BitVec.ofNat 64 (readOpd s iss.u (src a .pair) false l)
    let ts := iss.lanes.map (fun l => (l, target l))
    ((∀ l ∈ iss.lanes, (target l).toNat % 4 = 0 ∧ (target l).toNat < 2 ^ 57) → ¬ Overflows iss ts → exec i s = .next (complete (branched s iss ts) iss true)) ∧
    ((∃ l ∈ iss.lanes, (target l).toNat % 4 ≠ 0) → ∃ l ∈ iss.lanes, exec i s = .next (takeFault s iss (faultVa .align (target l)) iss.lanes)) ∧
    ((∀ l ∈ iss.lanes, (target l).toNat % 4 = 0) → (∃ l ∈ iss.lanes, 2 ^ 57 ≤ (target l).toNat) →
      ∃ l ∈ iss.lanes, exec i s = .next (takeFault s iss (faultVa .prot (target l)) iss.lanes)) := by
  intro target ts
  have hts : readTargets false s iss (src a .pair) = (s, ts) := laneTargets_plain s iss hq
  rw [exec_bri_or_ret hi hu]
  refine ⟨fun hgood ho => ?_, fun hbad => ?_, fun ha hbad => ?_⟩
  · rw [frame_plain h rfl (indirectBody_ok hts (by simpa [ts] using hgood) ho), ends_lanes h rfl, writeLinks_none]
    rfl
  · obtain ⟨x, hx, hc⟩ := checkedBranch_align (writeLinks iss [] false) s (ts := ts) (by simpa [ts] using hbad)
    obtain ⟨l, hl, rfl⟩ := List.mem_map.mp hx
    exact ⟨l, hl, frame_plain_fault h (indirectBody_fault hts hc)⟩
  · obtain ⟨x, hx, hc⟩ := checkedBranch_prot (writeLinks iss [] false) s (ts := ts) (by simpa [ts] using ha) (by simpa [ts] using hbad)
    obtain ⟨l, hl, rfl⟩ := List.mem_map.mp hx
    exact ⟨l, hl, frame_plain_fault h (indirectBody_fault hts hc)⟩

theorem exec_calliLanes {s : State} {d a : Fld} {iss : Issue} (hq : isQ a = false) (hu : (curIsWave s && isUniform a && isUniform d) = false)
    (h : RunsPlain s (indirectDesc (src a .pair) [dst d .pair] false) iss) :
    let target (l : Nat) : DWord := BitVec.ofNat 64 (readOpd s iss.u (src a .pair) false l)
    let ts := iss.lanes.map (fun l => (l, target l))
    (∀ l ∈ iss.lanes, (target l).toNat % 4 = 0 ∧ (target l).toNat < 2 ^ 57) → ¬ Overflows iss ts →
      exec (.calli d a) s = .next (complete (withRegs (branched s iss ts) iss.p (putEach iss (dst d .pair) (fun _ => (iss.pc + 4).toNat))) iss true) := by
  intro target ts hgood ho
  have hd : isQ d = false := by
    by_contra hqd
    exact absurd (h.noQueue (dst d .pair) (by simp [indirectDesc]) (by simpa [dst] using hqd)).2 (by simp [dst])
  have hts : readTargets false s iss (src a .pair) = (s, ts) := laneTargets_plain s iss hq
  rw [exec_calli hu, frame_plain h rfl (indirectBody_ok hts (by simpa [ts] using hgood) ho), ends_lanes h rfl, writeLinks_one _ hd (fun h => Bool.noConfusion h)]
  rfl

/-- A uniform one runs whenever its checks pass, since it names no queue register and needs no active lane. -/
theorem runsPlain_uniform {s : State} {oa : Opd} {ol : List Opd} {iss : Issue} (h : Runs s (indirectDesc oa ol true) iss) (hu : ∀ o ∈ oa :: ol, isUniform o.f = true) :
    RunsPlain s (indirectDesc oa ol true) iss where
  toRuns := h
  noQueue o ho hq := absurd hq (by simp [isQ_of_isUniform (hu o ho)])
  perLane := .inr rfl
  active := .inr rfl

/-- Settles O23: all three check the targets of all lanes, read lane by lane or once for the strand, and then branch. -/
theorem indirectBranches : Obligations.IndirectBranches := by
  refine ⟨fun s d a iss hq => ⟨fun hu h i hi => exec_branchLanes hi hq hu h, fun hu h => exec_calliLanes hq hu h⟩, ?_, ?_⟩
  · intro s a iss s0 j fin hu h r ts hgood ho i hi
    obtain ⟨rfl, -⟩ := acts_perGang h rfl
    rw [exec_bri_or_ret hi hu, ← writeLinks_none j false (branched r.1 j ts)]
    exact frame_acts h rfl (indirectBody_ok rfl hgood ho)
  · intro s d a iss hw ha hl ds v once ts hv hlow ho
    have hts : readTargets true s iss (src a .pair) = (once, ts) := strandTargets_active s _ hl
    have hgood : ∀ x ∈ ts, x.2.toNat % 4 = 0 ∧ x.2.toNat < 2 ^ 57 := by simpa [ts, allTo] using fun _ _ => ⟨hv, hlow⟩
    refine ⟨fun h i hi => ?_, fun hd h => ?_⟩
    · have hu : (curIsWave s && isUniform a) = true := by simp [curIsWave_of_issue h.issue, hw, ha]
      rw [exec_bri_or_ret hi hu, frame_plain (runsPlain_uniform h (by simpa [src] using ha)) rfl (indirectBody_ok hts hgood ho), writeLinks_none]
      rfl
    · have hu : (curIsWave s && isUniform a && isUniform d) = true := by simp [curIsWave_of_issue h.issue, hw, ha, hd]
      rw [exec_calli hu, frame_plain (runsPlain_uniform h (by simp [src, dst, ha, hd])) rfl (indirectBody_ok hts hgood ho)]
      split
      · next hs => rw [writeLinks_one _ (isQ_of_isUniform hd) (fun _ => ⟨hs, hl⟩)]; rfl
      · next hs => rw [writeLinks_passed _ _ hs]; rfl

end Sys2Proof.Machine
end
section
/-! SLEEP and HALT: at once, or until something else ends the wait (R158, R159). -/

namespace Sys2Proof.Machine

open Sys2Proof.Spec

/-! ## Units that stay -/

/-- A unit that stood at a place still stands there. -/
theorem UnitsStay.unit?_forward {s t : State} (h : UnitsStay s t) {p : Place} {u : Unit} (hu : s.unit? p = some u) : ∃ v, t.unit? p = some v ∧ Stays u v := by
  obtain ⟨f, hf, ht⟩ := h
  have hplace : ((fun u : Unit => decide (u.place = p)) ∘ f) = fun u => decide (u.place = p) := funext fun u => by simp [(hf u).place]
  refine ⟨f u, ?_, hf u⟩
  rw [State.unit?, ht, List.find?_map, hplace]
  exact congrArg (Option.map f) hu

theorem unitsStay_endRun (s : State) (u : Unit) : UnitsStay s (endRun s u) := by
  unfold endRun
  dsimp only
  split
  · exact .refl s
  · exact .trans (.of_units (monEvent_keeps ..).2) (unitsStay_putInbox ..)

theorem unitsStay_endActivation (s : State) (p : Place) (why : Nat) : UnitsStay s (endActivation s p why) := by
  unfold endActivation
  split
  · exact .refl s
  · exact .trans (.modUnit s p (stays_modIdent · _)) (.of_units (units_traceWrite ..))

/-! ## SLEEP -/

theorem isUniform_of_isQ {f : Fld} (h : isQ f = true) : isUniform f = false := by
  by_contra hu
  simp [isQ_of_isUniform (Bool.of_not_eq_false hu)] at h

/-- What R63 checks of SLEEP: a thread's queue register is read by the instruction itself. -/
def sleepDesc (iss : Issue) (a : Fld) : Desc := { perGang := true, opds := if isQ a && !iss.u.isWave then [] else [(src a .one).must .uniform] }

/-- The sleep that begins where a limit n was read (0: none). -/
def newSleep (s : State) (iss : Issue) (n : Nat) : Sleep :=
  { gang := iss.gang, pc := iss.pc, limit := decide (n ≠ 0), until_ := nowOf s iss.p.die + BitVec.ofNat 64 n, woken := false }

/-- The gang's sleep takes the place of an earlier one. -/
def Unit.noteSleep (z : Sleep) (u : Unit) : Unit := u.modBook (fun b => { b with sleeps := b.sleeps.filter (fun x => decide (x.gang ≠ z.gang)) ++ [z] })

/-- The gang falls asleep: its run and its activation end, and its sleep is noted (R158, R409, R413). -/
def fallAsleep (s : State) (iss : Issue) (n : Nat) : State :=
  (endActivation (endRun s iss.u) iss.p 1).modUnit iss.p (Unit.noteSleep (newSleep s iss n))

def sleepBody (a : Fld) (iss : Issue) (s : State) : Run :=
  match sleepOf iss.u iss.gang iss.pc with
  | some z => if z.woken then .ok (dropSleep s iss) else .error (.wait .queue iss.lanes s)
  | none =>
    if !(inboxOf s iss.u).words.isEmpty then .ok (endRun s iss.u)
    else
      match readOnce s iss ((src a .one).must .uniform) with
      | .error e => .error e
      | .ok (s, n) => .error (.wait .queue iss.lanes (fallAsleep s iss n))

theorem exec_sleep {s : State} {a : Fld} {iss : Issue} (h : issueOf s true = some iss) : exec (.sleep a) s = frame s (sleepDesc iss a) (sleepBody a) := by
  have heq : exec (.sleep a) s = frame s { perGang := true, opds := if isQ a && !curIsWave s then [] else [(src a .one).must .uniform] } (sleepBody a) := rfl
  rw [heq, curIsWave_of_issue h]
  rfl

/-- In a thread a queue register is no operand of the checks; in a wave it does not pass them. -/
theorem runsPlain_sleep {s : State} {a : Fld} {iss : Issue} (h : Runs s (sleepDesc iss a) iss) (hl : iss.lanes ≠ []) : RunsPlain s (sleepDesc iss a) iss where
  toRuns := h
  noQueue o ho hq := by
    have hok : o.ok iss.u = true := operand_ok h.checked ho
    by_cases hc : (isQ a && !iss.u.isWave) = true
    · simp [sleepDesc, hc] at ho
    · obtain rfl : o = (src a .one).must .uniform := by simpa [sleepDesc, hc] using ho
      have hqa : isQ a = true := hq
      have hwave : iss.u.isWave = true := by simpa [hqa] using hc
      simp [Opd.ok, Opd.ruleOk, Opd.must, src, hwave, isUniform_of_isQ hqa] at hok
  perLane := .inr rfl
  active := .inl hl

/-- The sleep is noted in the book of the unit. -/
theorem fallAsleep_unit (s : State) (iss : Issue) (n : Nat) (h : s.unit? iss.p ≠ none) :
    ∃ u, (fallAsleep s iss n).unit? iss.p = some u ∧ newSleep s iss n ∈ u.book.sleeps := by
  obtain ⟨u, hu⟩ := Option.ne_none_iff_exists'.mp h
  obtain ⟨v, hv, -⟩ := ((unitsStay_endRun s iss.u).trans (unitsStay_endActivation _ iss.p 1)).unit?_forward hu
  exact ⟨v.noteSleep (newSleep s iss n), (State.unit?_modUnit_same (f := Unit.noteSleep _) (fun _ => rfl)).trans (congrArg (Option.map _) hv), by simp [Unit.noteSleep]⟩

/-- Settles O34: the instruction's own sleep decides first, then the inbox, and then it falls asleep with the limit it reads. -/
theorem sleepWaitsForAMessage : Obligations.SleepWaitsForAMessage := by
  intro s a iss d
  refine ⟨fun h hl => ?_, fun hq => ?_, fun hi hw hq => ?_⟩
  · have hplain : RunsPlain s (sleepDesc iss a) iss := runsPlain_sleep h hl
    rw [exec_sleep h.issue]
    refine ⟨fun hnone hwords => ?_, fun z hz hwoken => ?_, fun z hz hasleep => ?_, fun s1 n hnone hempty hread hunit => ?_⟩
    · rw [frame_plain (t := endRun s iss.u) hplain rfl (by simp [sleepBody, hnone, hwords]), ends_lanes hplain rfl]
      rfl
    · rw [frame_plain (t := dropSleep s iss) hplain rfl (by simp [sleepBody, hz, hwoken]), ends_lanes hplain rfl]
      rfl
    · exact frame_plain_wait hplain (by simp [sleepBody, hz, hasleep])
    · obtain ⟨u, hu, hmem⟩ := fallAsleep_unit s1 iss n hunit
      have hbody : sleepBody a iss s = .error (.wait .queue iss.lanes (fallAsleep s1 iss n)) := by simp [sleepBody, hnone, hempty, hread]
      exact ⟨_, u, _, frame_plain_wait hplain hbody, hu, hmem, rfl, rfl, rfl, by simp [newSleep], rfl⟩
  · have hqa : isQ ((src a .one).must .uniform).f = false := hq
    rw [readOnce, hqa]
    rfl
  · rw [exec_sleep hi]
    refine frame_checks _ hi ?_
    simp [checks, sleepDesc, hw, Engines.allow, Opd.ok, Opd.ruleOk, Opd.must, src, isUniform_of_isQ hq]

/-! ## HALT -/

theorem bits_eq_zero_iff {w : Nat} (x : BitVec w) {hi lo : Nat} : bits x hi lo = 0 ↔ ∀ i, lo ≤ i → i ≤ hi → x.getLsbD i = false := by
  have htest (k : Nat) : (bits x hi lo).testBit k = (decide (k < hi + 1 - lo) && x.getLsbD (lo + k)) := by
    rw [bits, Nat.testBit_mod_two_pow, Nat.testBit_shiftRight, BitVec.getLsbD]
  refine ⟨fun h i hlo hhi => ?_, fun h => Nat.eq_of_testBit_eq fun k => ?_⟩
  · obtain ⟨k, rfl⟩ := Nat.exists_eq_add_of_le hlo
    have hk : k < hi + 1 - lo := by omega
    simpa [h, hk] using (htest k).symm
  · rw [htest, Nat.zero_testBit, Bool.and_eq_false_iff, decide_eq_false_iff_not, or_iff_not_imp_left, not_not]
    exact fun hk => h (lo + k) (by omega) (by omega)

/-- The reserved bits of HALT's selector (R52, R159). -/
theorem reserved_haltSelector (w : Word) : w &&& 0xFC00FF00 = 0 ↔ bits w 31 26 = 0 ∧ bits w 15 8 = 0 := by
  have hmask : ∀ i < 32, (0xFC00FF00 : Word).getLsbD i = decide ((26 ≤ i ∧ i ≤ 31) ∨ (8 ≤ i ∧ i ≤ 15)) := by decide
  have hbits : w &&& 0xFC00FF00 = 0 ↔ ∀ i < 32, (26 ≤ i ∧ i ≤ 31) ∨ (8 ≤ i ∧ i ≤ 15) → w.getLsbD i = false := by
    rw [BitVec.eq_of_getLsbD_eq_iff]
    refine forall₂_congr fun i hi => ?_
    have hzero : (0 : Word).getLsbD i = false := BitVec.getLsbD_zero
    rw [BitVec.getLsbD_and, hmask i hi, hzero, Bool.and_eq_false_iff, decide_eq_false_iff_not, or_comm, ← imp_iff_not_or]
  rw [hbits, bits_eq_zero_iff, bits_eq_zero_iff]
  exact ⟨fun h => ⟨fun i hlo hhi => h i (by omega) (.inl ⟨hlo, hhi⟩), fun i hlo hhi => h i (by omega) (.inr ⟨hlo, hhi⟩)⟩,
    fun ⟨h26, h8⟩ i hi hor => hor.elim (fun x => h26 i x.1 x.2) (fun x => h8 i x.1 x.2)⟩

/-- A field of a word by its lowest bit and its length. -/
theorem toNat_extractLsb'_eq_bits {w : Nat} (x : BitVec w) {lo n : Nat} (hn : 0 < n) : (x.extractLsb' lo n).toNat = bits x (lo + n - 1) lo := by
  rw [BitVec.extractLsb'_toNat, bits, Nat.sub_add_cancel (by omega), Nat.add_sub_cancel_left]

/-- What R63 checks of HALT. -/
def haltDesc (a b : Fld) : Desc := { priv := true, opds := [src a .one, src b .one] }

/-- The selector and the operation that the first of the lanes reads. -/
def haltSelector (r : State × List (List Nat)) : Word := BitVec.ofNat 32 ((col r.2 0).headD 0)
def haltOp (r : State × List (List Nat)) : Word := BitVec.ofNat 32 ((col r.2 1).headD 0)

def haltBody (a b : Fld) (iss : Issue) (s0 : State) : Run :=
  let r := readAllOpds s0 iss.u false iss.lanes [src a .one, src b .one]
  keepOnFault s0 (haltLane r.1 iss (haltSelector r) (haltOp r))

theorem exec_halt (s : State) (a b : Fld) : exec (.halt a b) s = frame s (haltDesc a b) (haltBody a b) := rfl

/-- The place that a selector names (R52). -/
def selectedPlace (w : Word) : Place := { die := (w.extractLsb' 24 2).toNat, core := (w.extractLsb' 16 8).toNat, unit := (w.extractLsb' 0 8).toNat }

theorem haltTarget_eq (w : Word) : haltTarget w = selectedPlace w := by
  simp only [haltTarget, selectedPlace, toNat_extractLsb'_eq_bits w (Nat.succ_pos _)]

/-- A selector with a reserved bit, and an operation that is neither 0 nor 1, take the operand fault. -/
theorem haltLane_bad {s : State} {iss : Issue} {w op : Word} (h : w &&& 0xFC00FF00 ≠ 0 ∨ 1 < op.toNat) :
    haltLane s iss w op = .error (.flt (fault .operand) iss.lanes s) := by
  rw [ne_eq, reserved_haltSelector, not_and_or, or_assoc] at h
  exact if_pos h

/-- The halt flag set, and a release. -/
def Unit.flagHalt (u : Unit) : Unit := u.modCtl (fun c => { c with haltFlag := true })
def Unit.releaseHalt (u : Unit) : Unit := u.modCtl (fun c => { c with haltFlag := false, halted := false })

/-- What a good selector and operation do: to no unit where the place exists in no package (log entry 42), and else to the unit at the place, or to what is
saved of one. -/
theorem haltLane_good {s : State} {iss : Issue} {w op : Word} (hw : w &&& 0xFC00FF00 = 0) (hop : op.toNat ≤ 1) :
    (240 ≤ (selectedPlace w).core → haltLane s iss w op = .ok s) ∧
    ((selectedPlace w).core < 240 → s.unit? (selectedPlace w) = none → haltLane s iss w op = .ok (flagSaved s (selectedPlace w) (decide (op = 0)))) ∧
    (∀ u, (selectedPlace w).core < 240 → s.unit? (selectedPlace w) = some u →
      (op = 1 → haltLane s iss w op = .ok (s.modUnit (selectedPlace w) Unit.releaseHalt)) ∧
      (op = 0 → u.ctl.run ≠ .ready ∨ u.ctl.halted = true → haltLane s iss w op = .ok (s.modUnit (selectedPlace w) Unit.flagHalt)) ∧
      (op = 0 → u.ctl.run = .ready → u.ctl.halted = false →
        haltLane s iss w op = .error (.wait .structural iss.lanes (s.modUnit (selectedPlace w) Unit.flagHalt)))) := by
  rw [reserved_haltSelector] at hw
  have hgood : ¬ (bits w 31 26 ≠ 0 ∨ bits w 15 8 ≠ 0 ∨ 1 < op.toNat) := by omega
  simp only [haltLane, if_neg hgood, haltTarget_eq]
  refine ⟨fun hp => ?_, fun hp hnone => ?_, fun u hp hu => ⟨fun h1 => ?_, fun h0 hstill => ?_, fun h0 hready hgoes => ?_⟩⟩
  · have hlt : ¬ (selectedPlace w).core < 240 := Nat.not_lt.mpr hp
    simp only [hlt, if_false]
  · simp only [hp, if_true, hnone]
  · simp only [hp, if_true, hu, h1]
    rfl
  · have hgoes : ¬ (u.ctl.run = .ready ∧ u.ctl.halted = false) := fun h => hstill.elim (· h.1) (by simp [h.2])
    have h1 : op ≠ 1 := by simp [h0]
    simp only [hp, if_true, hu, h1, if_false, hgoes]
    rfl
  · have h1 : op ≠ 1 := by simp [h0]
    simp only [hp, if_true, hu, h1, if_false, hready, hgoes, and_self]
    rfl

/-- Settles O35: the checks of selector and operation, then the one unit at the place that the selector names. -/
theorem haltSetsTheFlag : Obligations.HaltSetsTheFlag := by
  intro s a b iss s0 j fin d r w op p flagged
  refine ⟨fun h hw hop => ?_, fun h hs hj => ?_⟩
  · have hbody : haltBody a b j s0 = keepOnFault s0 (haltLane r.1 j w op) := by
      rw [haltBody, (acts_issue h).2.2.1]; rfl
    have hexec : ∀ {t}, haltLane r.1 j w op = .ok t → exec (.halt a b) s = .next (fin t) := fun ht => by
      rw [exec_halt]
      exact frame_acts h rfl (by rw [hbody, ht]; rfl)
    obtain ⟨hbeyond, habsent, hthere⟩ := haltLane_good (s := r.1) (iss := j) hw hop
    refine ⟨fun hp => hexec (hbeyond hp), fun hp hnone => hexec (habsent hp hnone), fun u hp hu => ?_⟩
    obtain ⟨hrelease, hstill, -⟩ := hthere u hp hu
    exact ⟨fun h1 => hexec (hrelease h1), fun h0 hs => hexec (hstill h0 hs)⟩
  · subst hs hj
    have hr : r.1 = s0 := by
      have hread : ∀ o ∈ d.opds, o.rd = true → isQ o.f = false := fun o ho hrd => by
        by_contra hq
        simpa [hrd] using (h.noQueue o ho (by simpa using hq)).1
      exact congrArg Prod.fst (readAllOpds_plain s0 j.u false j.lanes hread)
    have hbody : haltBody a b j s0 = keepOnFault s0 (haltLane r.1 j w op) := rfl
    rw [exec_halt]
    refine ⟨fun hbad => frame_plain_fault h ?_, fun u hw h0 hp hu hready hgoes => frame_plain_wait h ?_⟩
    · rw [hbody, haltLane_bad hbad]
      rfl
    · have hop : op.toNat ≤ 1 := by simp [h0]
      obtain ⟨-, -, hthere⟩ := haltLane_good (s := r.1) (iss := j) hw hop
      rw [hbody, (hthere u hp (hr ▸ hu)).2.2 h0 hready hgoes]
      rfl

end Sys2Proof.Machine
end
section
/-! EXIT: the tickets of its lanes are released, the lanes retire, and a unit that has lost its last lane is gone (R144, R155, R394). -/

namespace Sys2Proof.Machine

open Sys2Proof.Spec

/-! ## A unit that is gone -/

theorem State.unit?_dropUnit (s : State) (p : Place) : (s.dropUnit p).unit? p = none := by
  simp [State.unit?, State.dropUnit, List.find?_eq_none]

/-- Without a unit at the place there is nothing to change. -/
theorem State.modUnit_absent {s : State} {p : Place} (f : Unit → Unit) (h : s.unit? p = none) : s.modUnit p f = s := by
  have hplace : ∀ u ∈ s.units, u.place ≠ p := by simpa [State.unit?, List.find?_eq_none] using h
  have hmap : s.units.map (fun u => if u.place = p then f u else u) = s.units := (List.map_congr_left fun u hu => if_neg (hplace u hu)).trans (List.map_id' _)
  rw [State.modUnit, hmap]

theorem unit?_removeUnit (s : State) (u : Unit) (why : Nat) : (removeUnit s u why).unit? u.place = none := State.unit?_dropUnit _ _

theorem unit?_exitUnit (s : State) (u : Unit) (why : Nat) : (exitUnit s u why).unit? u.place = none := unit?_removeUnit _ u why

/-- No gang is left to complete the instruction. -/
theorem complete_absent {s : State} {iss : Issue} (moved : Bool) (h : s.unit? iss.p = none) : complete s iss moved = s := State.modUnit_absent _ h

/-! ## Retired lanes -/

theorem units_freeRisers (s : State) (p : Place) (lane : Nat) : (freeRisers s p lane).units = s.units := rfl

theorem Unit.retire_live (u : Unit) (ls : List Nat) (k : Nat) : ((u.retire ls).slice k).live = (u.slice k).live &&& ~~~sliceMask ls k := by
  simp only [Unit.slice, Unit.retire, List.getD_eq_getElem?_getD, List.getElem?_map, List.getElem?_zipIdx]
  cases u.slices[k]? with
  | none => simp [blankSlice]
  | some sl => simp

theorem unit?_retireLanes {s : State} {u : Unit} (ls : List Nat) (h : s.unit? u.place = some u) : (retireLanes s u ls).unit? u.place = some (u.retire ls) := by
  have hunits : (ls.foldl (fun s l => freeRisers s u.place l) s).units = s.units := units_foldl (fun s l => units_freeRisers s u.place l) ls s
  have hfree : (ls.foldl (fun s l => freeRisers s u.place l) s).unit? u.place = some u := by rw [State.unit?, hunits, ← State.unit?, h]
  exact (State.unit?_modUnit_same (f := (Unit.retire · ls)) (fun _ => rfl)).trans (congrArg _ hfree)

theorem releaseTickets_none {s : State} {u : Unit} (ls : List Nat) (h : u.tickets = []) : releaseTickets s u (u.ticketsOf ls) = (s, none) := by
  rw [Unit.ticketsOf, h]
  rfl

/-! ## EXIT -/

/-- What R63 checks of EXIT; called: a caller awaits its reply. -/
def exitDesc (called : Bool) : Desc := { scope := called, reads := if called then [src 0 .quad] else [] }

/-- The end of EXIT: where no live lane is left, the unit is gone (R144). -/
def exitEnd (p : Place) (t : State) : Run :=
  match t.unit? p with
  | none => .ok t
  | some u => if u.liveSlices.isEmpty then .ok (exitUnit t u 0) else .ok t

/-- EXIT once its reply has room and its unit record is reached. -/
def exitGo (iss : Issue) (s : State) : Run :=
  match releaseTickets s iss.u (iss.u.ticketsOf iss.lanes) with
  | (s, some e) => .error (ticketStop e iss.lanes s)
  | (s, none) => exitEnd iss.p (retireLanes s iss.u iss.lanes)

/-- What a caller's reply needs released before it (R155). -/
def exitReleased (s : State) (iss : Issue) : State :=
  if iss.u.ident.caller.isSome then release s (whoOf s iss.u 0) (modeScope iss.u.regs.mode) else s

def exitBody (iss : Issue) (s : State) : Run :=
  if iss.u.ident.caller.isSome && outbufFull s iss.p.die iss.p.core then .error (.wait .queue iss.lanes s)
  else if recWaits s iss.u then .error (.wait .load iss.lanes s)
  else exitGo iss (exitReleased s iss)

theorem curHasCaller_of_issue {s : State} {g : Bool} {iss : Issue} (h : issueOf s g = some iss) : curHasCaller s = iss.u.ident.caller.isSome := by
  obtain ⟨ls, hls⟩ := issueOf_guard h false
  simp [curHasCaller, hls]

theorem exec_exit {s : State} {iss : Issue} (h : issueOf s true = some iss) : exec .exit s = frame s (exitDesc iss.u.ident.caller.isSome) exitBody := by
  rw [← curHasCaller_of_issue h]
  rfl

/-- The gang that has ended with its unit completes nothing more. -/
theorem exitEnd_completes {iss : Issue} {t : State} : ∃ r, exitEnd iss.p t = .ok r ∧
    complete r iss false = (match t.unit? iss.p with
      | some u => if u.liveSlices = [] then exitUnit t u 0 else complete t iss false
      | none => complete t iss false) := by
  unfold exitEnd
  cases hu : t.unit? iss.p with
  | none => exact ⟨t, rfl, rfl⟩
  | some u =>
    have hplace : u.place = iss.p := State.unit?_place hu
    by_cases hlive : u.liveSlices = []
    · refine ⟨exitUnit t u 0, if_pos (by simp [hlive]), ?_⟩
      rw [complete_absent false (hplace ▸ unit?_exitUnit t u 0)]
      exact (if_pos hlive).symm
    · exact ⟨t, if_neg (by simpa using hlive), (if_neg hlive).symm⟩

/-- Settles O28: what may hold EXIT back comes first; then its tickets are released, its lanes retire, and the unit may be gone. -/
theorem exitRetiresTheActiveLanes : Obligations.ExitRetiresTheActiveLanes := by
  intro s iss called h hunit full s1 r t
  have hplain : RunsPlain s (exitDesc called) iss := h
  have hexec : exec .exit s = frame s (exitDesc called) exitBody := exec_exit h.issue
  have hgo (hfull : full = false) (hrec : recWaits s iss.u = false) : exitBody iss s = exitGo iss s1 := by
    rw [exitBody, if_neg (by simpa [full, called] using hfull), if_neg (by simp [hrec])]
    rfl
  refine ⟨fun hfull => ?_, fun hfull hrec => ?_, fun hfull hrec => ⟨fun st hr => ?_, fun c va hr => ?_, fun hr => ⟨?_, fun u hu _ => ?_⟩⟩, fun htickets => ?_, ?_⟩
  · exact hexec ▸ frame_plain_wait hplain (if_pos hfull)
  · refine hexec ▸ frame_plain_wait hplain ?_
    rw [exitBody, if_neg (by simpa [full, called] using hfull), if_pos hrec]
  · have hpair : releaseTickets s1 iss.u (iss.u.ticketsOf iss.lanes) = (r.1, some (.wait st)) := Prod.ext rfl hr
    refine hexec ▸ frame_plain_wait hplain ?_
    rw [hgo hfull hrec, exitGo, hpair]
    rfl
  · have hpair : releaseTickets s1 iss.u (iss.u.ticketsOf iss.lanes) = (r.1, some (.flt c va)) := Prod.ext rfl hr
    refine hexec ▸ frame_plain_fault hplain ?_
    rw [hgo hfull hrec, exitGo, hpair]
    rfl
  · have hpair : releaseTickets s1 iss.u (iss.u.ticketsOf iss.lanes) = (r.1, none) := Prod.ext rfl hr
    obtain ⟨v, hv, hcomplete⟩ := exitEnd_completes (iss := iss) (t := t)
    have hbody : exitBody iss s = .ok v := by
      rw [hgo hfull hrec, exitGo, hpair]
      exact hv
    rw [hexec, frame_plain hplain rfl hbody, ends_lanes hplain rfl]
    exact congrArg _ hcomplete
  · exact State.unit?_place hu ▸ unit?_exitUnit t u 0
  · exact releaseTickets_none iss.lanes htickets
  · exact ⟨iss.u.retire iss.lanes, unit?_retireLanes iss.lanes hunit, rfl, Unit.retire_live iss.u iss.lanes⟩

end Sys2Proof.Machine
end
section
/-! CALLAT: its checks in every lane, then one task for each lane, in order (R154, R155). -/

namespace Sys2Proof.Machine

open Sys2Proof.Spec

/-- The operands of CALLAT: the register that takes the call's number over its arguments, the entries, and the target words. -/
def callOpds (d a b : Fld) : List Opd := [{ f := d, sh := .quad, rd := true, wr := true, rule := .any }, src a .pair, src b .one]

def callBody (d a b : Fld) (iss : Issue) (s0 : State) : Run :=
  let r := readAllOpds s0 iss.u false iss.lanes (callOpds d a b)
  let es := (col r.2 1).map (BitVec.ofNat 64)
  let ws := (col r.2 2).map (BitVec.ofNat 32)
  match callChecks r.1 iss.u (iss.lanes.zip (es.zip ws)) with
  | .error e => .error (e.stop iss.lanes s0)
  | .ok s =>
    match callLanes (release s (whoOf s iss.u 0) (modeScope iss.u.regs.mode)) iss.p d (iss.lanes.zip (es.zip (ws.zip (col r.2 0)))) with
    | (s, []) => .ok s
    | (s, ls) => .error (.wait .queue ls s)

/-- All checks passed and all tasks accepted. -/
theorem callBody_ok {d a b : Fld} {iss : Issue} {s0 s1 t : State} {r : State × List (List Nat)} (hr : readAllOpds s0 iss.u false iss.lanes (callOpds d a b) = r)
    (hchecks : callChecks r.1 iss.u (iss.lanes.zip (((col r.2 1).map (BitVec.ofNat 64)).zip ((col r.2 2).map (BitVec.ofNat 32)))) = .ok s1)
    (hlanes : callLanes (release s1 (whoOf s1 iss.u 0) (modeScope iss.u.regs.mode)) iss.p d
      (iss.lanes.zip (((col r.2 1).map (BitVec.ofNat 64)).zip (((col r.2 2).map (BitVec.ofNat 32)).zip (col r.2 0)))) = (t, [])) : callBody d a b iss s0 = .ok t := by
  subst hr
  simp only [callBody, hchecks, hlanes]

theorem exec_callat (s : State) (d a b : Fld) : exec (.callat d a b) s = frame s { unlogged := true, scope := true, opds := callOpds d a b } (callBody d a b) := rfl

/-! ## One task accepted -/

/-- The queue takes a lane's task, the lane gets the number of the call, and the unit counts it. -/
def sendTask (s : State) (u : Unit) (d : Fld) (q : TaskQ) (l : Nat) (t : Task) : State :=
  (writeDst (modTasks s q (· ++ [t])) u (dst d .one) [l] [u.book.calls.toNat]).modUnit u.place (fun u => u.modBook (fun b => { b with calls := b.calls + 1 }))

/-- Where every lane's task is accepted, the first lane's is, and then the others'. -/
theorem callLanes_cons {s t : State} {u : Unit} {d : Fld} {x : Nat × DWord × Word × Nat} {xs : List (Nat × DWord × Word × Nat)} (hu : s.unit? u.place = some u)
    (h : callLanes s u.place d (x :: xs) = (t, [])) :
    ∃ q task, taskTarget x.2.2.1 (decide (240 ≤ u.place.core)) = .ok q ∧ callLanes (sendTask s u d q x.1 task) u.place d xs = (t, []) := by
  obtain ⟨l, e, w, args⟩ := x
  rw [callLanes, hu] at h
  dsimp only at h ⊢
  cases hq : taskTarget w (decide (240 ≤ u.place.core)) with
  | error c => simp [hq] at h
  | ok q =>
    by_cases hfull : 64 ≤ (tasksOf s q).length
    · simp [hq, hfull] at h
    · simp only [hq, hfull, if_false] at h
      exact ⟨q, _, rfl, h⟩

theorem units_modTasks (s : State) (q : TaskQ) (f : List Task → List Task) : (modTasks s q f).units = s.units := by
  cases q <;> rfl

/-- The unit after its task has been accepted: one register written, one call counted. -/
theorem unit?_sendTask {s : State} {u : Unit} {d : Fld} (q : TaskQ) (l : Nat) (t : Task) (hd : isQ d = false) (hu : s.unit? u.place = some u) :
    ∃ v, (sendTask s u d q l t).unit? u.place = some v ∧ v.place = u.place ∧ v.book.calls = u.book.calls + 1 := by
  have hsame : (modTasks s q (· ++ [t])).unit? u.place = some u := by rw [State.unit?, units_modTasks, ← State.unit?, hu]
  have hq : isQ (dst d .one).f = false := hd
  rw [sendTask, writeDst, if_neg (by simp [hq]), State.unit?_modUnit_same (by simp), State.unit?_modUnit_same (by simp), hsame]
  exact ⟨_, rfl, rfl, rfl⟩

/-! ## The queues of tasks -/

/-- Cores of the package have places of their own. -/
theorem coreKey_inj {d c d' c' : Nat} (hc : c < 240) (hc' : c' < 240) : coreKey d c = coreKey d' c' ↔ d = d' ∧ c = c' := by
  simp only [coreKey]
  omega

/-- A target word names a core of the package. -/
theorem taskTarget_core {w : Word} {sup : Bool} {d c : Nat} (h : taskTarget w sup = .ok (.core d c)) : c < 240 := by
  unfold taskTarget at h
  dsimp only at h
  split_ifs at h with h1 h2
  all_goals cases h
  exact Nat.lt_of_not_le h2

/-- A task enters the queue of one core, or of none. -/
theorem length_tasksOf_modTasks (s : State) (q : TaskQ) (t : Task) {die core : Nat} (hc : core < 240) (hq : ∀ d c, q = .core d c → c < 240) :
    (tasksOf (modTasks s q (· ++ [t])) (.core die core)).length = (tasksOf s (.core die core)).length + if q = .core die core then 1 else 0 := by
  cases q with
  | mcc d i => rfl
  | sup d i => rfl
  | core d c =>
    by_cases hkey : coreKey die core = coreKey d c
    · obtain ⟨rfl, rfl⟩ := (coreKey_inj hc (hq _ _ rfl)).mp hkey
      simp [tasksOf, modTasks, State.core_modCore_same]
    · have hne : ¬ (d = die ∧ c = core) := fun h => hkey (by rw [h.1, h.2])
      simp [tasksOf, modTasks, State.core_modCore_other s _ hkey, hne]

theorem tasksOf_sendTask (s : State) (u : Unit) {d : Fld} (q : TaskQ) (l : Nat) (t : Task) (hd : isQ d = false) (die core : Nat) :
    tasksOf (sendTask s u d q l t) (.core die core) = tasksOf (modTasks s q (· ++ [t])) (.core die core) := by
  have hq : isQ (dst d .one).f = false := hd
  rw [sendTask, writeDst, if_neg (by simp [hq])]
  rfl

/-- The tasks of the lanes that a core's queue takes. -/
def tasksFor (p : Place) (q : TaskQ) (xs : List (Nat × DWord × Word × Nat)) : List (Nat × DWord × Word × Nat) :=
  xs.filter (fun x => decide (taskTarget x.2.2.1 (decide (240 ≤ p.core)) = .ok q))

theorem callLanes_accepted {d : Fld} (hd : isQ d = false) (xs : List (Nat × DWord × Word × Nat)) {s t : State} {u : Unit} (hu : s.unit? u.place = some u)
    (h : callLanes s u.place d xs = (t, [])) :
    (∃ v, t.unit? u.place = some v ∧ v.book.calls = u.book.calls + BitVec.ofNat 32 xs.length) ∧
    ∀ die core, core < 240 → (tasksOf t (.core die core)).length = (tasksOf s (.core die core)).length + (tasksFor u.place (.core die core) xs).length := by
  induction xs generalizing s u with
  | nil =>
    cases h
    exact ⟨⟨u, hu, by simp⟩, fun _ _ _ => rfl⟩
  | cons x xs ih =>
    obtain ⟨q, task, hq, hrest⟩ := callLanes_cons hu h
    obtain ⟨v, hv, hplace, hcalls⟩ := unit?_sendTask q x.1 task hd hu
    obtain ⟨⟨w, hw, hw'⟩, htasks⟩ := ih (hplace.symm ▸ hv) (hplace.symm ▸ hrest)
    rw [hplace] at hw htasks
    refine ⟨⟨w, hw, ?_⟩, fun die core hc => ?_⟩
    · rw [hw', hcalls, List.length_cons, BitVec.ofNat_add, BitVec.add_assoc, BitVec.add_comm 1]
      rfl
    · have hcount : (tasksFor u.place (.core die core) (x :: xs)).length = (if q = .core die core then 1 else 0) + (tasksFor u.place (.core die core) xs).length := by
        rw [tasksFor, List.filter_cons, hq]
        by_cases hmine : q = .core die core
        · simp [hmine, tasksFor, Nat.add_comm]
        · simp [hmine, tasksFor]
      rw [htasks die core hc, tasksOf_sendTask s u q x.1 task hd, length_tasksOf_modTasks s q task hc (fun _ _ h => taskTarget_core (h ▸ hq)), hcount, Nat.add_assoc]

/-- Settles O32: the checks of every lane, the release, and the tasks in order, each of which the unit counts. -/
theorem callatSendsTasks : Obligations.CallatSendsTasks := by
  refine ⟨?_, fun s p d xs t u hd hu h => ?_⟩
  · intro s d a b iss s0 j fin s1 t os h r es ws hchecks hlanes
    obtain ⟨-, -, hunit, -⟩ := acts_issue h
    rw [exec_callat]
    refine frame_acts h rfl ?_
    obtain ⟨ju, jg, jis, jpc, ls⟩ := j
    obtain rfl : ju = iss.u := hunit
    exact callBody_ok rfl hchecks hlanes
  · obtain rfl := State.unit?_place hu
    obtain ⟨hcalls, htasks⟩ := callLanes_accepted hd xs hu h
    exact ⟨hcalls, fun die core _ hc => htasks die core hc⟩

end Sys2Proof.Machine
end
section
/-! FORK: its record enters a launch queue, and the unit is saved past it (R153, R279, R285). -/

namespace Sys2Proof.Machine

open Sys2Proof.Spec

/-! ## Saving a unit that is in no transaction -/

theorem Unit.doomedIn_noTx {u : Unit} (h : u.tx = []) (i : Nat) : u.doomedIn i = 0 := by
  simp [Unit.doomedIn, h, sliceMask]

theorem Unit.toTxe_noTx {u : Unit} (h : u.tx = []) (i : Nat) : u.toTxe i = u := by
  rw [Unit.toTxe_eq, if_neg (fun hd => hd.2.2 (u.doomedIn_noTx h i))]

theorem Unit.foldl_toTxe_noTx {u : Unit} (h : u.tx = []) (is : List Nat) : is.foldl Unit.toTxe u = u := by
  induction is with
  | nil => rfl
  | cons i is ih => rw [List.foldl_cons, Unit.toTxe_noTx h, ih]

theorem Regrouped.foldl {f : Unit → Nat → Unit} (hf : ∀ u x, Regrouped u (f u x)) (xs : List Nat) (u : Unit) : Regrouped u (xs.foldl f u) := by
  induction xs generalizing u with
  | nil => exact .refl u
  | cons x xs ih => exact (hf u x).trans (ih _)

theorem regrouped_modBook (u : Unit) {f : Book → Book} (h : (f u.book).retired = u.book.retired) : Regrouped u (u.modBook f) :=
  ⟨sequenced_modBook u h, fun _ => rfl, fun _ => rfl⟩

theorem regrouped_pruneSleeps (u : Unit) : Regrouped u u.pruneSleeps := by
  unfold Unit.pruneSleeps
  split
  · exact .refl u
  · exact regrouped_modBook u rfl

/-- Without transactions no slice goes to a TXE; gangs at most part. -/
theorem regrouped_doomGo {u : Unit} (h : u.tx = []) : Regrouped u u.doomGo := by
  unfold Unit.doomGo
  rw [Unit.foldl_toTxe_noTx h]
  exact ((Regrouped.foldl regrouped_split _ _).trans (regrouped_normalise _)).trans (regrouped_pruneSleeps _)

theorem sequenced_doomGo (u : Unit) : Sequenced u u.doomGo :=
  (Sequenced.foldl sequenced_toTxe _ _).trans
    (((Regrouped.foldl regrouped_split _ _).trans (regrouped_normalise _)).trans (regrouped_pruneSleeps _)).toSequenced

/-- The transactions of u that a save dooms are not counted (R223). -/
def Unit.uncount (u x : Unit) : Unit :=
  { x with tx := x.tx.map (fun (q : Nat × LaneTx) => if u.txLanes.contains q.1 then (q.1, { q.2 with uncounted := true }) else q) }

theorem unit?_doomForSave {s : State} {p : Place} {u : Unit} (hu : s.unit? p = some u) (h : u.tx = []) :
    ∃ v, (doomForSave s p).unit? p = some v ∧ Regrouped u v := by
  have hdoomed : doomForSave s p = s.modUnit p (fun x => (u.uncount x).doomGo) := by
    have hnone : u.txLanes = [] := by simp [Unit.txLanes, h]
    simp only [doomForSave, hu]
    rw [hnone]
    simp only [doomLanes_nil, Unit.uncount, hnone]
  have hsame : u.uncount u = u := by
    obtain ⟨place, ident, regs, slices, tx, tickets, ctl, book⟩ := u
    obtain rfl : tx = [] := h
    rfl
  refine ⟨u.doomGo, ?_, regrouped_doomGo h⟩
  have hplace : ∀ x : Unit, ((u.uncount x).doomGo).place = x.place := fun x => (sequenced_doomGo _).place
  rw [hdoomed, State.unit?_modUnit_same hplace, hu, Option.map_some, hsame]

/-! ## What leaving the queues keeps of the dispatcher -/

/-- The dispatcher's part of every die is as it was, and no die is added or lost. -/
structure DispSame (s t : State) : Prop where
  disp : ∀ d, (t.die d).disp = (s.die d).disp
  dies : t.dies.length = s.dies.length

theorem DispSame.of_dies {s t : State} (h : t.dies = s.dies) : DispSame s t := ⟨fun d => by rw [State.die, State.die, h], by rw [h]⟩

theorem DispSame.trans {s t r : State} (h : DispSame s t) (h' : DispSame t r) : DispSame s r := ⟨fun d => (h'.disp d).trans (h.disp d), h'.dies.trans h.dies⟩

theorem DispSame.map {s t : State} {f : Die → Die} (h : t.dies = s.dies.map f) (hf : ∀ x, (f x).disp = x.disp) : DispSame s t where
  disp d := by
    rw [State.die, State.die, h, List.getD_eq_getElem?_getD, List.getD_eq_getElem?_getD, List.getElem?_map]
    cases s.dies[d]? with
    | none => rfl
    | some x => exact hf x
  dies := by rw [h, List.length_map]

theorem DispSame.modDie (s : State) (d : Nat) {f : Die → Die} (hf : ∀ x, (f x).disp = x.disp) : DispSame s (s.modDie d f) where
  disp e := by
    rw [State.die, State.modDie, getD_modAt]
    split
    · next h => rw [hf, h.1]; rfl
    · rfl
  dies := length_modAt ..

theorem dispSame_modSup (s : State) (d i : Nat) (f : SupCore → SupCore) : DispSame s (s.modSup d i f) :=
  .modDie s d (f := fun x => { x with sups := modAt x.sups i f }) (fun _ => rfl)

theorem dispSame_leaveQueues (s : State) (p : Place) (mine : QWait → Bool) : DispSame s (leaveQueues s p mine) := by
  unfold leaveQueues
  dsimp only
  split
  · exact .of_dies rfl
  · exact .trans (.of_dies (State.modUnit_dies ..)) (dispSame_modSup ..)

theorem dispSame_leaveEngine (s : State) (p : Place) : DispSame s (leaveEngine s p) := by
  unfold leaveEngine
  split <;> exact .of_dies rfl

theorem dispSame_dropQWaits (s : State) (p : Place) : DispSame s (dropQWaits s p) := by
  unfold dropQWaits
  dsimp only
  refine .trans (.trans (.trans (.map rfl (fun x => ?_)) (.of_dies (State.modUnit_dies ..))) (dispSame_leaveQueues ..)) (dispSame_leaveEngine ..)
  rfl

/-- The dispatcher of the die keeps v of the unit at p, which leaves every queue and the machine. -/
def leaveSaved (s : State) (p : Place) (v : Dispatcher → Saved) : State :=
  let t := s.modDisp p.die (fun d => { d with saved := d.saved ++ [v d] })
  { (dropQWaits t p).dropUnit p with seq := t.seq + 1 }

theorem mem_leaveSaved {s : State} {p : Place} (v : Dispatcher → Saved) (h : p.die < (leaveSaved s p v).dies.length) :
    v (s.die p.die).disp ∈ ((leaveSaved s p v).die p.die).disp.saved := by
  have hdrop := dispSame_dropQWaits (s.modDisp p.die (fun d => { d with saved := d.saved ++ [v d] })) p
  have hdies : (leaveSaved s p v).dies.length = s.dies.length := hdrop.dies.trans (length_modAt ..)
  have hlen : p.die < s.dies.length := hdies ▸ h
  have hdisp : ((leaveSaved s p v).die p.die).disp = _ := hdrop.disp p.die
  rw [hdisp, State.modDisp, State.die_modDie_same s _ hlen]
  simp

theorem unit?_leaveSaved (s : State) (p : Place) (v : Dispatcher → Saved) : (leaveSaved s p v).unit? p = none := State.unit?_dropUnit _ p

/-- A unit that is saved is no longer at its place; the dispatcher keeps it as it stands, with its gangs at most parted (R285). -/
theorem saveUnit_saved {s : State} {p : Place} {u : Unit} (h : CtxHdr) (fork : Option DWord) (hu : s.unit? p = some u) (htx : u.tx = []) :
    ∃ w since stale, (saveUnit s h p fork).unit? p = none ∧ Regrouped u w ∧
      (p.die < (saveUnit s h p fork).dies.length → savedUnit w h.slot since fork stale ∈ ((saveUnit s h p fork).die p.die).disp.saved) := by
  obtain ⟨v, hv, huv⟩ := unit?_doomForSave hu htx
  obtain ⟨f, hf, hw⟩ := (bookOnly_dropJob (doomForSave s p) v).own
  rw [State.unit?_place hv, hv] at hw
  have hsave : ∃ (t : State) (since : Nat) (stale : Dispatcher → Nat), saveUnit s h p fork = leaveSaved t p (fun d => savedUnit (v.modBook f) h.slot since fork (stale d)) := by
    simp only [saveUnit, hv, hw]
    exact ⟨_, _, _, rfl⟩
  obtain ⟨t, since, stale, heq⟩ := hsave
  exact heq ▸ ⟨v.modBook f, since, stale _, unit?_leaveSaved .., huv.trans (regrouped_modBook v (hf _).1), mem_leaveSaved _⟩

/-! ## The unit from the FORK to its save -/

/-- Slices that a change of some of them leaves alike in a respect g are alike in it all through. -/
theorem getD_foldl_modAt_same {α β : Type} (g : α → β) {f : Nat → α → α} (hf : ∀ i x, g (f i x) = g x) (is : List Nat) (xs : List α) (dflt : α) (k : Nat) :
    g ((is.foldl (fun ys i => modAt ys i (f i)) xs).getD k dflt) = g (xs.getD k dflt) := by
  induction is generalizing xs with
  | nil => rfl
  | cons i is ih =>
    rw [List.foldl_cons, ih, getD_modAt]
    split
    · next h => rw [hf, h.1]
    · rfl

/-- The counts of passes are no part of a slice's course. -/
def Slice.course (sl : Slice) : Slice := { sl with passes := [] }

/-- The unit that has noted that its gang has passed a uniform instruction differs in the slices' counts and in its book alone. -/
structure SameCourse (u v : Unit) : Prop extends Regrouped u v where
  course : ∀ k, (v.slice k).course = (u.slice k).course

theorem SameCourse.refl (u : Unit) : SameCourse u u := ⟨.refl u, fun _ => rfl⟩

/-- The unit in which a gang has executed a uniform instruction. -/
def Unit.ranOnce (iss : Issue) (v : DWord) (u : Unit) : Unit :=
  ({ u with slices := iss.slices.foldl (fun ss i => modAt ss i (fun sl => { sl with passes := smPut sl.passes iss.pc.toNat (iss.pass + 1) })) u.slices } : Unit).modBook
    (fun b => { b with udone := { strand := iss.strand, pc := iss.pc.toNat, n := iss.pass, val := v } :: b.udone })

theorem sameCourse_ranOnce (iss : Issue) (v : DWord) (u : Unit) : SameCourse u (u.ranOnce iss v) := by
  have hcourse (k : Nat) : ((u.ranOnce iss v).slice k).course = (u.slice k).course :=
    getD_foldl_modAt_same Slice.course (f := fun _ sl => { sl with passes := smPut sl.passes iss.pc.toNat (iss.pass + 1) }) (fun _ _ => rfl) iss.slices u.slices blankSlice k
  have hlive (k : Nat) : ((u.ranOnce iss v).slice k).live = (u.slice k).live := (congrArg Slice.live (hcourse k) :)
  have hpc (k : Nat) : ((u.ranOnce iss v).slice k).pc = (u.slice k).pc := (congrArg Slice.pc (hcourse k) :)
  have hactive (k : Nat) : ((u.ranOnce iss v).slice k).active = (u.slice k).active := (congrArg Slice.active (hcourse k) :)
  exact ⟨⟨⟨rfl, rfl, rfl, rfl, rfl, rfl, rfl, hlive⟩, hpc, hactive⟩, hcourse⟩

/-- What FORK makes of the state before the gang completes it: a wave's strand has now executed it. -/
def forkNoted (s : State) (iss : Issue) : State := drainOwn (if iss.u.isWave then recordShared (countPass s iss) iss 0 else s) iss.u

theorem units_drainOut (s : State) (die core : Nat) (p : Item → Bool) : (drainOut s die core p).units = s.units := by
  unfold drainOut
  dsimp only
  split
  · rfl
  · unfold modOutbuf
    split <;> rfl

theorem unit?_forkNoted {s : State} {iss : Issue} {u : Unit} (hu : s.unit? iss.p = some u) : ∃ v, (forkNoted s iss).unit? iss.p = some v ∧ SameCourse u v := by
  have hdrain (t : State) : (drainOwn t iss.u).unit? iss.p = t.unit? iss.p := by rw [State.unit?, drainOwn, units_drainOut, State.unit?]
  rw [forkNoted, hdrain]
  split
  · refine ⟨u.ranOnce iss 0, ?_, sameCourse_ranOnce iss 0 u⟩
    have hnoted : recordShared (countPass s iss) iss 0 = s.modUnit iss.p (Unit.ranOnce iss 0) := State.modUnit_modUnit s iss.p _ (fun _ => rfl)
    rw [hnoted, State.unit?_modUnit_same (f := Unit.ranOnce iss 0) (fun _ => rfl), hu]
    rfl
  · exact ⟨u, hu, .refl u⟩

/-- The unit whose gang has completed: the slices of the gang without stack entries are at the next instruction, the others where they were. -/
theorem finish_pcs (iss : Issue) (u : Unit) (hd : iss.slices.Nodup) :
    (∀ k ∈ iss.slices, (u.slice k).Plain → ((finish iss false u).slice k).pc = (u.slice k).pc + 4) ∧
    (∀ k, k ∉ iss.slices → ((finish iss false u).slice k).pc = (u.slice k).pc) := by
  refine ⟨fun k hk hplain => (finish_plain iss hk hd hplain).1, fun k hk => ?_⟩
  have hkeep : (retireOne iss (iss.slices.foldl (advanceSlice iss false) u)).slice k = u.slice k := advanceSlices_other iss false u hk
  rw [(regrouped_finish iss false u).pc, hkeep]

/-- Two states of one unit, with the registers and the transactions unchanged. -/
structure SameUnit (u v : Unit) : Prop where
  place : v.place = u.place
  ident : v.ident = u.ident
  regs : v.regs = u.regs
  tx : v.tx = u.tx

theorem SameUnit.trans {u v w : Unit} (h : SameUnit u v) (h' : SameUnit v w) : SameUnit u w :=
  ⟨h'.place.trans h.place, h'.ident.trans h.ident, h'.regs.trans h.regs, h'.tx.trans h.tx⟩

theorem Sequenced.sameUnit {u v : Unit} (h : Sequenced u v) : SameUnit u v := ⟨h.place, h.ident, h.regs, h.tx⟩

theorem sameUnit_finish (iss : Issue) (moved : Bool) (u : Unit) : SameUnit u (finish iss moved u) := by
  have hadv := (sequenced_advanceSlices iss moved u).sameUnit
  have hone : SameUnit (iss.slices.foldl (advanceSlice iss moved) u) (retireOne iss (iss.slices.foldl (advanceSlice iss moved) u)) := ⟨rfl, rfl, rfl, rfl⟩
  exact (hadv.trans hone).trans (regrouped_finish iss moved u).sameUnit

/-- What FORK does once its record is in its queue: the gang completes it, and the unit is saved, waiting for its counter. -/
def forkSaved (s : State) (iss : Issue) (h : CtxHdr) (c : DWord) : State := saveUnit (complete (forkNoted s iss) iss false) h iss.p (some c)

theorem forkSaved_keeps {s : State} {iss : Issue} {u : Unit} (h : CtxHdr) (c : DWord) (hu : s.unit? iss.p = some u) (htx : u.tx = []) (hd : iss.slices.Nodup) :
    ∃ w since stale, (forkSaved s iss h c).unit? iss.p = none ∧ SameUnit u w ∧
      (iss.p.die < (forkSaved s iss h c).dies.length → savedUnit w h.slot since (some c) stale ∈ ((forkSaved s iss h c).die iss.p.die).disp.saved) ∧
      (∀ k ∈ iss.slices, (u.slice k).live ≠ 0 → (u.slice k).active ≠ 0 → (u.slice k).rstack = [] → (u.slice k).lstack = [] → (w.slice k).pc = (u.slice k).pc + 4) ∧
      (∀ k, k ∉ iss.slices → (w.slice k).pc = (u.slice k).pc) := by
  obtain ⟨v, hv, hcourse⟩ := unit?_forkNoted hu
  have hfinish : (complete (forkNoted s iss) iss false).unit? iss.p = some (finish iss false v) :=
    (State.unit?_modUnit_same (finish_place iss false)).trans (congrArg (Option.map _) hv)
  have hsame : SameUnit u (finish iss false v) := hcourse.sameUnit.trans (sameUnit_finish iss false v)
  obtain ⟨w, since, stale, hgone, hreg, hmem⟩ := saveUnit_saved h (some c) hfinish (hsame.tx.trans htx)
  obtain ⟨hpast, hother⟩ := finish_pcs iss v hd
  refine ⟨w, since, stale, hgone, hsame.trans hreg.sameUnit, hmem, fun k hk hlive hactive hr hl => ?_, fun k hk => ?_⟩
  · have hk' := hcourse.course k
    have hplain : (v.slice k).Plain := ⟨hcourse.live k ▸ hlive, hcourse.active k ▸ hactive, (congrArg Slice.rstack hk' :).trans hr, (congrArg Slice.lstack hk' :).trans hl⟩
    rw [hreg.pc, hpast k hk hplain, hcourse.pc]
  · rw [hreg.pc, hother k hk, hcourse.pc]

/-! ## FORK -/

/-- The operand of FORK, of uniform class in a wave, and what R63 checks of it. -/
def forkOpd (wave : Bool) (a : Fld) : Opd := if wave then (src a .pair).must .uniform else src a .pair
def forkDesc (wave : Bool) (a : Fld) : Desc := { engines := .notSup, unlogged := true, opds := [forkOpd wave a], perGang := true, always := wave }

def forkBody (o : Opd) (iss : Issue) (s0 : State) : Run :=
  if iss.u.isWave && (iss.shared.isSome || iss.lanes.isEmpty) then .ok (countPass s0 iss)
  else
    let r := readAllOpds s0 iss.u false (iss.lanes.take 1) [o]
    let va : DWord := BitVec.ofNat 64 ((col r.2 0).headD 0)
    if va.toNat % 64 ≠ 0 then .error (.flt (faultVa .align va) iss.lanes s0) else forkUnit r.1 iss va

theorem exec_fork {s : State} {iss : Issue} (a : Fld) (h : issueOf s true = some iss) :
    exec (.fork a) s = frame s (forkDesc iss.u.isWave a) (forkBody (forkOpd iss.u.isWave a)) := by
  rw [← curIsWave_of_issue h]
  rfl

/-- What the record of FORK must be: in a context that the dispatcher knows, valid, with room to watch its counter, and no ticket holds the unit back. -/
structure ForkReady (s : State) (iss : Issue) (va : DWord) (h : CtxHdr) (x : LRec) (s2 : State) : Prop where
  ctx : ctxOf (needCtx s iss.p.die iss.u.ident.asid) iss.p.die iss.u.ident.asid = some h
  ready : ∃ s1, readRec (needCtx s iss.p.die iss.u.ident.asid) (whoOf (needCtx s iss.p.die iss.u.ident.asid) iss.u (iss.lanes.headD 0)) iss.p.die iss.u.ident.asid va.toNat
      = .ok (s1, some x) ∧ deviceWaits s1 = false ∧ canWatch s1 iss.p.die iss.u.ident.asid x.done = true ∧ releaseTickets s1 iss.u iss.u.tickets = (s2, none)

theorem forkUnit_ready {s s2 : State} {iss : Issue} {va : DWord} {h : CtxHdr} {x : LRec} (hr : ForkReady s iss va h x s2) :
    forkUnit s iss va = match forkEnqueue (release s2 (whoOf s2 iss.u 0) 2) iss.p.die h x.prio va with
      | .error e => .error (e.stop iss.lanes s2)
      | .ok s3 => .ok (forkSaved s3 iss h x.done) := by
  obtain ⟨s1, hrec, hdev, hwatch, htickets⟩ := hr.ready
  have hgo : ¬ ((deviceWaits s1 || !canWatch s1 iss.p.die iss.u.ident.asid x.done) = true) := by simp [hdev, hwatch]
  have hctx := hr.ctx
  unfold Issue.p at hctx hrec hgo
  simp only [forkUnit, hctx, hrec, if_neg hgo, htickets]
  rfl

/-- The ring is full, or takes the record (R266, R279). -/
theorem forkEnqueue_full {s : State} {die : Nat} {h : CtxHdr} {prio : Nat} {va : DWord} (hfull : 2 ^ (readQueue s die h.slot prio).lsize ≤ (readQueue s die h.slot prio).count) :
    forkEnqueue s die h prio va = .error (.wait .structural) := if_pos hfull

theorem forkEnqueue_room {s m m' : State} {die : Nat} {h : CtxHdr} {prio : Nat} {va : DWord} (hroom : (readQueue s die h.slot prio).count < 2 ^ (readQueue s die h.slot prio).lsize)
    (hentry : sysWrite s (dispWho die h.asid) ((readQueue s die h.slot prio).entryVa (readQueue s die h.slot prio).tail) 8 va.toNat = .ok m)
    (htail : sysWrite m (ctxWho m die) (lqVa m die h.slot prio + 0x18) 4 (((readQueue s die h.slot prio).tail + 1) % 2 ^ 32) = .ok m') :
    forkEnqueue s die h prio va = .ok (addBell m' die h.slot prio) := by
  rw [forkEnqueue, if_neg (Nat.not_le.mpr hroom), hentry]
  simp only [htail]

/-- The body of FORK in a lane that reads an aligned VA, where no other gang of the strand has executed it. -/
theorem forkBody_aligned {o : Opd} {iss : Issue} {s0 : State} (hshared : iss.u.isWave = true → iss.shared = none) (hl : iss.lanes ≠ [])
    (hva : (BitVec.ofNat 64 ((col (readAllOpds s0 iss.u false (iss.lanes.take 1) [o]).2 0).headD 0)).toNat % 64 = 0) :
    forkBody o iss s0 = forkUnit (readAllOpds s0 iss.u false (iss.lanes.take 1) [o]).1 iss (BitVec.ofNat 64 ((col (readAllOpds s0 iss.u false (iss.lanes.take 1) [o]).2 0).headD 0)) := by
  rw [forkBody, if_neg (by simpa [hl] using hshared)]
  exact if_neg (not_not.mpr hva)

theorem forkBody_misaligned {o : Opd} {iss : Issue} {s0 : State} (hshared : iss.u.isWave = true → iss.shared = none) (hl : iss.lanes ≠ [])
    (hva : (BitVec.ofNat 64 ((col (readAllOpds s0 iss.u false (iss.lanes.take 1) [o]).2 0).headD 0)).toNat % 64 ≠ 0) :
    forkBody o iss s0 = .error (.flt (faultVa .align (BitVec.ofNat 64 ((col (readAllOpds s0 iss.u false (iss.lanes.take 1) [o]).2 0).headD 0))) iss.lanes s0) := by
  rw [forkBody, if_neg (by simpa [hl] using hshared)]
  exact if_pos hva

/-- Settles O31: the record enters its ring or finds it full; the unit that is saved is the one that stood at the place, with its gang past the FORK. -/
theorem forkSuspendsTheUnit : Obligations.ForkSuspendsTheUnit := by
  intro s a iss s0 j fin hshared hl oa d r va
  refine ⟨?_, ?_⟩
  · intro h s1 x s2 s3 u hacts hva s' hctx hrec hdev hwatch htickets f
    obtain ⟨rfl, rfl⟩ := acts_perGang hacts rfl
    have hissue : issueOf s true = some j := (acts_issue hacts).1
    have hready : ForkReady r.1 j va h x s2 := ⟨hctx, s1, hrec, hdev, hwatch, htickets⟩
    have hbody : forkBody (forkOpd j.u.isWave a) j s0 = forkUnit r.1 j va := forkBody_aligned hshared hl hva
    refine ⟨fun hput hu htx hd => ?_, ?_⟩
    · obtain ⟨w, since, stale, hgone, hsame, hmem, hpast, hother⟩ := forkSaved_keeps h x.done hu htx hd
      have hok : forkBody (forkOpd j.u.isWave a) j s0 = .ok (forkSaved s3 j h x.done) := by
        rw [hbody, forkUnit_ready hready, hput]
      have hprio : (savedUnit w h.slot since (some x.done) stale).prio = if u.isWave then u.ident.prio else 0 := by
        rw [savedUnit, Unit.isWave, Unit.isWave, hsame.ident]
      refine ⟨forkSaved s3 j h x.done, savedUnit w h.slot since (some x.done) stale, w, (exec_fork a hissue).trans (frame_acts hacts rfl hok), hgone, hmem, ?_, ?_, ?_, rfl, rfl, hprio, rfl, hsame.regs, hpast, hother⟩
      · exact congrArg Ident.asid hsame.ident
      · exact congrArg Ident.serial hsame.ident
      · exact hsame.place.trans (State.unit?_place hu)
    · rintro q rfl
      refine ⟨fun hruns hs _ hfull => ?_, fun hroom m m' hentry htail => forkEnqueue_room hroom hentry htail⟩
      have hwait : forkBody (forkOpd j.u.isWave a) j s = .error (.wait .structural j.lanes s2) := by
        rw [← hs, hbody, forkUnit_ready hready, forkEnqueue_full hfull]
        rfl
      exact (exec_fork a hissue).trans (frame_plain_wait hruns hwait)
  · rintro hruns rfl rfl hva
    exact (exec_fork a hruns.issue).trans (frame_plain_fault hruns (forkBody_misaligned hshared hl hva))

end Sys2Proof.Machine
end
section
/-! The lanes of a slice through its branches and its stack entries: none is lost or doubled (R132, R134, R135, R137 to R139). -/

namespace Sys2Proof.Machine

open Sys2Proof.Spec

/-! ## Unions of masks -/

theorem getLsbD_foldl_or {α : Type} (f : α → BitVec 4) (xs : List α) (a : BitVec 4) (b : Nat) :
    (xs.foldl (fun m x => m ||| f x) a).getLsbD b = (a.getLsbD b || xs.any (fun x => (f x).getLsbD b)) := by
  induction xs generalizing a with
  | nil => simp
  | cons x xs ih => rw [List.foldl_cons, ih, BitVec.getLsbD_or, List.any_cons, Bool.or_assoc]

/-- A lane waits where it is in some entry (R135). -/
theorem Slice.getLsbD_waiting (sl : Slice) (b : Nat) : sl.waiting.getLsbD b = sl.rstack.any (fun e => e.mask.getLsbD b) := by
  exact (getLsbD_foldl_or REntry.mask sl.rstack 0 b).trans (by simp)

/-- Two masks without a common lane. -/
theorem and_eq_zero_iff {x y : BitVec 4} : x &&& y = 0 ↔ ∀ b, x.getLsbD b = true → y.getLsbD b = false := by
  constructor
  · intro h b hx
    have hb := congrArg (fun z : BitVec 4 => z.getLsbD b) h
    simpa [hx] using hb
  · intro h
    refine BitVec.eq_of_getLsbD_eq fun b _ => ?_
    cases hx : x.getLsbD b with
    | false => simp [hx]
    | true => simp [h b hx]

/-- A mask within another. -/
theorem and_not_eq_zero_iff {x y : BitVec 4} : x &&& ~~~y = 0 ↔ ∀ b, x.getLsbD b = true → y.getLsbD b = true := by
  rw [and_eq_zero_iff]
  refine forall_congr' fun b => ⟨fun h hx => ?_, fun h hx => by simp [h hx]⟩
  have hlt : b < 4 := BitVec.lt_of_getLsbD hx
  simpa [hlt] using h hx

theorem exists_lane_of_ne_zero {m : BitVec 4} (h : m ≠ 0) : ∃ b, m.getLsbD b = true := by
  by_contra hno
  exact h (BitVec.eq_of_getLsbD_eq fun b _ => by simpa using fun hb => hno ⟨b, hb⟩)

/-! ## Target groups (R134) -/

theorem getLsbD_laneBit (l b : Nat) : (laneBit l).getLsbD b = true ↔ l % 4 = b := by
  have hl : l % 4 < 4 := Nat.mod_lt _ (by decide)
  unfold laneBit
  rw [BitVec.getLsbD_ofNat, Nat.testBit_two_pow, Bool.and_eq_true, decide_eq_true_eq, decide_eq_true_eq]
  omega

/-- The groups of these lanes by their targets, all lanes of one slice. -/
structure GroupsOf (xs : List (Nat × DWord)) (gs : List (DWord × BitVec 4)) : Prop where
  targets : (gs.map (·.1)).Nodup
  lanes : ∀ g ∈ gs, ∀ b, g.2.getLsbD b = true ↔ ∃ l, (l, g.1) ∈ xs ∧ l % 4 = b
  covers : ∀ x ∈ xs, ∃ g ∈ gs, g.1 = x.2

theorem map_fst_addLane (gs : List (DWord × BitVec 4)) (t : DWord) (m : BitVec 4) :
    (gs.map (fun g => if g.1 = t then (g.1, g.2 ||| m) else g)).map (·.1) = gs.map (·.1) := by
  rw [List.map_map]
  exact List.map_congr_left fun g _ => by
    show (if g.1 = t then (g.1, g.2 ||| m) else g).1 = g.1
    split <;> rfl

/-- A lane enters the group of its target, or a group of its own. -/
theorem GroupsOf.addGroup {xs : List (Nat × DWord)} {gs : List (DWord × BitVec 4)} (h : GroupsOf xs gs) (l : Nat) (t : DWord) :
    GroupsOf (xs ++ [(l, t)]) (addGroup gs t (laneBit l)) := by
  unfold Machine.addGroup
  split
  case isTrue hany =>
    obtain ⟨g0, hg0, rfl⟩ : ∃ g ∈ gs, g.1 = t := by simpa using hany
    refine ⟨(map_fst_addLane gs g0.1 _).symm ▸ h.targets, ?_, fun x hx => ?_⟩
    · intro g' hg' b
      obtain ⟨g, hg, rfl⟩ := List.mem_map.mp hg'
      split
      · next heq =>
        simp only [BitVec.getLsbD_or, Bool.or_eq_true, h.lanes g hg, getLsbD_laneBit, heq, List.mem_append, List.mem_singleton, Prod.mk.injEq]
        grind
      · next hne =>
        rw [h.lanes g hg]
        simp [hne]
    · have htarget : x.2 ∈ gs.map (·.1) := by
        rcases List.mem_append.mp hx with hx | hx
        · obtain ⟨g, hg, hx⟩ := h.covers x hx
          exact hx ▸ List.mem_map_of_mem hg
        · obtain rfl := List.mem_singleton.mp hx
          exact List.mem_map_of_mem hg0
      rw [← map_fst_addLane gs g0.1 (laneBit l)] at htarget
      exact List.mem_map.mp htarget
  case isFalse hany =>
    have hnew : ∀ g ∈ gs, g.1 ≠ t := fun g hg heq => hany (List.any_eq_true.mpr ⟨g, hg, decide_eq_true heq⟩)
    have hfresh : ∀ x ∈ xs, x.2 ≠ t := fun x hx => by
      obtain ⟨g, hg, hgx⟩ := h.covers x hx
      exact hgx ▸ hnew g hg
    refine ⟨?_, ?_, ?_⟩
    · rw [List.map_append, List.nodup_append]
      refine ⟨h.targets, List.nodup_singleton _, fun a ha b hb => ?_⟩
      obtain ⟨g, hg, rfl⟩ := List.mem_map.mp ha
      obtain rfl : b = t := by simpa using hb
      exact hnew g hg
    · intro g hg b
      rcases List.mem_append.mp hg with hg | hg
      · rw [h.lanes g hg]
        simp [hnew g hg]
      · obtain rfl := List.mem_singleton.mp hg
        rw [getLsbD_laneBit]
        grind
    · intro x hx
      rcases List.mem_append.mp hx with hx | hx
      · obtain ⟨g, hg, hgx⟩ := h.covers x hx
        exact ⟨g, List.mem_append_left _ hg, hgx⟩
      · obtain rfl := List.mem_singleton.mp hx
        exact ⟨_, List.mem_append_right _ (List.mem_singleton_self _), rfl⟩

theorem GroupsOf.foldl {xs : List (Nat × DWord)} {gs : List (DWord × BitVec 4)} (h : GroupsOf xs gs) (ys : List (Nat × DWord)) :
    GroupsOf (xs ++ ys) (ys.foldl (fun gs x => Machine.addGroup gs x.2 (laneBit x.1)) gs) := by
  induction ys generalizing xs gs with
  | nil => simpa using h
  | cons y ys ih => simpa using ih (h.addGroup y.1 y.2)

/-- The lanes of slice i among those that branch. -/
def lanesOfSlice (i : Nat) (ts : List (Nat × DWord)) : List (Nat × DWord) := ts.filter (fun x => decide (laneSlice x.1 = i))

theorem groupsOf_targetGroups (i : Nat) (ts : List (Nat × DWord)) : GroupsOf (lanesOfSlice i ts) (targetGroups i ts) := by
  have hnone : GroupsOf [] [] := ⟨List.nodup_nil, nofun, nofun⟩
  exact hnone.foldl (lanesOfSlice i ts)

theorem GroupsOf.distinct {xs : List (Nat × DWord)} {gs : List (DWord × BitVec 4)} (h : GroupsOf xs gs) : gs.Pairwise (fun g g' => g.1 ≠ g'.1) :=
  List.pairwise_map.mp h.targets

/-- The groups are apart where no lane branches twice. -/
theorem targetGroups_apart (i : Nat) {ts : List (Nat × DWord)} (h : (ts.map (·.1)).Nodup) : (targetGroups i ts).Pairwise (fun g g' => g.2 &&& g'.2 = 0) := by
  have hgs := groupsOf_targetGroups i ts
  refine hgs.distinct.imp_of_mem fun {g g'} hg hg' hne => and_eq_zero_iff.mpr fun b hb => ?_
  by_contra hb'
  obtain ⟨l, hl, hlb⟩ := (hgs.lanes g hg b).mp hb
  obtain ⟨l', hl', hlb'⟩ := (hgs.lanes g' hg' b).mp (by simpa using hb')
  obtain ⟨hl, hli⟩ := List.mem_filter.mp hl
  obtain ⟨hl', hli'⟩ := List.mem_filter.mp hl'
  have hsame : l = l' := by
    have hslice : l / 4 = l' / 4 := (of_decide_eq_true hli).trans (of_decide_eq_true hli').symm
    omega
  exact hne (congrArg Prod.snd (List.inj_on_of_nodup_map h hl hl' hsame))

/-! ## The order of the groups -/

theorem lowBit_laneBit (l : Nat) : lowBit (laneBit l) = l % 4 := by
  have hone : ∀ b : Fin 4, lowBit (BitVec.ofNat 4 (2 ^ b.val)) = b.val := by decide
  exact hone ⟨l % 4, Nat.mod_lt _ (by decide)⟩

/-- A higher lane does not change which lane of a group is lowest. -/
theorem lowBit_or_laneBit {m : BitVec 4} {l : Nat} (h : lowBit m < l % 4) : lowBit (m ||| laneBit l) = lowBit m := by
  have hone : ∀ (m : BitVec 4) (b : Fin 4), lowBit m < b.val → lowBit (m ||| BitVec.ofNat 4 (2 ^ b.val)) = lowBit m := by decide
  exact hone m ⟨l % 4, Nat.mod_lt _ (by decide)⟩ h

/-- The groups stand in the order of their lowest lanes, all below the lanes to come. -/
structure OrderedBelow (gs : List (DWord × BitVec 4)) (xs : List (Nat × DWord)) : Prop where
  ordered : gs.Pairwise (fun g g' => lowBit g.2 < lowBit g'.2)
  below : ∀ g ∈ gs, ∀ x ∈ xs, lowBit g.2 < x.1 % 4

theorem OrderedBelow.addGroup {gs : List (DWord × BitVec 4)} {x : Nat × DWord} {xs : List (Nat × DWord)} (h : OrderedBelow gs (x :: xs)) (hx : ∀ y ∈ xs, x.1 % 4 < y.1 % 4) :
    OrderedBelow (addGroup gs x.2 (laneBit x.1)) xs := by
  have hhead : ∀ g ∈ gs, lowBit g.2 < x.1 % 4 := fun g hg => h.below g hg x List.mem_cons_self
  have htail : ∀ g ∈ gs, ∀ y ∈ xs, lowBit g.2 < y.1 % 4 := fun g hg y hy => h.below g hg y (List.mem_cons_of_mem _ hy)
  have hsame : ∀ g ∈ gs, lowBit (if g.1 = x.2 then (g.1, g.2 ||| laneBit x.1) else g).2 = lowBit g.2 := fun g hg => by
    split
    · exact lowBit_or_laneBit (hhead g hg)
    · rfl
  unfold Machine.addGroup
  split
  · refine ⟨List.pairwise_map.mpr (h.ordered.imp_of_mem fun hg hg' hlt => ?_), fun g hg => ?_⟩
    · rwa [hsame _ hg, hsame _ hg']
    · obtain ⟨g0, hg0, rfl⟩ := List.mem_map.mp hg
      rw [hsame g0 hg0]
      exact htail g0 hg0
  · refine ⟨List.pairwise_append.mpr ⟨h.ordered, List.pairwise_singleton .., fun g hg g' hg' => ?_⟩, fun g hg => ?_⟩
    · obtain rfl := List.mem_singleton.mp hg'
      exact (lowBit_laneBit x.1).symm ▸ hhead g hg
    · rcases List.mem_append.mp hg with hg | hg
      · exact htail g hg
      · obtain rfl := List.mem_singleton.mp hg
        exact (lowBit_laneBit x.1).symm ▸ hx

theorem OrderedBelow.foldl {gs : List (DWord × BitVec 4)} {xs : List (Nat × DWord)} (h : OrderedBelow gs xs) (hxs : xs.Pairwise (fun x y => x.1 % 4 < y.1 % 4)) :
    (xs.foldl (fun gs x => Machine.addGroup gs x.2 (laneBit x.1)) gs).Pairwise (fun g g' => lowBit g.2 < lowBit g'.2) := by
  induction xs generalizing gs with
  | nil => exact h.ordered
  | cons x xs ih =>
    obtain ⟨hx, hrest⟩ := List.pairwise_cons.mp hxs
    exact ih (h.addGroup hx) hrest

theorem targetGroups_ordered {i : Nat} {ts : List (Nat × DWord)} (hts : ts.Pairwise (fun x y => x.1 < y.1)) (hi : ∀ x ∈ ts, x.1 / 4 = i) :
    (targetGroups i ts).Pairwise (fun g g' => lowBit g.2 < lowBit g'.2) := by
  have hnone : OrderedBelow [] (lanesOfSlice i ts) := ⟨.nil, nofun⟩
  refine hnone.foldl (List.Pairwise.filter _ (hts.imp_of_mem fun {x y} hx hy hlt => ?_))
  have hxi := hi x hx
  have hyi := hi y hy
  omega

/-! ## Dividing a slice (R132, R137) -/

/-- The lanes that do not branch wait at the next instruction, where there are any. -/
theorem any_mask_rest (n : BitVec 4) (pc : DWord) (b : Nat) :
    (if n = 0 then [] else [({ pc := pc, mask := n } : REntry)]).any (fun e => e.mask.getLsbD b) = n.getLsbD b := by
  split
  · next h => simp [h]
  · simp

theorem getLsbD_waiting_divide (sl : Slice) (pc : DWord) (g : DWord × BitVec 4) (gs : List (DWord × BitVec 4)) (b : Nat) :
    (sl.divide pc (g :: gs)).waiting.getLsbD b =
      (gs.any (fun x => x.2.getLsbD b) || (sl.active.getLsbD b && !(g :: gs).any (fun x => x.2.getLsbD b)) || sl.waiting.getLsbD b) := by
  rw [Slice.getLsbD_waiting, Slice.getLsbD_waiting]
  simp only [Slice.divide, List.any_append, any_mask_rest, List.any_map, Function.comp_def]
  have hn : (sl.active &&& ~~~((g :: gs).foldl (fun a x => a ||| x.2) 0)).getLsbD b = (sl.active.getLsbD b && !(g :: gs).any (fun x => x.2.getLsbD b)) := by
    rw [BitVec.getLsbD_and, BitVec.getLsbD_not, getLsbD_foldl_or]
    by_cases hb : b < 4
    · simp [hb]
    · simp [BitVec.getLsbD_of_ge sl.active b (by omega)]
  rw [hn]

/-- Dividing by groups of active lanes loses none: the lanes that run or wait are those that ran or waited. -/
theorem divide_covers {sl : Slice} (pc : DWord) {gs : List (DWord × BitVec 4)} (h : ∀ g ∈ gs, ∀ b, g.2.getLsbD b = true → sl.active.getLsbD b = true) :
    (sl.divide pc gs).active ||| (sl.divide pc gs).waiting = sl.active ||| sl.waiting := by
  cases gs with
  | nil => rfl
  | cons g gs =>
    refine BitVec.eq_of_getLsbD_eq fun b _ => ?_
    have hin : (g :: gs).any (fun x => x.2.getLsbD b) = true → sl.active.getLsbD b = true := by
      rw [List.any_eq_true]
      rintro ⟨x, hx, hb⟩
      exact h x hx b hb
    have hactive : (sl.divide pc (g :: gs)).active = g.2 := rfl
    rw [BitVec.getLsbD_or, getLsbD_waiting_divide, hactive, BitVec.getLsbD_or]
    rw [List.any_cons] at hin ⊢
    revert hin
    generalize g.2.getLsbD b = x
    generalize gs.any (fun x => x.2.getLsbD b) = y
    generalize sl.active.getLsbD b = z
    generalize sl.waiting.getLsbD b = w
    revert x y z w
    decide

/-- Dividing by groups that are apart doubles no lane. -/
theorem divide_apart {sl : Slice} (pc : DWord) {gs : List (DWord × BitVec 4)} (h : ∀ g ∈ gs, ∀ b, g.2.getLsbD b = true → sl.active.getLsbD b = true)
    (hapart : gs.Pairwise (fun g g' => g.2 &&& g'.2 = 0)) (hsl : sl.active &&& sl.waiting = 0) : (sl.divide pc gs).active &&& (sl.divide pc gs).waiting = 0 := by
  cases gs with
  | nil => exact hsl
  | cons g gs =>
    refine and_eq_zero_iff.mpr fun b (hb : g.2.getLsbD b = true) => ?_
    have hothers : gs.any (fun x => x.2.getLsbD b) = false := by
      rw [List.any_eq_false]
      exact fun x hx => by simp [and_eq_zero_iff.mp ((List.pairwise_cons.mp hapart).1 x hx) b hb]
    have hwaiting : sl.waiting.getLsbD b = false := and_eq_zero_iff.mp hsl b (h g List.mem_cons_self b hb)
    rw [getLsbD_waiting_divide, hothers, hwaiting, List.any_cons, hb]
    simp

/-! ## Arriving (R138, R139) -/

/-- The topmost join entry of a stack. -/
def topJoin (es : List REntry) : Option REntry := es.find? (fun e => decide (e.mask = 0))

/-- The slice does not stand at the pc of its topmost join entry. -/
def OffJoin (sl : Slice) : Prop := ∀ j, topJoin sl.rstack = some j → sl.pc ≠ j.pc

theorem offJoin_of_noJoinAt {sl : Slice} (h : NoJoinAt sl.rstack sl.pc) : OffJoin sl := by
  intro j hj heq
  have hzero : j.mask = 0 := by simpa using List.find?_some hj
  exact h j (List.mem_of_find?_eq_some hj) hzero heq.symm

/-- A slice that runs lanes away from its join stays as it is. -/
theorem Slice.settle_offJoin {sl : Slice} (n : Nat) (ha : sl.active ≠ 0) (h : OffJoin sl) : sl.settle n = sl := by
  cases n with
  | zero => rfl
  | succ n =>
    have hno : ∀ j, sl.rstack.find? (fun e => decide (e.mask = 0)) = some j → sl.pc ≠ j.pc := h
    unfold Slice.settle
    rw [if_neg ha]
    split
    · rfl
    · split
      · next j hj => rw [if_neg (hno j hj)]
      · rfl

theorem Slice.settle_atJoin {sl : Slice} {j : REntry} (n : Nat) (hl : sl.live ≠ 0) (ha : sl.active ≠ 0) (hj : topJoin sl.rstack = some j) (hpc : sl.pc = j.pc) :
    sl.settle (n + 1) = (sl.popTop false).settle n := by
  have hfind : sl.rstack.find? (fun e => decide (e.mask = 0)) = some j := hj
  rw [Slice.settle, if_neg hl, if_neg ha, hfind]
  exact if_pos hpc

theorem Slice.settle_empty {sl : Slice} (n : Nat) (hl : sl.live ≠ 0) (ha : sl.active = 0) (hr : sl.rstack ≠ []) : sl.settle (n + 1) = (sl.popTop true).settle n := by
  rw [Slice.settle, if_neg hl, if_pos ha, if_neg (by simpa using hr)]

theorem Slice.popTop_resume {sl : Slice} {e : REntry} {es : List REntry} (forced : Bool) (hr : sl.rstack = e :: es) (hm : e.mask ≠ 0) :
    sl.popTop forced = { sl with rstack := es, active := e.mask &&& sl.live, pc := e.pc } := by
  rw [Slice.popTop, hr]
  exact if_pos hm

theorem Slice.popTop_join {sl : Slice} {e : REntry} {es : List REntry} (forced : Bool) (hr : sl.rstack = e :: es) (hm : e.mask = 0) :
    sl.popTop forced = { sl with rstack := es, active := sl.live &&& ~~~({ sl with rstack := es } : Slice).waiting, pc := if forced then e.pc else sl.pc } := by
  rw [Slice.popTop, hr]
  exact if_neg (not_not.mpr hm)

/-- The waiting lanes below the top entry. -/
theorem Slice.getLsbD_waiting_cons {sl : Slice} {e : REntry} {es : List REntry} (hr : sl.rstack = e :: es) (b : Nat) :
    sl.waiting.getLsbD b = (e.mask.getLsbD b || ({ sl with rstack := es } : Slice).waiting.getLsbD b) := by
  rw [Slice.getLsbD_waiting, Slice.getLsbD_waiting, hr, List.any_cons]

theorem and_eq_self_of_within {m live : BitVec 4} (h : m &&& ~~~live = 0) : m &&& live = m := by
  refine BitVec.eq_of_getLsbD_eq fun b _ => ?_
  have hin := and_not_eq_zero_iff.mp h b
  cases hb : m.getLsbD b with
  | false => simp [hb]
  | true => simp [hb, hin hb]

theorem Slice.mask_live {sl : Slice} {e : REntry} {es : List REntry} (h : StackOk sl) (hr : sl.rstack = e :: es) : e.mask &&& sl.live = e.mask :=
  and_eq_self_of_within (h.within e (hr ▸ List.mem_cons_self))

theorem ne_zero_of_within {m live : BitVec 4} (h : m &&& ~~~live = 0) (hm : m ≠ 0) : live ≠ 0 := by
  rintro rfl
  obtain ⟨b, hb⟩ := exists_lane_of_ne_zero hm
  simpa using and_not_eq_zero_iff.mp h b hb

theorem Slice.live_of_active {sl : Slice} (h : StackOk sl) (ha : sl.active ≠ 0) : sl.live ≠ 0 := ne_zero_of_within h.inLive ha

/-- The waiting lanes are live. -/
theorem Slice.waiting_live {sl : Slice} (h : StackOk sl) {b : Nat} (hb : sl.waiting.getLsbD b = true) : sl.live.getLsbD b = true := by
  rw [Slice.getLsbD_waiting, List.any_eq_true] at hb
  obtain ⟨e, he, hb⟩ := hb
  exact and_not_eq_zero_iff.mp (h.within e he) b hb

/-- Acting on a resume entry keeps each lane at one place. -/
theorem Slice.stackOk_popTop {sl : Slice} (h : StackOk sl) (forced : Bool) : StackOk (sl.popTop forced) := by
  match hr : sl.rstack with
  | [] => rwa [Slice.popTop, hr]
  | e :: es =>
    have hwithin : ∀ f ∈ es, f.mask &&& ~~~sl.live = 0 := fun f hf => h.within f (hr ▸ List.mem_cons_of_mem _ hf)
    obtain ⟨hfirst, hrest⟩ := List.pairwise_cons.mp (hr ▸ h.apart)
    by_cases hm : e.mask = 0
    · rw [Slice.popTop_join forced hr hm]
      refine ⟨and_not_eq_zero_iff.mpr fun b hb => ?_, hwithin, hrest, and_eq_zero_iff.mpr fun b hb => ?_⟩
      · exact (Bool.and_eq_true_iff.mp ((BitVec.getLsbD_and ..).symm.trans hb)).1
      · have hnot := (Bool.and_eq_true_iff.mp ((BitVec.getLsbD_and ..).symm.trans hb)).2
        rw [BitVec.getLsbD_not, Bool.and_eq_true] at hnot
        exact Bool.not_eq_true' _ ▸ hnot.2
    · rw [Slice.popTop_resume forced hr hm, Slice.mask_live h hr]
      refine ⟨h.within e (hr ▸ List.mem_cons_self), hwithin, hrest, and_eq_zero_iff.mpr fun b hb => ?_⟩
      rw [Slice.getLsbD_waiting, List.any_eq_false]
      exact fun f hf => by simp [and_eq_zero_iff.mp (hfirst f hf) b hb]

/-- What every step of the arrival test keeps, the test keeps (R138, R139). -/
theorem Slice.settle_induction {P : Slice → Prop} (hempty : ∀ sl, P sl → sl.active = 0 → sl.rstack ≠ [] → P (sl.popTop true))
    (hjoin : ∀ sl j, P sl → sl.active ≠ 0 → topJoin sl.rstack = some j → P (sl.popTop false)) (n : Nat) {sl : Slice} (h : P sl) : P (sl.settle n) := by
  induction n generalizing sl with
  | zero => exact h
  | succ n ih =>
    by_cases hl : sl.live = 0
    · rwa [Slice.settle, if_pos hl]
    by_cases ha : sl.active = 0
    · by_cases hr : sl.rstack = []
      · rwa [Slice.settle, if_neg hl, if_pos ha, if_pos (by simpa using hr)]
      · rw [Slice.settle_empty n hl ha hr]
        exact ih (hempty sl h ha hr)
    by_cases hoff : OffJoin sl
    · rwa [Slice.settle_offJoin _ ha hoff]
    · obtain ⟨j, hj, hpc⟩ : ∃ j, topJoin sl.rstack = some j ∧ sl.pc = j.pc := by simpa [OffJoin] using hoff
      rw [Slice.settle_atJoin n hl ha hj hpc]
      exact ih (hjoin sl j h ha hj)

theorem Slice.stackOk_arrive {sl : Slice} (h : StackOk sl) : StackOk sl.arrive :=
  Slice.settle_induction (P := fun x => StackOk x) (fun _ h _ _ => Slice.stackOk_popTop h true) (fun _ _ h _ _ => Slice.stackOk_popTop h false) _ h

@[simp] theorem Slice.popTop_lstack (sl : Slice) (forced : Bool) : (sl.popTop forced).lstack = sl.lstack := by
  unfold Slice.popTop
  split
  · rfl
  · split <;> rfl

@[simp] theorem Slice.arrive_lstack (sl : Slice) : sl.arrive.lstack = sl.lstack :=
  Slice.settle_induction (P := fun x => x.lstack = sl.lstack) (fun x h _ _ => (x.popTop_lstack true).trans h) (fun x _ h _ _ => (x.popTop_lstack false).trans h) _ rfl

/-- A join entry gives back every live lane that does not wait below it. -/
theorem Slice.keepsLanes_join {sl : Slice} {e : REntry} {es : List REntry} (h : StackOk sl) (forced : Bool) (hr : sl.rstack = e :: es) (hm : e.mask = 0) :
    KeepsLanes (sl.popTop forced) := by
  rw [Slice.popTop_join forced hr hm]
  refine .inl (BitVec.eq_of_getLsbD_eq fun b hb => ?_)
  have hwaiting : ({ sl with rstack := es } : Slice).waiting.getLsbD b = true → sl.live.getLsbD b = true := fun hw =>
    Slice.waiting_live h ((Slice.getLsbD_waiting_cons hr b).trans (by simp [hw]))
  show (sl.live &&& ~~~({ sl with rstack := es } : Slice).waiting ||| ({ sl with rstack := es } : Slice).waiting).getLsbD b = sl.live.getLsbD b
  rw [BitVec.getLsbD_or, BitVec.getLsbD_and, BitVec.getLsbD_not]
  cases hw : ({ sl with rstack := es } : Slice).waiting.getLsbD b with
  | false => simp [hb]
  | true => simp [hwaiting hw]

/-- A resume entry of a slice that has run out of lanes runs the lanes that waited in it. -/
theorem Slice.keepsLanes_resume {sl : Slice} {e : REntry} {es : List REntry} (h : StackOk sl) (hk : KeepsLanes sl) (ha : sl.active = 0 ∨ ∃ f ∈ es, f.mask = 0) (forced : Bool)
    (hr : sl.rstack = e :: es) (hm : e.mask ≠ 0) : KeepsLanes (sl.popTop forced) := by
  rw [Slice.popTop_resume forced hr hm, Slice.mask_live h hr]
  rcases ha with ha | hjoin
  · rcases hk with hall | ⟨f, hf, hf0⟩
    · refine .inl ((BitVec.eq_of_getLsbD_eq fun b _ => ?_ : _ = sl.active ||| sl.waiting).trans hall)
      rw [ha, BitVec.getLsbD_or, BitVec.getLsbD_or, Slice.getLsbD_waiting_cons hr]
      simp only [BitVec.ofNat_eq_ofNat, BitVec.getLsbD_zero, Bool.false_or]
      rfl
    · rcases List.mem_cons.mp (hr ▸ hf) with rfl | hf
      · exact absurd hf0 hm
      · exact .inr ⟨f, hf, hf0⟩
  · exact .inr hjoin

theorem Slice.keepsLanes_popTop {sl : Slice} (h : StackOk sl) (hk : KeepsLanes sl) (forced : Bool) (ha : sl.active = 0 ∨ ∃ f ∈ sl.rstack, f.mask = 0) : KeepsLanes (sl.popTop forced) := by
  match hr : sl.rstack with
  | [] => rwa [Slice.popTop, hr]
  | e :: es =>
    by_cases hm : e.mask = 0
    · exact Slice.keepsLanes_join h forced hr hm
    · refine Slice.keepsLanes_resume h hk (ha.imp_right ?_) forced hr hm
      rintro ⟨f, hf, hf0⟩
      rcases List.mem_cons.mp (hr ▸ hf) with rfl | hf
      · exact absurd hf0 hm
      · exact ⟨f, hf, hf0⟩

theorem Slice.keepsLanes_arrive {sl : Slice} (h : StackOk sl) (hk : KeepsLanes sl) : KeepsLanes sl.arrive := by
  refine (Slice.settle_induction (P := fun x => StackOk x ∧ KeepsLanes x) ?_ ?_ _ ⟨h, hk⟩).2
  · rintro x ⟨hx, hkx⟩ ha -
    exact ⟨Slice.stackOk_popTop hx true, Slice.keepsLanes_popTop hx hkx true (.inl ha)⟩
  · rintro x j ⟨hx, hkx⟩ - hj
    exact ⟨Slice.stackOk_popTop hx false, Slice.keepsLanes_popTop hx hkx false (.inr ⟨j, List.mem_of_find?_eq_some hj, by simpa using List.find?_some hj⟩)⟩

/-- The last entry of a stack leaves lanes that run. -/
theorem Slice.popTop_runs {sl : Slice} (h : StackOk sl) (hl : sl.live ≠ 0) (forced : Bool) (hr : sl.rstack ≠ []) :
    ((sl.popTop forced).active ≠ 0 ∨ (sl.popTop forced).rstack ≠ []) ∧ (sl.popTop forced).rstack.length + 1 = sl.rstack.length := by
  match hr' : sl.rstack with
  | [] => exact absurd hr' hr
  | e :: es =>
    by_cases hm : e.mask = 0
    · rw [Slice.popTop_join forced hr' hm]
      refine ⟨?_, rfl⟩
      match es with
      | [] =>
        have hall : sl.live &&& ~~~(0 : BitVec 4) = sl.live := BitVec.and_allOnes
        exact .inl (hall.symm ▸ hl)
      | f :: fs => exact .inr (List.cons_ne_nil f fs)
    · rw [Slice.popTop_resume forced hr' hm, Slice.mask_live h hr']
      exact ⟨.inl hm, rfl⟩

/-- A slice that runs or has entries comes to run. -/
theorem Slice.settle_runs {sl : Slice} {n : Nat} (h : StackOk sl) (hl : sl.live ≠ 0) (hrun : sl.active ≠ 0 ∨ sl.rstack ≠ []) (hn : sl.rstack.length < n) :
    (sl.settle n).active ≠ 0 := by
  induction n generalizing sl with
  | zero => exact absurd hn (Nat.not_lt_zero _)
  | succ n ih =>
    have hgo (forced : Bool) (hr : sl.rstack ≠ []) : ((sl.popTop forced).settle n).active ≠ 0 := by
      obtain ⟨hrun', hlen⟩ := Slice.popTop_runs h hl forced hr
      exact ih (Slice.stackOk_popTop h forced) ((sl.popTop_live forced).symm ▸ hl) hrun' (by omega)
    by_cases ha : sl.active = 0
    · have hr : sl.rstack ≠ [] := hrun.resolve_left (not_not.mpr ha)
      rw [Slice.settle_empty n hl ha hr]
      exact hgo true hr
    by_cases hoff : OffJoin sl
    · rwa [Slice.settle_offJoin _ ha hoff]
    · obtain ⟨j, hj, hpc⟩ : ∃ j, topJoin sl.rstack = some j ∧ sl.pc = j.pc := by simpa [OffJoin] using hoff
      rw [Slice.settle_atJoin n hl ha hj hpc]
      exact hgo false (List.ne_nil_of_mem (List.mem_of_find?_eq_some hj))

/-! ## What an arrival does -/

/-- The topmost join entry is j where only resume entries stand above it. -/
theorem topJoin_of_takeWhile {es : List REntry} {j : REntry} (hj : j ∈ es) (hm : j.mask = 0) (habove : ∀ f ∈ es.takeWhile (fun f => decide (f ≠ j)), f.mask ≠ 0) : topJoin es = some j := by
  induction es with
  | nil => cases hj
  | cons e es ih =>
    by_cases he : e = j
    · subst he
      exact List.find?_cons_of_pos (by simpa using hm)
    · rw [List.takeWhile_cons_of_pos (by simpa using he)] at habove
      have hme : e.mask ≠ 0 := habove e List.mem_cons_self
      rw [topJoin, List.find?_cons_of_neg (by simpa using hme)]
      exact ih ((List.mem_cons.mp hj).resolve_left (Ne.symm he)) fun f hf => habove f (List.mem_cons_of_mem _ hf)

/-- A slice that acts on its top entry once and then runs off its joins. -/
theorem Slice.arrive_atJoin {sl t : Slice} {j : REntry} (h : StackOk sl) (ha : sl.active ≠ 0) (hj : topJoin sl.rstack = some j) (hpc : sl.pc = j.pc)
    (ht : sl.popTop false = t) (hta : t.active ≠ 0) (hoff : OffJoin t) : sl.arrive = t := by
  rw [Slice.arrive, Slice.settle_atJoin _ (Slice.live_of_active h ha) ha hj hpc, ht, Slice.settle_offJoin _ hta hoff]

theorem Slice.arrive_empty {sl t : Slice} (hl : sl.live ≠ 0) (ha : sl.active = 0) (hr : sl.rstack ≠ []) (ht : sl.popTop true = t) (hta : t.active ≠ 0) (hoff : OffJoin t) :
    sl.arrive = t := by
  rw [Slice.arrive, Slice.settle_empty _ hl ha hr, ht, Slice.settle_offJoin _ hta hoff]

/-- A join entry keeps the lanes that run. -/
theorem Slice.join_runs {sl : Slice} {e : REntry} {es : List REntry} (h : StackOk sl) (hr : sl.rstack = e :: es) (ha : sl.active ≠ 0) :
    sl.live &&& ~~~({ sl with rstack := es } : Slice).waiting ≠ 0 := by
  obtain ⟨b, hb⟩ := exists_lane_of_ne_zero ha
  have hlive : sl.live.getLsbD b = true := and_not_eq_zero_iff.mp h.inLive b hb
  have hapart : sl.waiting.getLsbD b = false := and_eq_zero_iff.mp h.disjoint b hb
  have hbelow : ({ sl with rstack := es } : Slice).waiting.getLsbD b = false := (Bool.or_eq_false_iff.mp ((Slice.getLsbD_waiting_cons hr b).symm.trans hapart)).2
  intro hzero
  simpa [hbelow] using and_not_eq_zero_iff.mp hzero b hlive

end Sys2Proof.Machine
end
section
/-! Gangs part by their pcs and strands with them, and no live slice changes its group otherwise (R17, R18, R31). -/

namespace Sys2Proof.Machine

open Sys2Proof.Spec

/-! ## Lists of slices -/

theorem mem_gangSlices {u : Unit} {g i : Nat} : i ∈ u.gangSlices g ↔ i ∈ u.liveSlices ∧ (u.slice i).gang = g := by
  simp only [Unit.gangSlices, Unit.liveSlices, rangeWhere, List.mem_filter, Bool.and_eq_true, decide_eq_true_eq, and_assoc]

theorem sorted_rangeWhere (n : Nat) (p : Nat → Bool) : (rangeWhere n p).Pairwise (· < ·) := List.pairwise_lt_range.filter p

/-- The first of an ascending list that has a property is the least. -/
theorem le_of_find?_sorted {is : List Nat} (hs : is.Pairwise (· < ·)) {p : Nat → Bool} {j : Nat} (h : is.find? p = some j) {k : Nat} (hk : k ∈ is) (hp : p k = true) : j ≤ k := by
  obtain ⟨-, as, bs, rfl, has⟩ := List.find?_eq_some_iff_append.mp h
  rcases List.mem_append.mp hk with hk | hk
  · exact absurd hp (by simpa using has k hk)
  · rcases List.mem_cons.mp hk with rfl | hk
    · exact Nat.le_refl _
    · exact Nat.le_of_lt ((List.pairwise_cons.mp (List.pairwise_append.mp hs).2.1).1 k hk)

/-- A list of lists of which just one holds i. -/
theorem find?_contains_unique {xs : List (List Nat)} {x : List Nat} {i : Nat} (hx : x ∈ xs) (hi : i ∈ x) (h : ∀ y ∈ xs, i ∈ y → y = x) : xs.find? (fun p => p.contains i) = some x := by
  cases hf : xs.find? (fun p => p.contains i) with
  | none => exact absurd (List.find?_eq_none.mp hf x hx) (by simpa using hi)
  | some y => rw [h y (List.mem_of_find?_eq_some hf) (by simpa using List.find?_some hf)]

/-! ## The parts of a gang (R18) -/

/-- The slices of a list that stand at the pc of slice i. -/
def samePc (u : Unit) (is : List Nat) (i : Nat) : List Nat := is.filter (fun j => decide ((u.slice j).pc = (u.slice i).pc))

theorem mem_samePc {u : Unit} {is : List Nat} {i j : Nat} : j ∈ samePc u is i ↔ j ∈ is ∧ (u.slice j).pc = (u.slice i).pc := by simp [samePc]

theorem samePc_congr {u : Unit} {i j : Nat} (is : List Nat) (h : (u.slice i).pc = (u.slice j).pc) : samePc u is i = samePc u is j := by rw [samePc, samePc, h]

theorem headD_mem {is : List Nat} {i : Nat} (h : i ∈ is) (d : Nat) : is.headD d ∈ is := by
  cases is with
  | nil => cases h
  | cons j is => exact List.mem_cons_self

/-- The slices of a list by pc. -/
structure PartsOf (u : Unit) (is : List Nat) (ps : List (List Nat)) : Prop where
  part : ∀ p ∈ ps, ∃ i ∈ is, p = samePc u is i
  has : ∀ i ∈ is, samePc u is i ∈ ps

theorem pc_headD_samePc {u : Unit} {is : List Nat} {k : Nat} (hk : k ∈ is) (d : Nat) : (u.slice ((samePc u is k).headD d)).pc = (u.slice k).pc :=
  (mem_samePc.mp (headD_mem (mem_samePc.mpr ⟨hk, rfl⟩) d)).2

theorem samePc_append (u : Unit) (is : List Nat) (i k : Nat) : samePc u (is ++ [i]) k = if (u.slice i).pc = (u.slice k).pc then samePc u is k ++ [i] else samePc u is k := by
  rw [samePc, List.filter_append, List.filter_singleton]
  split <;> simp_all [samePc]

/-- One more slice enters the part of its pc, or a part of its own. -/
theorem PartsOf.partsByPc {u : Unit} {is : List Nat} {ps : List (List Nat)} (h : PartsOf u is ps) (js : List Nat) : PartsOf u (is ++ js) (partsByPc u js ps) := by
  induction js generalizing is ps with
  | nil => simpa [Machine.partsByPc] using h
  | cons i js ih =>
    have hpart : ∀ k ∈ is, (if (u.slice ((samePc u is k).headD 0)).pc = (u.slice i).pc then samePc u is k ++ [i] else samePc u is k) = samePc u (is ++ [i]) k := fun k hk => by
      rw [samePc_append, pc_headD_samePc hk]
      simp only [eq_comm]
    have hassoc : is ++ i :: js = (is ++ [i]) ++ js := by simp
    rw [hassoc, Machine.partsByPc]
    split
    case isTrue hany =>
      refine ih ⟨fun p hp => ?_, fun k hk => ?_⟩
      · obtain ⟨q, hq, rfl⟩ := List.mem_map.mp hp
        obtain ⟨k, hk, rfl⟩ := h.part q hq
        exact ⟨k, List.mem_append_left _ hk, hpart k hk⟩
      · obtain ⟨k', hk', hkk'⟩ : ∃ k' ∈ is, (u.slice k').pc = (u.slice k).pc := by
          rcases List.mem_append.mp hk with hk | hk
          · exact ⟨k, hk, rfl⟩
          · obtain rfl := List.mem_singleton.mp hk
            obtain ⟨q, hq, hpc⟩ := List.any_eq_true.mp hany
            obtain ⟨k', hk', rfl⟩ := h.part q hq
            exact ⟨k', hk', (pc_headD_samePc hk' 0).symm.trans (of_decide_eq_true hpc)⟩
        rw [← samePc_congr _ hkk', ← hpart k' hk']
        exact List.mem_map_of_mem (h.has k' hk')
    case isFalse hany =>
      have hnew : ∀ k ∈ is, (u.slice i).pc ≠ (u.slice k).pc := fun k hk heq =>
        hany (List.any_eq_true.mpr ⟨_, h.has k hk, decide_eq_true ((pc_headD_samePc hk 0).trans heq.symm)⟩)
      have hold : ∀ k ∈ is, samePc u (is ++ [i]) k = samePc u is k := fun k hk => by rw [samePc_append, if_neg (hnew k hk)]
      have hself : samePc u (is ++ [i]) i = [i] := by
        have hempty : samePc u is i = [] := List.filter_eq_nil_iff.mpr fun k hk => by simpa using (hnew k hk).symm
        rw [samePc_append, if_pos rfl, hempty]
        rfl
      refine ih ⟨fun p hp => ?_, fun k hk => ?_⟩
      · rcases List.mem_append.mp hp with hp | hp
        · obtain ⟨k, hk, rfl⟩ := h.part p hp
          exact ⟨k, List.mem_append_left _ hk, (hold k hk).symm⟩
        · obtain rfl := List.mem_singleton.mp hp
          exact ⟨i, List.mem_append_right _ (List.mem_singleton_self i), hself.symm⟩
      · rcases List.mem_append.mp hk with hk | hk
        · exact List.mem_append_left _ (hold k hk ▸ h.has k hk)
        · obtain rfl := List.mem_singleton.mp hk
          exact List.mem_append_right _ (List.mem_singleton.mpr hself)

/-- The parts of a gang. -/
def partsOf (u : Unit) (is : List Nat) : List (List Nat) := partsByPc u is []

theorem partsOf_parts (u : Unit) (is : List Nat) : PartsOf u is (partsOf u is) := by
  have hnone : PartsOf u [] [] := ⟨nofun, nofun⟩
  exact hnone.partsByPc is

theorem find?_partsOf {u : Unit} {is : List Nat} {i : Nat} (hi : i ∈ is) : (partsOf u is).find? (fun p => p.contains i) = some (samePc u is i) := by
  refine find?_contains_unique ((partsOf_parts u is).has i hi) (mem_samePc.mpr ⟨hi, rfl⟩) fun p hp hip => ?_
  obtain ⟨k, hk, rfl⟩ := (partsOf_parts u is).part p hp
  exact samePc_congr is (mem_samePc.mp hip).2.symm

theorem find?_partsOf_none {u : Unit} {is : List Nat} {i : Nat} (hi : i ∉ is) : (partsOf u is).find? (fun p => p.contains i) = none := by
  refine List.find?_eq_none.mpr fun p hp hip => hi ?_
  obtain ⟨k, hk, rfl⟩ := (partsOf_parts u is).part p hp
  exact (mem_samePc.mp (by simpa using hip)).1

theorem eq_of_length_le_one {α : Type} {xs : List α} (h : xs.length ≤ 1) {x y : α} (hx : x ∈ xs) (hy : y ∈ xs) : x = y := by
  match xs with
  | [] => cases hx
  | [z] => rw [List.mem_singleton.mp hx, List.mem_singleton.mp hy]
  | _ :: _ :: _ => simp at h

/-- A gang in one part has one pc. -/
theorem pc_eq_of_onePart {u : Unit} {is : List Nat} (h : (partsOf u is).length ≤ 1) {i j : Nat} (hi : i ∈ is) (hj : j ∈ is) : (u.slice i).pc = (u.slice j).pc := by
  have hall : samePc u is i = samePc u is j := eq_of_length_le_one h ((partsOf_parts u is).has i hi) ((partsOf_parts u is).has j hj)
  exact (mem_samePc.mp (hall ▸ mem_samePc.mpr ⟨hi, rfl⟩)).2

/-! ## The pieces of a strand in a gang (R31) -/

/-- The slices of a gang at the pc and of the strand of slice i. -/
def piece (u : Unit) (is : List Nat) (i : Nat) : List Nat := (samePc u is i).filter (fun j => decide ((u.slice j).strand = (u.slice i).strand))

theorem mem_piece {u : Unit} {is : List Nat} {i j : Nat} : j ∈ piece u is i ↔ j ∈ is ∧ (u.slice j).pc = (u.slice i).pc ∧ (u.slice j).strand = (u.slice i).strand := by
  simp [piece, mem_samePc, and_assoc]

theorem self_mem_piece {u : Unit} {is : List Nat} {i : Nat} (hi : i ∈ is) : i ∈ piece u is i := mem_piece.mpr ⟨hi, rfl, rfl⟩

theorem piece_congr {u : Unit} (is : List Nat) {i j : Nat} (hpc : (u.slice i).pc = (u.slice j).pc) (hs : (u.slice i).strand = (u.slice j).strand) : piece u is i = piece u is j := by
  rw [piece, piece, samePc_congr is hpc, hs]

/-- The lowest slice of the piece that has slice i. -/
def pieceLow (u : Unit) (is : List Nat) (i : Nat) : Nat := (piece u is i).headD 0

theorem pieceLow_mem {u : Unit} {is : List Nat} {i : Nat} (hi : i ∈ is) : pieceLow u is i ∈ piece u is i := headD_mem (self_mem_piece hi) 0

/-- Pieces with one lowest slice are one piece. -/
theorem same_of_pieceLow {u : Unit} {is : List Nat} {i j : Nat} (hi : i ∈ is) (hj : j ∈ is) (h : pieceLow u is i = pieceLow u is j) :
    (u.slice i).pc = (u.slice j).pc ∧ (u.slice i).strand = (u.slice j).strand := by
  obtain ⟨-, hpc, hs⟩ := mem_piece.mp (pieceLow_mem (u := u) hi)
  obtain ⟨-, hpc', hs'⟩ := mem_piece.mp (pieceLow_mem (u := u) hj)
  exact ⟨(hpc.symm.trans (h ▸ hpc')), (hs.symm.trans (h ▸ hs'))⟩

/-- The pieces of a strand in the parts of a gang, as strandAfter finds them. -/
def strandPieces (u : Unit) (is : List Nat) (t : Nat) : List (List Nat) :=
  ((partsOf u is).map (fun p => p.filter (fun j => decide ((u.slice j).strand = t)))).filter (fun p => !p.isEmpty)

theorem mem_strandPieces {u : Unit} {is : List Nat} {t : Nat} {q : List Nat} : q ∈ strandPieces u is t ↔ ∃ k ∈ is, (u.slice k).strand = t ∧ q = piece u is k := by
  simp only [strandPieces, List.mem_filter, List.mem_map, Bool.not_eq_true', List.isEmpty_eq_false_iff]
  constructor
  · rintro ⟨⟨p, hp, rfl⟩, hne⟩
    obtain ⟨k, hk, rfl⟩ := (partsOf_parts u is).part p hp
    obtain ⟨j, hj⟩ := List.exists_mem_of_ne_nil _ hne
    obtain ⟨hj, hs⟩ := List.mem_filter.mp hj
    obtain ⟨hj, hpc⟩ := mem_samePc.mp hj
    have ht := of_decide_eq_true hs
    exact ⟨j, hj, ht, by rw [piece, samePc_congr is hpc, ht]⟩
  · rintro ⟨k, hk, rfl, rfl⟩
    exact ⟨⟨_, (partsOf_parts u is).has k hk, rfl⟩, List.ne_nil_of_mem (self_mem_piece hk)⟩

/-- The piece of slice i is the first of its strand in the gang. -/
def LowestPiece (u : Unit) (is : List Nat) (i : Nat) : Prop := ∀ k ∈ is, (u.slice k).strand = (u.slice i).strand → pieceLow u is i ≤ pieceLow u is k

theorem find?_strandPieces {u : Unit} {is : List Nat} {i : Nat} (hi : i ∈ is) : (strandPieces u is (u.slice i).strand).find? (fun p => p.contains i) = some (piece u is i) := by
  refine find?_contains_unique (mem_strandPieces.mpr ⟨i, hi, rfl, rfl⟩) (self_mem_piece hi) fun q hq hiq => ?_
  obtain ⟨k, hk, hs, rfl⟩ := mem_strandPieces.mp hq
  exact piece_congr is (mem_piece.mp hiq).2.1.symm hs

theorem strandAfter_eq (u : Unit) (is : List Nat) (i : Nat) : strandAfter u (partsOf u is) i =
    if (strandPieces u is (u.slice i).strand).length ≤ 1 then (u.slice i).strand
    else match (strandPieces u is (u.slice i).strand).find? (fun p => p.contains i) with
      | some p => if (strandPieces u is (u.slice i).strand).all (fun q => decide (p.headD 0 ≤ q.headD 0)) then (u.slice i).strand else 100 + p.headD 0
      | none => (u.slice i).strand := rfl

theorem all_strandPieces {u : Unit} {is : List Nat} {i : Nat} :
    (strandPieces u is (u.slice i).strand).all (fun q => decide ((piece u is i).headD 0 ≤ q.headD 0)) = true ↔ LowestPiece u is i := by
  simp only [List.all_eq_true, mem_strandPieces, decide_eq_true_eq]
  constructor
  · exact fun h k hk hs => h _ ⟨k, hk, hs, rfl⟩
  · rintro h _ ⟨k, hk, hs, rfl⟩
    exact h k hk hs

/-- A slice outside the gang, or in the lowest piece of its strand in the gang, keeps its strand. -/
theorem strandAfter_outside {u : Unit} {is : List Nat} {i : Nat} (hi : i ∉ is) : strandAfter u (partsOf u is) i = (u.slice i).strand := by
  have hnone : (strandPieces u is (u.slice i).strand).find? (fun p => p.contains i) = none := by
    refine List.find?_eq_none.mpr fun q hq hiq => hi ?_
    obtain ⟨k, hk, hs, rfl⟩ := mem_strandPieces.mp hq
    exact (mem_piece.mp (by simpa using hiq)).1
  rw [strandAfter_eq, hnone]
  exact ite_self _

theorem strandAfter_lowest {u : Unit} {is : List Nat} {i : Nat} (hi : i ∈ is) (h : LowestPiece u is i) : strandAfter u (partsOf u is) i = (u.slice i).strand := by
  rw [strandAfter_eq, find?_strandPieces hi]
  simp only [all_strandPieces.mpr h, if_true, ite_self]

/-- A slice in another piece is in a new strand, named by its piece. -/
theorem strandAfter_parted {u : Unit} {is : List Nat} {i : Nat} (hi : i ∈ is) (h : ¬ LowestPiece u is i) : strandAfter u (partsOf u is) i = 100 + pieceLow u is i := by
  have hmany : ¬ (strandPieces u is (u.slice i).strand).length ≤ 1 := fun hone => h fun k hk hs => by
    have hsame : piece u is i = piece u is k := eq_of_length_le_one hone (mem_strandPieces.mpr ⟨i, hi, rfl, rfl⟩) (mem_strandPieces.mpr ⟨k, hk, hs, rfl⟩)
    rw [pieceLow, pieceLow, hsame]
  rw [strandAfter_eq, if_neg hmany, find?_strandPieces hi]
  exact if_neg (fun hall => h (all_strandPieces.mp hall))

theorem strandAfter_onePart {u : Unit} {is : List Nat} (h : (partsOf u is).length ≤ 1) (i : Nat) : strandAfter u (partsOf u is) i = (u.slice i).strand := by
  have hone : (strandPieces u is (u.slice i).strand).length ≤ 1 := (List.length_filter_le ..).trans ((List.length_map ..).trans_le h)
  rw [strandAfter_eq, if_pos hone]

/-! ## Numbers of gangs and strands (R17, R31) -/

/-- The number of a group is its lowest live slice. -/
theorem lowestWith_eq {u : Unit} {f : Slice → Nat} {x j : Nat} (hj : j ∈ u.liveSlices) (hx : f (u.slice j) = x) (hlow : ∀ k ∈ u.liveSlices, f (u.slice k) = x → j ≤ k) :
    lowestWith u f x = j := by
  rw [lowestWith, List.head?_filter]
  cases hf : u.liveSlices.find? (fun i => decide (f (u.slice i) = x)) with
  | none => exact absurd hx (by simpa using List.find?_eq_none.mp hf j hj)
  | some k =>
    refine Nat.le_antisymm ?_ (hlow k (List.mem_of_find?_eq_some hf) (by simpa using List.find?_some hf))
    exact le_of_find?_sorted (sorted_rangeWhere ..) hf hj (decide_eq_true hx)

theorem lowestWith_live {u : Unit} (f : Slice → Nat) {i : Nat} (hi : i ∈ u.liveSlices) :
    lowestWith u f (f (u.slice i)) ∈ u.liveSlices ∧ f (u.slice (lowestWith u f (f (u.slice i)))) = f (u.slice i) ∧
      ∀ k ∈ u.liveSlices, f (u.slice k) = f (u.slice i) → lowestWith u f (f (u.slice i)) ≤ k := by
  obtain ⟨j, hf⟩ : ∃ j, u.liveSlices.find? (fun k => decide (f (u.slice k) = f (u.slice i))) = some j :=
    Option.isSome_iff_exists.mp (List.find?_isSome.mpr ⟨i, hi, decide_eq_true rfl⟩)
  have hj := List.mem_of_find?_eq_some hf
  have hfj : f (u.slice j) = f (u.slice i) := by simpa using List.find?_some hf
  have hlow : ∀ k ∈ u.liveSlices, f (u.slice k) = f (u.slice i) → j ≤ k := fun k hk hfk => le_of_find?_sorted (sorted_rangeWhere ..) hf hk (decide_eq_true hfk)
  rw [lowestWith_eq hj hfj hlow]
  exact ⟨hj, hfj, hlow⟩

/-- Numbering groups anew keeps them apart. -/
theorem lowestWith_inj {u : Unit} (f : Slice → Nat) {i j : Nat} (hi : i ∈ u.liveSlices) (hj : j ∈ u.liveSlices) :
    lowestWith u f (f (u.slice i)) = lowestWith u f (f (u.slice j)) ↔ f (u.slice i) = f (u.slice j) := by
  refine ⟨fun h => ?_, fun h => by rw [h]⟩
  rw [← (lowestWith_live f hi).2.1, h, (lowestWith_live f hj).2.1]

/-! ## The unit after a split -/

theorem live_blankSlice : blankSlice.live = 0 := rfl

theorem slice_normalise {u : Unit} {i : Nat} (hi : i ∈ u.liveSlices) :
    u.normalise.slice i = { u.slice i with gang := lowestWith u (·.gang) (u.slice i).gang, strand := lowestWith u (·.strand) (u.slice i).strand } := by
  have hlive := mem_liveSlices.mp hi
  have hlt := Unit.lt_of_live hlive
  have hget : u.slices[i]? = some (u.slice i) := by
    rw [Unit.slice, List.getD_eq_getElem?_getD, List.getElem?_eq_getElem hlt]
    rfl
  rw [Unit.slice, Unit.normalise, List.getD_eq_getElem?_getD, List.getElem?_map, hget]
  exact if_neg hlive

/-- The gang's slices are in their new gangs and strands, which are not numbered yet. -/
def Unit.parted (u : Unit) (g : Nat) : Unit :=
  { u with slices := u.slices.zipIdx.map (fun (sl, i) => if sl.live = 0 then sl
      else { sl with gang := (match (partsOf u (u.gangSlices g)).find? (fun p => p.contains i) with | some p => p.headD i | none => (u.slice i).gang),
                     strand := strandAfter u (partsOf u (u.gangSlices g)) i }) }

theorem split_onePart {u : Unit} {g : Nat} (h : (partsOf u (u.gangSlices g)).length ≤ 1) : u.split g = u := if_pos h

theorem slice_split {u : Unit} {g : Nat} (h : ¬ (partsOf u (u.gangSlices g)).length ≤ 1) (i : Nat) : (u.split g).slice i = (u.parted g).normalise.slice i := by
  have hmany : ¬ (partsByPc u (u.gangSlices g) []).length ≤ 1 := h
  have hsplit : (u.split g).slices = (u.parted g).normalise.slices := by
    rw [Unit.split, if_neg hmany]
    rfl
  rw [Unit.slice, hsplit, Unit.slice]

theorem slice_parted {u : Unit} (g : Nat) {i : Nat} (hi : i ∈ u.liveSlices) : (u.parted g).slice i = { u.slice i with
    gang := (match (partsOf u (u.gangSlices g)).find? (fun p => p.contains i) with | some p => p.headD i | none => (u.slice i).gang),
    strand := strandAfter u (partsOf u (u.gangSlices g)) i } := by
  have hlive := mem_liveSlices.mp hi
  have hget : u.slices[i]? = some (u.slice i) := by
    rw [Unit.slice, List.getD_eq_getElem?_getD, List.getElem?_eq_getElem (Unit.lt_of_live hlive)]
    rfl
  rw [Unit.slice, Unit.parted, List.getD_eq_getElem?_getD, List.getElem?_map, List.getElem?_zipIdx, hget]
  simp only [Option.map_some, Option.getD_some, Nat.zero_add, if_neg hlive]

/-- The gang of a slice of the gang that parts is the first slice at its pc. -/
theorem gang_parted {u : Unit} {g i : Nat} (hi : i ∈ u.gangSlices g) : ((u.parted g).slice i).gang = (samePc u (u.gangSlices g) i).headD i := by
  rw [slice_parted g (mem_gangSlices.mp hi).1]
  simp only [find?_partsOf hi]

theorem gang_parted_outside {u : Unit} {g i : Nat} (hi : i ∈ u.liveSlices) (hg : i ∉ u.gangSlices g) : ((u.parted g).slice i).gang = (u.slice i).gang := by
  rw [slice_parted g hi]
  simp only [find?_partsOf_none hg]

theorem strand_parted {u : Unit} (g : Nat) {i : Nat} (hi : i ∈ u.liveSlices) : ((u.parted g).slice i).strand = strandAfter u (partsOf u (u.gangSlices g)) i := by
  rw [slice_parted g hi]

/-- A slice whose groups alone have changed. -/
structure Slice.Moved (sl sl' : Slice) : Prop where
  pc : sl'.pc = sl.pc
  active : sl'.active = sl.active
  live : sl'.live = sl.live
  rstack : sl'.rstack = sl.rstack

theorem Slice.Moved.refl (sl : Slice) : sl.Moved sl := ⟨rfl, rfl, rfl, rfl⟩

theorem Slice.Moved.trans {sl sl' sl'' : Slice} (h : sl.Moved sl') (h' : sl'.Moved sl'') : sl.Moved sl'' :=
  ⟨h'.pc.trans h.pc, h'.active.trans h.active, h'.live.trans h.live, h'.rstack.trans h.rstack⟩

theorem moved_regroup (sl : Slice) (gang strand : Nat) : sl.Moved (if sl.live = 0 then sl else { sl with gang := gang, strand := strand }) := by
  split <;> exact ⟨rfl, rfl, rfl, rfl⟩

theorem moved_normalise (u : Unit) (i : Nat) : (u.slice i).Moved (u.normalise.slice i) := by
  rw [Unit.slice, Unit.slice, Unit.normalise, List.getD_eq_getElem?_getD, List.getD_eq_getElem?_getD, List.getElem?_map]
  cases u.slices[i]? with
  | none => exact .refl _
  | some sl => exact moved_regroup sl _ _

theorem moved_parted (u : Unit) (g i : Nat) : (u.slice i).Moved ((u.parted g).slice i) := by
  rw [Unit.slice, Unit.slice, Unit.parted, List.getD_eq_getElem?_getD, List.getD_eq_getElem?_getD, List.getElem?_map, List.getElem?_zipIdx]
  cases u.slices[i]? with
  | none => exact .refl _
  | some sl => exact moved_regroup sl _ _

theorem moved_split (u : Unit) (g i : Nat) : (u.slice i).Moved ((u.split g).slice i) := by
  by_cases h : (partsOf u (u.gangSlices g)).length ≤ 1
  · rw [split_onePart h]
    exact .refl _
  · rw [slice_split h]
    exact (moved_parted u g i).trans (moved_normalise _ i)

theorem mem_liveSlices_parted {u : Unit} {g i : Nat} : i ∈ (u.parted g).liveSlices ↔ i ∈ u.liveSlices := by
  rw [mem_liveSlices, mem_liveSlices, (moved_parted u g i).live]

/-! ## Gangs after a split (R18) -/

/-- The first slice of a gang at the pc of slice i. -/
theorem find?_samePc {u : Unit} {is : List Nat} {i : Nat} (hi : i ∈ is) : is.find? (fun j => decide ((u.slice j).pc = (u.slice i).pc)) = some ((samePc u is i).headD i) := by
  have hmem : i ∈ samePc u is i := mem_samePc.mpr ⟨hi, rfl⟩
  rw [← List.head?_filter]
  change (samePc u is i).head? = _
  cases hs : samePc u is i with
  | nil => rw [hs] at hmem; cases hmem
  | cons j js => rfl

theorem pcLow_le {u : Unit} {g i k : Nat} (hi : i ∈ u.gangSlices g) (hk : k ∈ u.gangSlices g) (hpc : (u.slice k).pc = (u.slice i).pc) : (samePc u (u.gangSlices g) i).headD i ≤ k :=
  le_of_find?_sorted (sorted_rangeWhere ..) (find?_samePc hi) hk (decide_eq_true hpc)

/-- The number of another gang is the number of none of this gang's slices. -/
theorem gang_mem {u : Unit} (hu : Indexed u) {i : Nat} (hi : i ∈ u.liveSlices) : (u.slice i).gang ∈ u.liveSlices ∧ (u.slice (u.slice i).gang).gang = (u.slice i).gang ∧
    ∀ k ∈ u.liveSlices, (u.slice k).gang = (u.slice i).gang → (u.slice i).gang ≤ k := by
  have hlow := lowestWith_live (·.gang) hi
  rwa [hu.gangs i hi] at hlow

theorem gang_split {u : Unit} (hu : Indexed u) {g i : Nat} (hi : i ∈ u.gangSlices g) : ((u.split g).slice i).gang = (samePc u (u.gangSlices g) i).headD i := by
  have hlive := (mem_gangSlices.mp hi).1
  have hlow : (samePc u (u.gangSlices g) i).headD i ∈ samePc u (u.gangSlices g) i := headD_mem (mem_samePc.mpr ⟨hi, rfl⟩) i
  obtain ⟨hlow, hpc⟩ := mem_samePc.mp hlow
  obtain ⟨hlowLive, hlowGang⟩ := mem_gangSlices.mp hlow
  by_cases h : (partsOf u (u.gangSlices g)).length ≤ 1
  · obtain ⟨hg, hgg, hgle⟩ := gang_mem hu hlive
    rw [split_onePart h]
    refine Nat.le_antisymm (hgle _ hlowLive (hlowGang.trans (mem_gangSlices.mp hi).2.symm)) ?_
    have hgMem : (u.slice i).gang ∈ u.gangSlices g := mem_gangSlices.mpr ⟨hg, hgg.trans (mem_gangSlices.mp hi).2⟩
    exact pcLow_le hi hgMem (pc_eq_of_onePart h hgMem hi)
  · rw [slice_split h, slice_normalise (mem_liveSlices_parted.mpr hlive)]
    show lowestWith (u.parted g) (·.gang) ((u.parted g).slice i).gang = _
    rw [gang_parted hi]
    refine lowestWith_eq (mem_liveSlices_parted.mpr hlowLive) ?_ fun k hk hgk => ?_
    · have hsame : (samePc u (u.gangSlices g) ((samePc u (u.gangSlices g) i).headD i)).headD ((samePc u (u.gangSlices g) i).headD i) = (samePc u (u.gangSlices g) i).headD i := by
        rw [samePc_congr _ hpc]
        cases samePc u (u.gangSlices g) i <;> rfl
      exact (gang_parted hlow).trans hsame
    · have hkLive := mem_liveSlices_parted.mp hk
      by_cases hkg : k ∈ u.gangSlices g
      · rw [gang_parted hkg] at hgk
        exact hgk ▸ pcLow_le hkg hkg rfl
      · rw [gang_parted_outside hkLive hkg] at hgk
        obtain ⟨-, hgang, -⟩ := gang_mem hu hkLive
        rw [hgk, hlowGang] at hgang
        exact absurd (mem_gangSlices.mpr ⟨hkLive, hgk.trans hgang.symm⟩) hkg

theorem gang_split_outside {u : Unit} (hu : Indexed u) {g i : Nat} (hi : i ∈ u.liveSlices) (hg : i ∉ u.gangSlices g) : ((u.split g).slice i).gang = (u.slice i).gang := by
  by_cases h : (partsOf u (u.gangSlices g)).length ≤ 1
  · rw [split_onePart h]
  · obtain ⟨hlow, hgang, hle⟩ := gang_mem hu hi
    have hlowOut : (u.slice i).gang ∉ u.gangSlices g := fun hin => hg (mem_gangSlices.mpr ⟨hi, hgang.symm.trans (mem_gangSlices.mp hin).2⟩)
    rw [slice_split h, slice_normalise (mem_liveSlices_parted.mpr hi)]
    show lowestWith (u.parted g) (·.gang) ((u.parted g).slice i).gang = _
    rw [gang_parted_outside hi hg]
    refine lowestWith_eq (mem_liveSlices_parted.mpr hlow) ((gang_parted_outside hlow hlowOut).trans hgang) fun k hk hgk => ?_
    have hkLive := mem_liveSlices_parted.mp hk
    by_cases hkg : k ∈ u.gangSlices g
    · rw [gang_parted hkg] at hgk
      have hin : (u.slice i).gang ∈ u.gangSlices g := hgk ▸ (mem_samePc.mp (headD_mem (mem_samePc.mpr ⟨hkg, rfl⟩) k)).1
      exact absurd hin hlowOut
    · exact hle k hkLive ((gang_parted_outside hkLive hkg).symm.trans hgk)

/-! ## Strands after a split (R31) -/

/-- The strand of a slice before the strands are numbered anew. -/
def newStrand (u : Unit) (g i : Nat) : Nat := strandAfter u (partsOf u (u.gangSlices g)) i

/-- After a split two slices are in one strand where their pieces are. -/
theorem strand_split_iff {u : Unit} {g i j : Nat} (hi : i ∈ u.liveSlices) (hj : j ∈ u.liveSlices) :
    ((u.split g).slice i).strand = ((u.split g).slice j).strand ↔ newStrand u g i = newStrand u g j := by
  by_cases h : (partsOf u (u.gangSlices g)).length ≤ 1
  · rw [split_onePart h, newStrand, newStrand, strandAfter_onePart h, strandAfter_onePart h]
  · have hi' := mem_liveSlices_parted (g := g).mpr hi
    have hj' := mem_liveSlices_parted (g := g).mpr hj
    rw [slice_split h, slice_split h, slice_normalise hi', slice_normalise hj', newStrand, newStrand, ← strand_parted g hi, ← strand_parted g hj]
    exact lowestWith_inj (·.strand) hi' hj'

theorem strand_lt {u : Unit} (hu : Indexed u) {i : Nat} (hi : i ∈ u.liveSlices) : (u.slice i).strand < 100 := by
  have hlow := (lowestWith_live (·.strand) hi).1
  rw [hu.strands i hi] at hlow
  have hlt := Unit.lt_of_live (mem_liveSlices.mp hlow)
  have hsize := hu.size
  omega

/-- A slice keeps its strand, or its piece is a new one. -/
theorem newStrand_cases (u : Unit) (g i : Nat) : (newStrand u g i = (u.slice i).strand ∧ (i ∈ u.gangSlices g → LowestPiece u (u.gangSlices g) i)) ∨
    (i ∈ u.gangSlices g ∧ newStrand u g i = 100 + pieceLow u (u.gangSlices g) i) := by
  by_cases hi : i ∈ u.gangSlices g
  · by_cases hlow : LowestPiece u (u.gangSlices g) i
    · exact .inl ⟨strandAfter_lowest hi hlow, fun _ => hlow⟩
    · exact .inr ⟨hi, strandAfter_parted hi hlow⟩
  · exact .inl ⟨strandAfter_outside hi, fun h => absurd h hi⟩

/-- Slices of different strands stay in different strands. -/
theorem newStrand_ne {u : Unit} (hu : Indexed u) (g : Nat) {i j : Nat} (hi : i ∈ u.liveSlices) (hj : j ∈ u.liveSlices) (h : (u.slice i).strand ≠ (u.slice j).strand) :
    newStrand u g i ≠ newStrand u g j := by
  have hti := strand_lt hu hi
  have htj := strand_lt hu hj
  rcases newStrand_cases u g i with ⟨hni, -⟩ | ⟨higang, hni⟩ <;> rcases newStrand_cases u g j with ⟨hnj, -⟩ | ⟨hjgang, hnj⟩
  · rwa [hni, hnj]
  · omega
  · omega
  · intro heq
    have hlow : pieceLow u (u.gangSlices g) i = pieceLow u (u.gangSlices g) j := by omega
    exact h (same_of_pieceLow higang hjgang hlow).2

/-- The slices of one strand in a gang stay together where their pcs are the same. -/
theorem newStrand_eq_iff {u : Unit} (hu : Indexed u) {g i j : Nat} (hi : i ∈ u.gangSlices g) (hj : j ∈ u.gangSlices g) (h : (u.slice i).strand = (u.slice j).strand) :
    newStrand u g i = newStrand u g j ↔ (u.slice i).pc = (u.slice j).pc := by
  have hti := strand_lt hu (mem_gangSlices.mp hi).1
  have htj := strand_lt hu (mem_gangSlices.mp hj).1
  constructor
  · intro heq
    have hlow : pieceLow u (u.gangSlices g) i = pieceLow u (u.gangSlices g) j := by
      rcases newStrand_cases u g i with ⟨hni, hmini⟩ | ⟨-, hni⟩ <;> rcases newStrand_cases u g j with ⟨hnj, hminj⟩ | ⟨-, hnj⟩
      · exact Nat.le_antisymm (hmini hi j hj h.symm) (hminj hj i hi h)
      all_goals omega
    exact (same_of_pieceLow hi hj hlow).1
  · intro hpc
    have hpiece : pieceLow u (u.gangSlices g) i = pieceLow u (u.gangSlices g) j := by rw [pieceLow, pieceLow, piece_congr _ hpc h]
    by_cases hmin : LowestPiece u (u.gangSlices g) i
    · have hmin' : LowestPiece u (u.gangSlices g) j := fun k hk hs => hpiece ▸ hmin k hk (hs.trans h.symm)
      rw [newStrand, newStrand, strandAfter_lowest hi hmin, strandAfter_lowest hj hmin', h]
    · have hmin' : ¬ LowestPiece u (u.gangSlices g) j := fun hj' => hmin fun k hk hs => hpiece ▸ hj' k hk (hs.trans h)
      rw [newStrand, newStrand, strandAfter_parted hi hmin, strandAfter_parted hj hmin', hpiece]

/-- The slices of a strand outside the gang stay with the piece that has the strand's lowest slice in the gang. -/
theorem newStrand_first {u : Unit} {g t j : Nat} (h : (u.gangSlices g).find? (fun j => decide ((u.slice j).strand = t)) = some j) : newStrand u g j = t := by
  have hj := List.mem_of_find?_eq_some h
  have hs : (u.slice j).strand = t := by simpa using List.find?_some h
  have hlow : ∀ k ∈ u.gangSlices g, (u.slice k).strand = t → j ≤ k := fun k hk hk' => le_of_find?_sorted (sorted_rangeWhere ..) h hk (decide_eq_true hk')
  have hself : pieceLow u (u.gangSlices g) j ≤ j := by
    have hsorted : (piece u (u.gangSlices g) j).Pairwise (· < ·) := ((sorted_rangeWhere ..).filter _).filter _
    have hmem := self_mem_piece (u := u) hj
    rw [pieceLow]
    cases hp : piece u (u.gangSlices g) j with
    | nil => exact Nat.zero_le _
    | cons a as =>
      rw [hp] at hmem hsorted
      rcases List.mem_cons.mp hmem with rfl | hmem
      · exact Nat.le_refl _
      · exact Nat.le_of_lt ((List.pairwise_cons.mp hsorted).1 j hmem)
  have hmin : LowestPiece u (u.gangSlices g) j := fun k hk hks => by
    obtain ⟨hmem, -, hstrand⟩ := mem_piece.mp (pieceLow_mem (u := u) hk)
    exact hself.trans (hlow _ hmem (hstrand.trans (hks.trans hs)))
  exact (strandAfter_lowest hj hmin).trans hs

/-! ## The obligation -/

/-- A branch of active lanes (R132, R134). -/
theorem divide_keepsLanes (sl : Slice) (pc : DWord) (ts : List (Nat × DWord)) (i : Nat) (h : ∀ x ∈ ts, sl.active.getLsbD (x.1 % 4) = true) :
    let gs := targetGroups i ts
    (sl.divide pc gs).active ||| (sl.divide pc gs).waiting = sl.active ||| sl.waiting ∧
    (sl.active &&& sl.waiting = 0 → (ts.map (·.1)).Nodup → (sl.divide pc gs).active &&& (sl.divide pc gs).waiting = 0) ∧ (sl.divide pc gs).live = sl.live := by
  intro gs
  have hin : ∀ g ∈ gs, ∀ b, g.2.getLsbD b = true → sl.active.getLsbD b = true := fun g hg b hb => by
    obtain ⟨l, hl, rfl⟩ := ((groupsOf_targetGroups i ts).lanes g hg b).mp hb
    exact h _ (List.mem_filter.mp hl).1
  exact ⟨divide_covers pc hin, fun hsl hts => divide_apart pc hin (targetGroups_apart i hts) hsl, by cases gs <;> rfl⟩

/-- The groups of ascending lanes of one slice (R134). -/
theorem targetGroups_spec (i : Nat) (ts : List (Nat × DWord)) (hts : ts.Pairwise (fun x y => x.1 < y.1)) (hi : ∀ x ∈ ts, x.1 / 4 = i) : let gs := targetGroups i ts
    (gs.map (·.1)).Nodup ∧ (∀ x ∈ ts, ∃ g ∈ gs, g.1 = x.2) ∧ (∀ g ∈ gs, ∀ b < 4, g.2.getLsbD b = true ↔ (4 * i + b, g.1) ∈ ts) ∧ gs.Pairwise (fun g h => lowBit g.2 < lowBit h.2) := by
  have hgs := groupsOf_targetGroups i ts
  have hall : lanesOfSlice i ts = ts := List.filter_eq_self.mpr fun x hx => decide_eq_true (hi x hx)
  rw [hall] at hgs
  refine ⟨hgs.targets, hgs.covers, fun g hg b hb => (hgs.lanes g hg b).trans ⟨?_, fun hmem => ⟨_, hmem, by omega⟩⟩, targetGroups_ordered hts hi⟩
  rintro ⟨l, hl, rfl⟩
  have hslice : l / 4 = i := hi _ hl
  have hlane : 4 * i + l % 4 = l := by omega
  rwa [hlane]

/-- The effect of each kind of entry on a slice that acts on it once (R138, R139). -/
theorem arrive_spec (sl : Slice) (e : REntry) (es : List REntry) (h : StackOk sl) (hr : sl.rstack = e :: es) :
    (∀ j ∈ es, sl.active ≠ 0 → e.mask ≠ 0 → j.mask = 0 → (∀ f ∈ es.takeWhile (fun f => decide (f ≠ j)), f.mask ≠ 0) → sl.pc = j.pc → e.pc ≠ j.pc →
      sl.arrive = { sl with rstack := es, active := e.mask, pc := e.pc }) ∧
    (sl.active ≠ 0 → e.mask = 0 → sl.pc = e.pc → NoJoinAt es sl.pc → sl.arrive = { sl with rstack := es, active := sl.live &&& ~~~({ sl with rstack := es } : Slice).waiting }) ∧
    (sl.active = 0 → e.mask ≠ 0 → NoJoinAt es e.pc → sl.arrive = { sl with rstack := es, active := e.mask, pc := e.pc }) ∧
    (sl.active = 0 → e.mask = 0 → NoJoinAt es e.pc → sl.live &&& ~~~({ sl with rstack := es } : Slice).waiting ≠ 0 →
      sl.arrive = { sl with rstack := es, active := sl.live &&& ~~~({ sl with rstack := es } : Slice).waiting, pc := e.pc }) := by
  have hne : sl.rstack ≠ [] := hr ▸ List.cons_ne_nil e es
  have hresume (forced : Bool) (hm : e.mask ≠ 0) : sl.popTop forced = { sl with rstack := es, active := e.mask, pc := e.pc } := by
    rw [Slice.popTop_resume forced hr hm, Slice.mask_live h hr]
  refine ⟨fun j hj ha hm hjm habove hpc hoff => ?_, fun ha hm hpc hoff => ?_, fun ha hm hoff => ?_, fun ha hm hoff hruns => ?_⟩
  · have htop : topJoin es = some j := topJoin_of_takeWhile hj hjm habove
    have htop' : topJoin sl.rstack = some j := by
      rw [hr, topJoin, List.find?_cons_of_neg (by simpa using hm)]
      exact htop
    refine Slice.arrive_atJoin h ha htop' hpc (hresume false hm) hm fun k hk => ?_
    obtain rfl : j = k := Option.some.inj (htop.symm.trans hk)
    exact hoff
  · have htop : topJoin sl.rstack = some e := by
      rw [hr]
      exact List.find?_cons_of_pos (by simpa using hm)
    exact Slice.arrive_atJoin h ha htop hpc (Slice.popTop_join false hr hm) (Slice.join_runs h hr ha) (offJoin_of_noJoinAt hoff)
  · have hl : sl.live ≠ 0 := ne_zero_of_within (h.within e (hr ▸ List.mem_cons_self)) hm
    exact Slice.arrive_empty hl ha hne (hresume true hm) hm (offJoin_of_noJoinAt hoff)
  · have hl : sl.live ≠ 0 := fun hzero => hruns (by simp [hzero])
    exact Slice.arrive_empty hl ha hne (Slice.popTop_join true hr hm) hruns (offJoin_of_noJoinAt hoff)

/-- Settles O24: dividing, arriving and parting each keep the lanes, by the lemmas about the masks, the stack and the pieces above. -/
theorem divergenceKeepsTheLanes : Obligations.DivergenceKeepsTheLanes := by
  refine ⟨divide_keepsLanes, targetGroups_spec, fun sl pc g gs => ⟨rfl, rfl⟩, arrive_spec, fun sl h => ?_, fun u g hu => ?_⟩
  · exact ⟨Slice.stackOk_arrive h, Slice.keepsLanes_arrive h, sl.arrive_live, sl.arrive_lstack, fun hl hrun => Slice.settle_runs h hl hrun (Nat.lt_succ_self _)⟩
  · refine ⟨fun i hi => (find?_samePc hi).trans (congrArg some (gang_split hu hi).symm), fun i hi hg => gang_split_outside hu hi hg, fun i hi j hj hs => ?_, fun i hi j hj hs => ?_, fun i hi hg j hj => ?_, fun i => ?_, (regrouped_split u g).regs⟩
    · exact (strand_split_iff (mem_gangSlices.mp hi).1 (mem_gangSlices.mp hj).1).trans (newStrand_eq_iff hu hi hj hs)
    · exact fun heq => newStrand_ne hu g hi hj hs ((strand_split_iff hi hj).mp heq)
    · have hjlive := (mem_gangSlices.mp (List.mem_of_find?_eq_some hj)).1
      exact (strand_split_iff hi hjlive).mpr ((strandAfter_outside hg).trans (newStrand_first hj).symm)
    · obtain ⟨hpc, hactive, hlive, hrstack⟩ := moved_split u g i
      exact ⟨hpc, hactive, hlive, hrstack⟩

end Sys2Proof.Machine
end
section
/-! MIGR: wave lanes become threads of their core, a thread becomes a record of its bin, and open loops stop both (R148 to R151). -/

namespace Sys2Proof.Machine

open Sys2Proof.Spec

/-! ## The registers that a lane takes with it (R151) -/

theorem smGet_foldl_range (f : Nat → Word) (n k : Nat) : smGet 0 ((List.range n).foldl (fun m i => smSet 0 m i (f i)) []) k = if k < n then f k else 0 := by
  induction n with
  | zero => rfl
  | succ n ih =>
    rw [List.range_succ, List.foldl_append, List.foldl_cons, List.foldl_nil]
    by_cases hk : k = n
    · subst hk
      rw [smGet_smSet_same, if_pos (Nat.lt_succ_self k)]
    · have hlt : k < n + 1 ↔ k < n := by omega
      rw [smGet_smSet_other _ _ _ hk, ih]
      simp only [hlt]

theorem getV_migrRegs (u : Unit) (l : Nat) {i : Nat} (hi : i < 64) : (migrRegs u l).getV 0 i = if i < u.ident.regs then u.regs.getV l i else 0 := by
  have hlt : i < min 64 u.ident.regs ↔ i < u.ident.regs := by omega
  have hreg : (migrRegs u l).getV 0 i = smGet 0 (migrRegs u l).v i := by rw [Regs.getV, Nat.mul_zero, Nat.zero_add]
  rw [hreg, migrRegs, smGet_foldl_range]
  simp only [hlt]

theorem getK_migrRegs (u : Unit) (l : Nat) {i : Nat} (hi : i < 16) : (migrRegs u l).getK i = u.regs.getK i := by
  rw [Regs.getK, migrRegs, smGet_foldl_range, if_pos hi]

theorem getP_migrRegs (u : Unit) (l : Nat) {i : Nat} (hi : i < 8) : (migrRegs u l).getP i 0 = u.regs.getP i l := by
  have hget : (migrRegs u l).p.getD i 0 = if u.regs.getP i l then 1 else 0 := by
    rw [migrRegs, List.getD_eq_getElem?_getD, List.getElem?_map, List.getElem?_range hi]
    rfl
  rw [Regs.getP, hget]
  cases u.regs.getP i l <;> rfl

/-! ## A fault where no transaction is open -/

/-- A unit without open transactions loses no lane by its fault. -/
theorem unitsStay_takeFault_noOpen (s : State) {iss : Issue} (f : FaultInfo) (undone : List Nat) (h : iss.u.txLanes = []) : UnitsStay s (takeFault s iss f undone) := by
  simp only [takeFault, h, doomLanes_nil, doomedLeave, List.isEmpty_nil, if_true]
  exact .trans (.trans (unitsStay_quitWaits ..) (.modUnit _ _ (stays_modCtl · _))) (unitsStay_sendPacket ..)

/-! ## MIGR -/

def migrBody (off : BitVec 24) (iss : Issue) (s : State) : Run :=
  let t := branchTarget iss.pc off
  let u := iss.u
  if (iss.lanes.any (fun l => !(u.slice (laneSlice l)).lstack.isEmpty)) then .error (.flt (fault .loop) iss.lanes s)
  else
    match landCheck s u t with
    | .error e => .error (e.stop iss.lanes s)
    | .ok s =>
      if u.isWave then
        match migrateLanes s u t iss.lanes with
        | .ok s => .ok s
        | .error (e, s, ls) => .error (ticketStop e ls (settleEmptied s iss))
      else
        match needTemplate s u t 80 with
        | .error e => .error (e.stop iss.lanes s)
        | .ok (s, x) => migrateThread s iss x

theorem exec_migr {s : State} {iss : Issue} (off : BitVec 24) (h : issueOf s true = some iss) :
    exec (.migr off) s = execMigr.dropEmpty s (frame s (migrDesc iss) (migrBody off)) := by
  rw [migrDesc, ← curHasCaller_of_issue h]
  rfl

theorem anyLoop_eq_false {iss : Issue} (h : ∀ l ∈ iss.lanes, (iss.u.slice (l / 4)).lstack = []) : iss.lanes.any (fun l => !(iss.u.slice (laneSlice l)).lstack.isEmpty) = false :=
  List.any_eq_false.mpr fun l hl => by simp [laneSlice, h l hl]

theorem migrBody_wave {s s1 t : State} {iss : Issue} {off : BitVec 24} (hw : iss.u.isWave = true) (hopen : ∀ l ∈ iss.lanes, (iss.u.slice (l / 4)).lstack = [])
    (hland : landCheck s iss.u (iss.pc + 4 + 4 * off.signExtend 64) = .ok s1) (hmove : migrateLanes s1 iss.u (iss.pc + 4 + 4 * off.signExtend 64) iss.lanes = .ok t) :
    migrBody off iss s = .ok t := by
  simp only [migrBody, branchTarget, anyLoop_eq_false hopen, hland, hw, hmove, Bool.false_eq_true, if_false, if_true]

theorem migrBody_thread {s s1 s2 : State} {x : Template} {iss : Issue} {off : BitVec 24} (hw : iss.u.isWave = false) (hopen : ∀ l ∈ iss.lanes, (iss.u.slice (l / 4)).lstack = [])
    (hland : landCheck s iss.u (iss.pc + 4 + 4 * off.signExtend 64) = .ok s1) (htemplate : needTemplate s1 iss.u (iss.pc + 4 + 4 * off.signExtend 64) 80 = .ok (s2, x)) :
    migrBody off iss s = migrateThread s2 iss x := by
  simp only [migrBody, branchTarget, anyLoop_eq_false hopen, hland, hw, htemplate, Bool.false_eq_true, if_false]

theorem migrBody_loop {s : State} {iss : Issue} (off : BitVec 24) (h : ∃ l ∈ iss.lanes, (iss.u.slice (l / 4)).lstack ≠ []) :
    migrBody off iss s = .error (.flt (fault .loop) iss.lanes s) := by
  have hany : iss.lanes.any (fun l => !(iss.u.slice (laneSlice l)).lstack.isEmpty) = true := by simpa [laneSlice] using h
  exact if_pos hany

/-- A thread that has entered its bin is gone. -/
theorem migrateThread_gone {s t : State} {iss : Issue} {x : Template} (h : migrateThread s iss x = .ok t) : t.unit? iss.p = none := by
  unfold migrateThread at h
  dsimp only at h
  split at h
  · cases h
  · split at h
    · cases h
    · split at h
      · cases h
      · cases h
        exact unit?_removeUnit _ iss.u 2

/-- What is left to do after a MIGR: a wave all of whose lanes have migrated ends. -/
theorem dropEmpty_next {s t : State} {g : Bool} {iss : Issue} (h : issueOf s g = some iss) : execMigr.dropEmpty s (.next t) = .next (match t.unit? iss.p with
    | some u => if u.liveSlices = [] ∧ u.ident.serial = iss.u.ident.serial then exitUnit t u 2 else t
    | none => t) := by
  obtain ⟨ls, hls⟩ := issueOf_guard h false
  unfold execMigr.dropEmpty Issue.p
  simp only [hls, Bool.and_eq_true, List.isEmpty_iff, decide_eq_true_eq]
  cases t.unit? iss.u.place with
  | none => rfl
  | some u => exact (apply_ite Host.Outcome.next _ _ _).symm

/-- Settles O29: the frame of MIGR by its three outcomes, and then whether its wave still has a lane. -/
theorem migrationMovesLanesAndThreads : Obligations.MigrationMovesLanesAndThreads := by
  refine ⟨⟨fun s off iss s1 t hw hruns hopen hland hmove => ?_, fun u l i => ⟨getV_migrRegs u l, getK_migrRegs u l, getP_migrRegs u l, rfl, rfl⟩⟩,
    fun s off iss hruns hloop => ?_, fun s off iss s1 s2 x t hw hruns hopen hland htemplate hleave => ?_⟩
  · rw [exec_migr off hruns.issue, frame_plain hruns rfl (migrBody_wave hw hopen hland hmove), ends_lanes hruns rfl]
    exact dropEmpty_next hruns.issue
  · rw [exec_migr off hruns.issue, frame_plain_fault hruns (migrBody_loop off hloop)]
    exact dropEmpty_live hruns.issue (unitsStay_takeFault_noOpen s _ _ (hruns.logged rfl))
  · have hgone := migrateThread_gone hleave
    have hbody : migrBody off iss s = .ok t := (migrBody_thread hw hopen hland htemplate).trans hleave
    refine ⟨hgone, ?_⟩
    rw [exec_migr off hruns.issue, frame_plain hruns rfl hbody, ends_lanes hruns rfl, complete_absent _ hgone, dropEmpty_next hruns.issue, hgone]

end Sys2Proof.Machine
end
